-- ==== Sys2Proof/Word.lean ====
section
/-! DEFINITION. The word types of the HX8: bytes, 32-bit lane values, 64-bit uniform values and
addresses, 128-bit handles, 96-bit instruction words (spec 06 R79, 04 R52). -/

namespace Sys2Proof

/-- One byte. -/
abbrev Byte := BitVec 8
/-- One lane of a vector register (R79). -/
abbrev Word := BitVec 32
/-- A uniform register, an address, a program counter (R79, R47). -/
abbrev DWord := BitVec 64
/-- A handle (R344). -/
abbrev HWord := BitVec 128
/-- A mask of the 32 lanes, lane l at bit l. -/
abbrev Mask := BitVec 32

end Sys2Proof
end

