-- ==== Sys2Proof/Config.lean ====
section
/-! DEFINITION. What is fixed for one HX8 module: the counts of Table 0-1 and of R441, the local
region of R160, and the values the spec leaves open, as constants without a body (log entries 4, 5). -/

namespace Sys2Proof.Config

/-- Compute dies (R2). -/
abbrev dies : Nat := 8
/-- Cores per die (R2). -/
abbrev coresPerDie : Nat := 128
/-- Wave slots per core (R2). -/
abbrev waveSlots : Nat := 64
/-- Granules of a core's unified store (R82). -/
abbrev granules : Nat := 512
/-- Granules that stay in CACHE or DRAIN (R85). -/
abbrev minCacheGranules : Nat := 16
/-- Named barrier slots of a core (R206). -/
abbrev barrierSlots : Nat := 512
/-- First byte of the local region, LB (R160). -/
abbrev localBase : Nat := 0xFFFFFF0000000000
/-- Entries of a fault queue ring (R155). -/
abbrev faultRing : Nat := 1024
/-- Slots of the Gauge unit's reorder window (R338). -/
abbrev gaugeWindow : Nat := 65536
/-- Cycles after which a held replay request times out (R215). -/
abbrev gateTimeout : Nat := 2 ^ 24

/-- FREE VALUE (log entry 4). The n-th value the spec calls undefined or does not state. No body:
nothing can be proved of it, so a statement holds whatever it is. -/
opaque freeValue (w n : Nat) : BitVec w

/-- SHA-512 of a byte string (R445, R454, R455), named by the spec and not defined in it (log entry 5). -/
opaque sha512 (data : List (BitVec 8)) : BitVec 512

/-- The identity public key derived from the physically unclonable function (R449; log entry 5). -/
opaque identityPublicKey : List (BitVec 8)

/-- The P-521 signature by the identity key over a byte string (R449, R455; log entry 5). -/
opaque identitySign (data : List (BitVec 8)) : List (BitVec 8)

/-- Whether 133 bytes are a P-521 public key on the curve (R451; log entry 5). -/
opaque onCurve (key : List (BitVec 8)) : Bool

/-- A digest as its 64 bytes (log entry 5). -/
def digestBytes (d : BitVec 512) : List (BitVec 8) := (List.range 64).map fun k => d.extractLsb' (8 * k) 8

/-- The X coordinate of the ECDH agreement between a host key and the identity key (R451; log entry 5). -/
opaque agreedX (hostKey : List (BitVec 8)) : List (BitVec 8)

/-- AES-256 key unwrap (R451, RFC 3394): the key, or none when the unwrap fails (log entry 5). -/
opaque aesUnwrap (kek wrapped : List (BitVec 8)) : Option (BitVec 256)

/-- The key that a KEYLOAD carries: the key-encryption key is the first 32 bytes of SHA-512 of the agreed X coordinate (R451). -/
def unwrapKey (hostKey wrapped : List (BitVec 8)) : Option (BitVec 256) :=
  aesUnwrap ((digestBytes (sha512 (agreedX hostKey))).take 32) wrapped

/-- A number as it stands in a report: the spec gives no width (R455; log entry 5). -/
opaque reportCount (n : Nat) : List (BitVec 8)
opaque reportMode (n : Nat) : List (BitVec 8)

/-- THE ATTESTATION REPORT (R455): the nonce, the digests of the firmware and the configuration image, K and its count, the identity
public key and the start mode, in this order, signed with the identity key. -/
def report (nonce : List (BitVec 8)) (fw cfg k : BitVec 512) (count mode : Nat) : List (BitVec 8) :=
  let body := nonce ++ digestBytes fw ++ digestBytes cfg ++ digestBytes k ++ reportCount count ++ identityPublicKey ++ reportMode mode
  body ++ identitySign body

/-- The place of the report in the payload area, which the spec does not give (R455; log entry 5). -/
opaque reportOffset : BitVec 64

/-- The retained-parameter block that a cold start writes (R446; log entry 5). -/
opaque retainedBlock (n : Nat) : List (BitVec 8)

/-- A word that a refused port, device or peer would supply and the spec does not give (log entry 5). -/
opaque peerWord (n : Nat) : BitVec 64

/-- The MODULE field of this module's handles: bits 47-0 of the SHA-512 digest of its identity public key (R445). -/
def moduleId : BitVec 48 := (sha512 identityPublicKey).setWidth 48

end Sys2Proof.Config
end

