-- ==== Sys2Proof/Syntax.lean ====
section
/-! DEFINITION. The instruction set: every row of opcode_table.json is one constructor of `Instr`.
Rows 0 to 171 are forms with an encoding (R75); rows 172 to 246 are steps of the part without one
(95_what_each_step_holds.md), which name what they act on. -/

namespace Sys2Proof

/-- The control fields of every word, bits 29-10 (R13, R15, R16, R52). -/
structure Ctl where
  /-- negate bit of the guard -/
  neg : Bool
  /-- predicate index of the guard -/
  pix : Nat
  stall : Nat
  yld : Bool
  /-- counter named, 0-5, or 7 for none -/
  ctr : Nat
  /-- wait mask, bit N for cN -/
  wait : Nat
  deriving DecidableEq, Repr

/-- A value operand: kinds 00, 01, 10 of Table 5-2, or the source B value of the immediate class. -/
inductive Src where
  | v (n : Nat)
  | s (n : Nat)
  | sys (n : Nat)
  | imm (x : Word)
  deriving DecidableEq, Repr

/-- A register destination of kind 00 or 01. -/
inductive Dst where
  | v (n : Nat)
  | s (n : Nat)
  deriving DecidableEq, Repr

/-- A destination of kind 00, 01 or 11 (a predicate). -/
inductive DstP where
  | v (n : Nat)
  | s (n : Nat)
  | p (n : Nat)
  deriving DecidableEq, Repr

/-- A predicate operand of kind 11 (R99). -/
structure PSrc where
  ix : Nat
  neg : Bool
  deriving DecidableEq, Repr

/-- The memory operand of a memory-class word (R74); `x` is zero in the modes that read no index. -/
structure Addr where
  am : Nat
  a : Nat
  x : Nat
  off : BitVec 16
  deriving DecidableEq, Repr

/-- A first/last pair of SPAN or RLXST (R113); (0xFF, 0x00) is empty. -/
structure RegRange where
  first : Nat
  last : Nat
  deriving DecidableEq, Repr

/-- TYPE of the integer forms (Table 5-4). -/
inductive Ty | s32 | u32 deriving DecidableEq, Repr
/-- STYPE of ICVT. -/
inductive SubTy | s8 | u8 | s16 | u16 | s32 | u32 deriving DecidableEq, Repr
/-- CMP of ISETP. -/
inductive ICmp | eq | ne | lt | le | gt | ge deriving DecidableEq, Repr
/-- CMP of FSETP and HSETP2. -/
inductive FCmp | eq | ne | lt | le | gt | ge | num | nan deriving DecidableEq, Repr
/-- RND (Table 8-3). -/
inductive Rnd | rn | rz | ru | rd deriving DecidableEq, Repr
/-- HALF of the paired-half forms. -/
inductive Half | both | lo | hi deriving DecidableEq, Repr
/-- Floating-point types of DTYPE and STYPE codes 000-011. -/
inductive FTy | f32 | f16 | bf16 | e4m3 deriving DecidableEq, Repr
/-- VMODE of VOTE. -/
inductive VMode | all | any | ballot deriving DecidableEq, Repr
/-- SMODE of SHFL. -/
inductive SMode | idx | up | down | xor deriving DecidableEq, Repr
/-- CACHE (Table 5-5), a hint (R165). -/
inductive Cache | default | stream | keep deriving DecidableEq, Repr
/-- SCOPE (Table 5-5). -/
inductive Scope | wave | team | cluster | die | module | system deriving DecidableEq, Repr
/-- Access widths in bits. -/
inductive Width | w8 | w16 | w32 | w64 | w128 deriving DecidableEq, Repr
/-- OP of ATOM and RED (Table 12-2). -/
inductive AOp | add | min | max | and | or | xor | exch | cas | fadd deriving DecidableEq, Repr
/-- OP of CRED. -/
inductive COp | add | min | max | and | or | xor deriving DecidableEq, Repr
/-- TYPE of CRED. -/
inductive CTy | f32 | s32 | u32 deriving DecidableEq, Repr
/-- Count of LOOP (R116). -/
inductive LoopCnt | imm (n : Nat) | reg (s : Nat) deriving DecidableEq, Repr
/-- Object kinds of BIND (R202). -/
inductive BindKind | bar | ring | flag | tile deriving DecidableEq, Repr
/-- Length of BIND (R202): (value + 1) x 16 bytes, or a uniform register. -/
inductive BindLen | imm (v : Nat) | reg (s : Nat) deriving DecidableEq, Repr
/-- m of BARINIT: a count, or a register holding a mask (R207). -/
inductive BarSet | imm (m : Nat) | reg (s : Nat) deriving DecidableEq, Repr
/-- Layouts of WBLD (R267). -/
inductive WLayout | e4m3 | sp | h16 | i8 deriving DecidableEq, Repr
/-- Guess sources (R296). -/
inductive GSrc | hold | prev | supplied deriving DecidableEq, Repr
/-- Size of BNEW (R362). -/
inductive BSize | imm (x : Word) | reg (s : Nat) deriving DecidableEq, Repr
/-- Selectors of HQRY (R367). -/
inductive HSel | lo | hi | st deriving DecidableEq, Repr
/-- ACT of BRK and of a comparator (R402). -/
inductive BrkAct | halt | stop | trap deriving DecidableEq, Repr

/-- What a peer does with a handle of this module that it holds (R346, R352, R444): a see handle is created or ends; the fill
handle is dropped or dies undropped; bytes are stored through the fill handle; the handle moves on beyond another port. -/
inductive PeerAct where
  | create
  | drop
  | die
  | store (off : Nat) (bytes : List Byte)
  | moved (port : Nat)
  deriving DecidableEq, Repr

/-- What HXFER_DELIVERY carries (R351): a handle this module sent, with the far end's verdict, or a
handle that a peer sends to one of this module's inbound rings. -/
inductive HxDelivery where
  | outbound (op : Nat) (accepted : Bool)
  | inbound (port ring : Nat) (handle : HWord)
  /-- what a peer behind a port does with a handle of this module that it holds (R346, R352) -/
  | peer (port : Nat) (handle : HWord) (act : PeerAct)
  deriving DecidableEq, Repr

/-- The bind record the firmware writes (Table 27-5); the fields of R383 and R391 that follow from the
launch are computed. -/
structure BindArgs where
  launch : Nat
  wpc : Nat
  /-- die count D and the dies bound, ascending (R391) -/
  dieList : List Nat
  stagger : Nat
  cores : BitVec 128
  /-- dies whose record has a WPC, STAGGER and CORES of its own: die and the three -/
  own : List (Nat × Nat × Nat × BitVec 128) := []
  deriving DecidableEq, Repr

/-- What a configuration image says (R448). -/
structure CfgImage where
  /-- physical addresses of request ring 0, request ring 1 and the reply ring, per die -/
  rings : List (Nat × Nat × Nat)
  poolBase : Nat
  poolPages : Nat
  poolSlot : Nat
  /-- modules reachable on each peer port, the peer itself first -/
  peers : List (List (BitVec 48))
  /-- 0 LOG, 1 ERASE, 2 ERASE_HALT (R456) -/
  policy : Nat
  /-- privileged requests accepted on ring 0, per die -/
  privRing : List Bool
  deriving DecidableEq, Repr

/-- What a start finds of the part itself: training, repair data and self-test (Table 31-2), and how this module's firmware
configures the inbound handle rings (R351): port, ring, address space, control block. -/
structure StartArgs where
  trainOk : Bool
  repairOk : Bool
  selfTestOk : Bool
  inRings : List (Nat × Nat × Nat × Nat)
  deriving DecidableEq, Repr

/-- A request element as it was taken from a ring (Table 31-4). -/
structure Request where
  die : Nat
  ring : Nat
  addr : DWord
  tag : BitVec 16
  asid : Nat
  target : Nat
  op : Nat
  deriving DecidableEq, Repr

/-- Every step of the part (R75; opcode_table.json). -/
inductive Instr where
  -- 0x000-0x011 control and wave forms
  | nop (h : Ctl)
  | bra (h : Ctl) (target : Word)
  | brx (h : Ctl) (a : Src)
  | call (h : Ctl) (d : Nat) (target : Word)
  | ret (h : Ctl) (a : Nat)
  | join (h : Ctl)
  | exit (h : Ctl)
  | yield (h : Ctl)
  | span (h : Ctl) (r0 r1 r2 r3 : RegRange)
  | rep (h : Ctl) (n : Src)
  | loop (h : Ctl) (n : LoopCnt) (last : Word)
  | elect (h : Ctl) (d : DstP)
  | vote (h : Ctl) (mode : VMode) (d : DstP) (a : PSrc)
  | shfl (h : Ctl) (mode : SMode) (d : Nat) (a b : Src)
  | waitc (h : Ctl) (mask : Nat)
  | sleep (h : Ctl) (n : Src)
  | ipref (h : Ctl) (target : Word) (lines : Nat)
  | feat (h : Ctl) (d : Dst) (id : Src)
  -- 0x040-0x05E integer and address forms
  | iadd (h : Ctl) (ty : Ty) (sat : Bool) (d : Dst) (a b : Src)
  | isub (h : Ctl) (ty : Ty) (sat : Bool) (d : Dst) (a b : Src)
  | imul (h : Ctl) (d : Dst) (a b : Src)
  | imulh (h : Ctl) (ty : Ty) (d : Dst) (a b : Src)
  | imad (h : Ctl) (ty : Ty) (sat : Bool) (d : Dst) (a b c : Src)
  | iadd64 (h : Ctl) (d : Dst) (a b : Src)
  | imin (h : Ctl) (ty : Ty) (d : Dst) (a b : Src)
  | imax (h : Ctl) (ty : Ty) (d : Dst) (a b : Src)
  | iabs (h : Ctl) (d : Dst) (a : Src)
  | and (h : Ctl) (d : Dst) (a b : Src)
  | or (h : Ctl) (d : Dst) (a b : Src)
  | xor (h : Ctl) (d : Dst) (a b : Src)
  | not (h : Ctl) (d : Dst) (a : Src)
  | lut3 (h : Ctl) (lut : BitVec 8) (d : Dst) (a b c : Src)
  | shl (h : Ctl) (d : Dst) (a b : Src)
  | shr (h : Ctl) (d : Dst) (a b : Src)
  | sar (h : Ctl) (d : Dst) (a b : Src)
  | shf (h : Ctl) (right : Bool) (d : Dst) (a b c : Src)
  | popc (h : Ctl) (d : Dst) (a : Src)
  | clz (h : Ctl) (d : Dst) (a : Src)
  | brev (h : Ctl) (d : Dst) (a : Src)
  | bfe (h : Ctl) (ty : Ty) (d : Dst) (a b : Src)
  | bfi (h : Ctl) (d : Dst) (a b c : Src)
  | bperm (h : Ctl) (d : Dst) (a b c : Src)
  | isetp (h : Ctl) (cmp : ICmp) (ty : Ty) (pd pe : Nat) (a b : Src)
  | sel (h : Ctl) (d : Dst) (a b : Src) (c : PSrc)
  | mov (h : Ctl) (d : Dst) (a : Src)
  | movi (h : Ctl) (hi : Bool) (d : Dst) (a : Src)
  | lea (h : Ctl) (ty : Ty) (sh : Nat) (d : Dst) (a b : Src)
  | icvt (h : Ctl) (sty : SubTy) (ty : Ty) (d : Dst) (a : Src)
  | idiv (h : Ctl) (ty : Ty) (d : Dst) (a b : Src)
  -- 0x0C0-0x0E0 floating-point forms
  | fadd (h : Ctl) (d : Dst) (a b : Src)
  | fsub (h : Ctl) (d : Dst) (a b : Src)
  | fmul (h : Ctl) (d : Dst) (a b : Src)
  | ffma (h : Ctl) (d : Dst) (a b c : Src)
  | fmin (h : Ctl) (d : Dst) (a b : Src)
  | fmax (h : Ctl) (d : Dst) (a b : Src)
  | fsetp (h : Ctl) (cmp : FCmp) (pd pe : Nat) (a b : Src)
  | fclass (h : Ctl) (d : Dst) (a : Src)
  | frnd (h : Ctl) (rnd : Rnd) (d : Dst) (a : Src)
  | fcvt (h : Ctl) (rnd : Rnd) (dty sty : FTy) (d : Dst) (a : Src)
  | f2i (h : Ctl) (rnd : Rnd) (dty : Ty) (sty : FTy) (d : Dst) (a : Src)
  | i2f (h : Ctl) (rnd : Rnd) (dty : FTy) (sty : Ty) (d : Dst) (a : Src)
  | fscale (h : Ctl) (d : Dst) (a n : Src)
  | fdiv (h : Ctl) (d : Dst) (a b : Src)
  | fsqrt (h : Ctl) (d : Dst) (a : Src)
  | frcp (h : Ctl) (d : Dst) (a : Src)
  | frsq (h : Ctl) (d : Dst) (a : Src)
  | fexp (h : Ctl) (d : Dst) (a : Src)
  | fexp2 (h : Ctl) (d : Dst) (a : Src)
  | flog (h : Ctl) (d : Dst) (a : Src)
  | flog2 (h : Ctl) (d : Dst) (a : Src)
  | fsin (h : Ctl) (d : Dst) (a : Src)
  | fcos (h : Ctl) (d : Dst) (a : Src)
  | ftanh (h : Ctl) (d : Dst) (a : Src)
  | fsigm (h : Ctl) (d : Dst) (a : Src)
  | hadd2 (h : Ctl) (half : Half) (d : Dst) (a b : Src)
  | hmul2 (h : Ctl) (half : Half) (d : Dst) (a b : Src)
  | hfma2 (h : Ctl) (half : Half) (d : Dst) (a b c : Src)
  | hmin2 (h : Ctl) (half : Half) (d : Dst) (a b : Src)
  | hmax2 (h : Ctl) (half : Half) (d : Dst) (a b : Src)
  | hsetp2 (h : Ctl) (half : Half) (cmp : FCmp) (pd pe : Nat) (a b : Src)
  | bfma2 (h : Ctl) (half : Half) (d : Dst) (a b c : Src)
  | fdot4 (h : Ctl) (d : Dst) (a b c : Src)
  -- 0x160-0x163 predicate forms
  | plop (h : Ctl) (lut : BitVec 8) (pd : Nat) (a b c : PSrc)
  | pset (h : Ctl) (pd : Nat) (x : Src)
  | p2v (h : Ctl) (d : Nat)
  | v2p (h : Ctl) (a mask : Src)
  -- 0x180-0x195 memory, atomic, transaction, ring and synchronisation forms
  | ld (h : Ctl) (cache : Cache) (sign : Bool) (width : Width) (d : Nat) (m : Addr)
  | ldNf (h : Ctl) (cache : Cache) (sign : Bool) (width : Width) (d pf : Nat) (m : Addr)
  | st (h : Ctl) (cache : Cache) (width : Width) (src : Nat) (m : Addr)
  | pref (h : Ctl) (cache : Cache) (m : Addr)
  | pgreq (h : Ctl) (m : Addr)
  | atom (h : Ctl) (op : AOp) (cache : Cache) (scope : Scope) (width : Width) (d src : Nat) (m : Addr)
  | red (h : Ctl) (op : AOp) (cache : Cache) (scope : Scope) (width : Width) (src : Nat) (m : Addr)
  | txbegin (h : Ctl) (target : Word)
  | txend (h : Ctl)
  | txabort (h : Ctl) (code : Src)
  | txstat (h : Ctl) (d : Nat)
  | enq (h : Ctl) (ps src : Nat) (m : Addr)
  | deq (h : Ctl) (d ps : Nat) (m : Addr)
  | bind (h : Ctl) (kind : BindKind) (obj : Nat) (a : Nat) (off : BitVec 16) (len : BindLen)
  | unbind (h : Ctl) (kind : BindKind) (obj : Nat) (a : Nat) (off : BitVec 16) (len : BindLen)
  | acq (h : Ctl) (scope : Scope) (d : Nat) (m : Addr)
  | rel (h : Ctl) (scope : Scope) (src : Nat) (m : Addr)
  | fence (h : Ctl) (scope : Scope)
  | barinit (h : Ctl) (b : Nat) (m : BarSet)
  | bara (h : Ctl) (b : Nat)
  | barw (h : Ctl) (b pb : Nat)
  | baraw (h : Ctl) (b pb : Nat)
  | barq (h : Ctl) (b d : Nat)
  -- 0x240-0x24B tensor, engine and task forms
  | tdef (h : Ctl) (t a : Nat) (off : BitVec 16)
  | tqry (h : Ctl) (d : Dst) (t sel : Nat)
  | cpy (h : Ctl) (ev : Option Nat) (td ts : Nat)
  | cpyr (h : Ctl) (ev : Option Nat) (td ts a : Nat)
  | qnt (h : Ctl) (ev : Option Nat) (td ts : Nat)
  | evpop (h : Ctl) (d ps : Nat)
  | evwait (h : Ctl) (d : Nat)
  | tkdef (h : Ctl) (x : Nat)
  | tkdec (h : Ctl) (i n : Nat)
  | tkpull (h : Ctl) (wait : Bool) (d ps types : Nat)
  | tkdone (h : Ctl) (i : Nat)
  | weirget (h : Ctl) (ev : Option Nat) (a ts r : Nat)
  -- 0x280-0x289 matrix forms
  | mma (h : Ctl) (ev : Option Nat) (acc ts slot : Nat)
  | mmah (h : Ctl) (ev : Option Nat) (bf : Bool) (acc ts slot : Nat)
  | mmai (h : Ctl) (ev : Option Nat) (acc ts slot : Nat)
  | mzero (h : Ctl) (ev : Option Nat) (acc : Nat)
  | mld (h : Ctl) (ev : Option Nat) (acc a : Nat) (off : BitVec 16)
  | mst (h : Ctl) (ev : Option Nat) (acc a : Nat) (off : BitVec 16)
  | wbld (h : Ctl) (ev : Option Nat) (layout : WLayout) (slot a : Nat) (off : BitVec 16)
  | accalloc (h : Ctl) (try_ : Bool) (ps acc : Nat)
  | accfree (h : Ctl) (acc : Nat)
  | oprfence (h : Ctl)
  -- 0x2C0-0x2C7 relaxation forms
  | rlxcfg (h : Ctl) (dense : Bool) (src : GSrc) (cluster : Bool) (limit t : Nat)
  | rlxcfgReg (h : Ctl) (dense : Bool) (src : GSrc) (cluster : Bool) (sl st : Nat)
  | rlxcfgTol (h : Ctl) (sa sb : Nat)
  | rlxst (h : Ctl) (r0 r1 r2 r3 : RegRange)
  | rlxin (h : Ctl) (d a : Nat) (off stride : BitVec 16)
  | rlxgs (h : Ctl) (none_ : Bool) (a : Nat) (off : BitVec 16)
  | rlxbeg (h : Ctl)
  | rlxend (h : Ctl)
  | rlxq (h : Ctl) (sel : Nat) (d : DstP)
  | rlxseed (h : Ctl) (src j : Nat)
  -- 0x2E0-0x2E4 Gauge forms
  | gcfg (h : Ctl) (ps a : Nat) (off : Word)
  | gperm (h : Ctl) (d : Nat) (a : Src)
  | gadd (h : Ctl) (ps : Nat) (a : Src)
  | gtest (h : Ctl) (pd : Nat)
  | gq (h : Ctl) (sel : Nat) (d : Dst)
  -- 0x2F0-0x2F9 basin forms
  | bnew (h : Ctl) (hf hs ps : Nat) (size : BSize)
  | hdrop (h : Ctl) (a : Nat)
  | hmov (h : Ctl) (d a : Nat)
  | hcpy (h : Ctl) (d a : Nat)
  | hld (h : Ctl) (sign : Bool) (width : Width) (d a : Nat) (idx : Option Nat) (off : BitVec 16)
  | hst (h : Ctl) (width : Width) (src a : Nat) (idx : Option Nat) (off : BitVec 16)
  | hstm (h : Ctl) (b : Nat) (off : BitVec 16) (a : Nat)
  | hldm (h : Ctl) (a ps b : Nat) (off : BitVec 16)
  | hldmRing (h : Ctl) (a ps b : Nat) (off : BitVec 16)
  | hxfer (h : Ctl) (ps a port ring : Nat)
  | hqry (h : Ctl) (sel : HSel) (d a : Nat)
  -- 0x310-0x314 and 0x320-0x328 launch, collective, system and debug forms
  | launch (h : Ctl) (d a : Nat)
  | stepmk (h : Ctl) (pw : Nat)
  | dieq (h : Ctl) (sel : Nat) (d : Dst)
  | treeset (h : Ctl) (a : Nat) (off : BitVec 16)
  | treesetCanon (h : Ctl)
  | cred (h : Ctl) (op : COp) (ty : CTy) (d : Dst) (a : Nat)
  | sysr (h : Ctl) (d : Dst) (n : Nat)
  | sysw (h : Ctl) (n a : Nat)
  | trap (h : Ctl) (code : BitVec 16)
  | eret (h : Ctl)
  | brk (h : Ctl) (act : BrkAct) (code : BitVec 16)
  | halt (h : Ctl)
  | trcon (h : Ctl)
  | trcoff (h : Ctl)
  | cntrd (h : Ctl) (n : Nat) (d : Dst)
  -- steps without an encoding
  | stallCountExpiry (wave slot : Nat)
  | overdueWave (wave : Nat)
  | counterDecrement (wave : Nat)
  | sleepExpiry (wave slot : Nat)
  | variableResultCompletion (op : Nat) (slow : Bool)
  | icacheMissFill (wave slot : Nat)
  | translationWalk (op : Nat)
  | memoryAccessPerform (op lane : Nat)
  | faultEntryDeferredWrite (die : Nat)
  | atomicPerform (op lane : Nat)
  | gateTimeout (op lane : Nat)
  | replayDivergeEnd (launch : Nat)
  | pinnedRetryAccept (op lane : Nat)
  | txRetryAccept (op lane : Nat)
  | commandCompletion (op : Nat)
  | tdefCompletion (op : Nat)
  | hxferDelivery (x : HxDelivery)
  | hxferAck (op : Nat)
  | gaugeMerge (die : Nat)
  | passEnd (region : Nat)
  | fqackWrite (die : Nat) (seq : BitVec 16)
  | faultCompletionApply (die : Nat)
  | fqtailWrite (die : Nat) (tail : BitVec 16)
  | asgenWrite (asid : Nat)
  | asgenDrainComplete (asid : Nat)
  | repack (die core base : Nat)
  | debugHalt (launch : Nat)
  | debugResume (launch : Nat)
  | debugKill (launch : Nat)
  | debugStop (die core wslot path : Nat)
  | debugGo (die core wslot path : Nat)
  | debugStep (die core wslot path : Nat)
  | debugDump (launch : Nat)
  | systemRegisterWrite (die n : Nat) (x : DWord)
  | trapDelivery (wave : Nat)
  | waveRetire (wave : Nat)
  | preemption (wave : Nat)
  | contextSwitch (launch cluster : Nat)
  | contextRestore (launch cluster : Nat) (cores : List Nat)
  | haltComplete (launch : Nat)
  | dumpWrite (launch : Nat)
  | launchEligible (launch : Nat)
  | bindRecordWrite (b : BindArgs)
  | dispatchStep (die : Nat)
  | granuleDrainComplete (core granule : Nat)
  | teamFirstIssue (team : Nat)
  | deterministicFirstOwner (core : Nat)
  | fragmentationEvent (die slot : Nat)
  | oppChange (launch : Nat)
  | stepBoundary (launch d : Nat)
  | launchComplete (launch : Nat)
  | addressSpaceRelease (asid : Nat)
  | poolLevelEval (die : Nat)
  | swapOut (die : Nat)
  | swapIn (die : Nat)
  | tracePeriodicSync (die : Nat)
  | startCold (x : StartArgs)
  | startWarm (x : StartArgs)
  | requestRingPoll (die ring : Nat)
  | start (r : Request)
  | keyload (r : Request)
  | keySlotSwitch (slot : Nat)
  | poolreg (r : Request)
  | measure (r : Request)
  | attest (r : Request)
  | badop (r : Request)
  | peerLinkTrainingFail (port : Nat)
  | peerAckTimeout (port : Nat)
  | powerRemoval
  | operatingPointStable (die : Nat)
  | carriedHandleAccess (op lane : Nat)
  | completionRingRetry (launch : Nat)
  | breachAlarm (sensor : Nat)
  | hostLaneFail (lanes : Nat)
  | hostCoherence (addr : Nat) (byte : Byte)
  deriving DecidableEq, Repr

end Sys2Proof
end

