-- ==== Sys2Proof/Machine/Names.lean ====
section
/-! DEFINITION. What a form names and which class it belongs to: the registers it reads and writes
(R57, R61, R68), its latency class (R58, Table 4-3), whether it ends a span (R39), pairs (Table 4-4),
consumes poison (Table 4-7) or is forbidden in a transaction (R193). -/

namespace Sys2Proof

/-- A run of registers that a form names: `v n c` is vN to vN+c-1, `s n c` likewise. -/
inductive RegRef where
  | v (n c : Nat)
  | s (n c : Nat)
  | p (n : Nat)
  | h (n : Nat)
  deriving DecidableEq, Repr

/-- The registers of a value operand read `c` wide. -/
def Src.refs (c : Nat) : Src → List RegRef
  | .v n => [.v n c]
  | .s n => [.s n 1]
  | .sys _ => []
  | .imm _ => []

/-- The registers of a destination written `c` wide. -/
def Dst.refs (c : Nat) : Dst → List RegRef
  | .v n => [.v n c]
  | .s n => [.s n 1]

/-- The register or predicate of a destination. -/
def DstP.refs : DstP → List RegRef
  | .v n => [.v n 1]
  | .s n => [.s n 1]
  | .p n => [.p n]

/-- The base and the index of a memory operand (R74). -/
def Addr.refs (m : Addr) : List RegRef :=
  (if m.am < 2 then [.s m.a 1] else [.v m.a 2]) ++ (if m.am % 2 = 1 then [.v m.x 1] else [])

/-- 32-bit registers that a value of this width fills (R184). -/
def Width.regs : Width → Nat
  | .w64 => 2
  | .w128 => 4
  | _ => 1

/-- Bytes of this width. -/
def Width.bytes : Width → Nat
  | .w8 => 1
  | .w16 => 2
  | .w32 => 4
  | .w64 => 8
  | .w128 => 16

/-- Data registers of an atomic (Table 12-2). -/
def AOp.regs (op : AOp) (w : Width) : Nat := if op = .cas then 2 * w.regs else w.regs

/-- The guard and the scheduling controls of a form; the default of a step without an encoding. -/
def Instr.ctl : Instr → Option Ctl
  | .nop h | .join h | .exit h | .yield h | .txend h | .oprfence h | .rlxbeg h | .rlxend h | .treesetCanon h
  | .eret h | .halt h | .trcon h | .trcoff h => some h
  | .bra h _ | .brx h _ | .ret h _ | .rep h _ | .waitc h _ | .sleep h _ | .txbegin h _ | .txabort h _
  | .txstat h _ | .fence h _ | .bara h _ | .evwait h _ | .tkdef h _ | .tkdone h _ | .accfree h _
  | .hdrop h _ | .stepmk h _ | .trap h _ | .gtest h _ | .pgreq h _ | .p2v h _ => some h
  | .call h _ _ | .loop h _ _ | .elect h _ | .ipref h _ _ | .feat h _ _ | .iabs h _ _ | .not h _ _
  | .popc h _ _ | .clz h _ _ | .brev h _ _ | .mov h _ _ | .fclass h _ _ | .fsqrt h _ _ | .frcp h _ _
  | .frsq h _ _ | .fexp h _ _ | .fexp2 h _ _ | .flog h _ _ | .flog2 h _ _ | .fsin h _ _ | .fcos h _ _
  | .ftanh h _ _ | .fsigm h _ _ | .pset h _ _ | .v2p h _ _ | .barinit h _ _ | .barw h _ _ | .baraw h _ _
  | .barq h _ _ | .evpop h _ _ | .tkdec h _ _ | .mzero h _ _ | .rlxcfgTol h _ _ | .rlxq h _ _
  | .rlxseed h _ _ | .gperm h _ _ | .gadd h _ _ | .gq h _ _ | .hmov h _ _ | .hcpy h _ _ | .launch h _ _
  | .dieq h _ _ | .treeset h _ _ | .sysr h _ _ | .sysw h _ _ | .brk h _ _ | .cntrd h _ _ | .pref h _ _ => some h
  | .vote h _ _ _ | .imul h _ _ _ | .iadd64 h _ _ _ | .and h _ _ _ | .or h _ _ _ | .xor h _ _ _
  | .shl h _ _ _ | .shr h _ _ _ | .sar h _ _ _ | .movi h _ _ _ | .fadd h _ _ _ | .fsub h _ _ _
  | .fmul h _ _ _ | .fmin h _ _ _ | .fmax h _ _ _ | .frnd h _ _ _ | .fscale h _ _ _ | .fdiv h _ _ _
  | .enq h _ _ _ | .deq h _ _ _ | .acq h _ _ _ | .rel h _ _ _ | .tdef h _ _ _ | .tqry h _ _ _
  | .cpy h _ _ _ | .qnt h _ _ _ | .accalloc h _ _ _ | .rlxgs h _ _ _ | .gcfg h _ _ _ | .hqry h _ _ _
  | .hstm h _ _ _ => some h
  | .span h _ _ _ _ | .shfl h _ _ _ _ | .imulh h _ _ _ _ | .imin h _ _ _ _ | .imax h _ _ _ _
  | .bfe h _ _ _ _ | .idiv h _ _ _ _ | .icvt h _ _ _ _ | .bfi h _ _ _ _ | .bperm h _ _ _ _
  | .sel h _ _ _ _ | .ffma h _ _ _ _ | .fdot4 h _ _ _ _ | .hadd2 h _ _ _ _ | .hmul2 h _ _ _ _
  | .hmin2 h _ _ _ _ | .hmax2 h _ _ _ _ | .st h _ _ _ _ | .cpyr h _ _ _ _ | .tkpull h _ _ _ _
  | .weirget h _ _ _ _ | .mma h _ _ _ _ | .mmai h _ _ _ _ | .mld h _ _ _ _ | .mst h _ _ _ _
  | .rlxst h _ _ _ _ | .rlxin h _ _ _ _ | .bnew h _ _ _ _ | .hldm h _ _ _ _
  | .hldmRing h _ _ _ _ | .hxfer h _ _ _ _ | .cred h _ _ _ _ => some h
  | .iadd h _ _ _ _ _ | .isub h _ _ _ _ _ | .lut3 h _ _ _ _ _ | .shf h _ _ _ _ _ | .lea h _ _ _ _ _
  | .fsetp h _ _ _ _ _ | .fcvt h _ _ _ _ _ | .f2i h _ _ _ _ _ | .i2f h _ _ _ _ _ | .hfma2 h _ _ _ _ _
  | .bfma2 h _ _ _ _ _ | .plop h _ _ _ _ _ | .ld h _ _ _ _ _ | .bind h _ _ _ _ _ | .unbind h _ _ _ _ _
  | .mmah h _ _ _ _ _ | .wbld h _ _ _ _ _ | .rlxcfg h _ _ _ _ _ | .rlxcfgReg h _ _ _ _ _
  | .hst h _ _ _ _ _ => some h
  | .imad h _ _ _ _ _ _ | .isetp h _ _ _ _ _ _ | .hsetp2 h _ _ _ _ _ _ | .ldNf h _ _ _ _ _ _
  | .red h _ _ _ _ _ _ | .hld h _ _ _ _ _ _ => some h
  | .atom h _ _ _ _ _ _ _ => some h
  | _ => none

/-- The registers that a form writes as destinations, whatever their class (R57, R61). -/
def Instr.writes : Instr → List RegRef
  | .call _ d _ => [.s d 1]
  | .elect _ d => d.refs
  | .vote _ _ d _ => d.refs
  | .shfl _ _ d _ _ => [.v d 1]
  | .feat _ d _ => d.refs 1
  | .iadd _ _ _ d _ _ | .isub _ _ _ d _ _ | .imul _ d _ _ | .imulh _ _ d _ _ | .imad _ _ _ d _ _ _
  | .imin _ _ d _ _ | .imax _ _ d _ _ | .iabs _ d _ | .and _ d _ _ | .or _ d _ _ | .xor _ d _ _
  | .not _ d _ | .lut3 _ _ d _ _ _ | .shl _ d _ _ | .shr _ d _ _ | .sar _ d _ _ | .shf _ _ d _ _ _
  | .popc _ d _ | .clz _ d _ | .brev _ d _ | .bfe _ _ d _ _ | .bfi _ d _ _ _ | .bperm _ d _ _ _
  | .sel _ d _ _ _ | .mov _ d _ | .movi _ _ d _ | .icvt _ _ _ d _ | .idiv _ _ d _ _ => d.refs 1
  | .iadd64 _ d _ _ | .lea _ _ _ d _ _ => d.refs 2
  | .isetp _ _ _ pd pe _ _ | .fsetp _ _ pd pe _ _ | .hsetp2 _ _ _ pd pe _ _ => [.p pd, .p pe]
  | .fadd _ d _ _ | .fsub _ d _ _ | .fmul _ d _ _ | .ffma _ d _ _ _ | .fmin _ d _ _ | .fmax _ d _ _
  | .fclass _ d _ | .frnd _ _ d _ | .fcvt _ _ _ _ d _ | .f2i _ _ _ _ d _ | .i2f _ _ _ _ d _
  | .fscale _ d _ _ | .fdiv _ d _ _ | .fsqrt _ d _ | .frcp _ d _ | .frsq _ d _ | .fexp _ d _
  | .fexp2 _ d _ | .flog _ d _ | .flog2 _ d _ | .fsin _ d _ | .fcos _ d _ | .ftanh _ d _ | .fsigm _ d _
  | .hadd2 _ _ d _ _ | .hmul2 _ _ d _ _ | .hfma2 _ _ d _ _ _ | .hmin2 _ _ d _ _ | .hmax2 _ _ d _ _
  | .bfma2 _ _ d _ _ _ | .fdot4 _ d _ _ _ => d.refs 1
  | .plop _ _ pd _ _ _ | .pset _ pd _ => [.p pd]
  | .p2v _ d => [.v d 1]
  | .v2p _ _ (.imm x) => (List.range 7).filterMap fun k => if x.getLsbD k then some (.p k) else none
  | .v2p _ _ _ => (List.range 7).map .p
  | .ld _ _ _ w d _ => [.v d w.regs]
  | .ldNf _ _ _ w d pf _ => [.v d w.regs, .p pf]
  | .atom _ _ _ _ w d _ _ => [.v d w.regs]
  | .txstat _ d => [.v d 1]
  | .enq _ ps _ _ => [.p ps]
  | .deq _ d ps _ => [.v d 1, .p ps]
  | .acq _ _ d _ => [.v d 1]
  | .barw _ _ pb | .baraw _ _ pb => [.p pb]
  | .barq _ _ d => [.s d 1]
  | .tqry _ d _ _ | .gq _ _ d => d.refs 2
  | .evpop _ d ps => [.v d 4, .p ps]
  | .evwait _ d => [.v d 4]
  | .tkpull _ _ d ps _ => [.s d 2, .p ps]
  | .accalloc _ _ ps _ => [.p ps]
  | .rlxq _ _ d => d.refs
  | .gcfg _ ps _ _ => [.p ps]
  | .gperm _ d _ => [.v d 1]
  | .gadd _ ps _ => [.p ps]
  | .gtest _ pd => [.p pd]
  | .bnew _ hf hs ps _ => [.h hf, .h hs, .p ps]
  | .hdrop _ a => [.h a]
  | .hmov _ d a => [.h d, .h a]
  | .hcpy _ d _ => [.h d]
  | .hld _ _ w d _ _ _ => [.v d w.regs]
  | .hstm _ _ _ a => [.h a]
  | .hldm _ a ps _ _ | .hldmRing _ a ps _ _ => [.h a, .p ps]
  | .hxfer _ ps a _ _ => [.p ps, .h a]
  | .hqry _ _ d _ => [.s d 1]
  | .launch _ d _ => [.s d 1]
  | .stepmk _ pw => [.p pw]
  | .dieq _ _ d | .sysr _ d _ | .cntrd _ _ d | .cred _ _ _ d _ => d.refs 1
  | _ => []

/-- The uniform register that holds an event tag (R257). -/
def evRefs (ev : Option Nat) : List RegRef := ev.toList.map fun n => .s n 1

/-- The registers that a form reads as operands, in the order A, B, C of R68, the guard apart. -/
def Instr.reads : Instr → List RegRef
  | .brx _ a | .rep _ a | .sleep _ a | .feat _ _ a | .iabs _ _ a | .not _ _ a | .popc _ _ a | .clz _ _ a
  | .brev _ _ a | .mov _ _ a | .icvt _ _ _ _ a | .fclass _ _ a | .frnd _ _ _ a
  | .fcvt _ _ _ _ _ a | .f2i _ _ _ _ _ a | .i2f _ _ _ _ _ a | .fsqrt _ _ a | .frcp _ _ a | .frsq _ _ a
  | .fexp _ _ a | .fexp2 _ _ a | .flog _ _ a | .flog2 _ _ a | .fsin _ _ a | .fcos _ _ a | .ftanh _ _ a
  | .fsigm _ _ a | .pset _ _ a | .txabort _ a | .gperm _ _ a | .gadd _ _ a => a.refs 1
  | .movi _ _ _ a => a.refs 1
  | .ret _ a => [.s a 1]
  | .loop _ (.reg n) _ => [.s n 1]
  | .vote _ _ _ a => [.p a.ix]
  | .shfl _ _ _ a b => a.refs 1 ++ b.refs 1
  | .iadd _ _ _ _ a b | .isub _ _ _ _ a b | .imul _ _ a b | .imulh _ _ _ a b | .imin _ _ _ a b
  | .imax _ _ _ a b | .and _ _ a b | .or _ _ a b | .xor _ _ a b | .shl _ _ a b | .shr _ _ a b
  | .sar _ _ a b | .bfe _ _ _ a b | .isetp _ _ _ _ _ a b | .idiv _ _ _ a b | .fadd _ _ a b | .fsub _ _ a b
  | .fmul _ _ a b | .fmin _ _ a b | .fmax _ _ a b | .fsetp _ _ _ _ a b | .fscale _ _ a b | .fdiv _ _ a b
  | .hadd2 _ _ _ a b | .hmul2 _ _ _ a b | .hmin2 _ _ _ a b | .hmax2 _ _ _ a b
  | .hsetp2 _ _ _ _ _ a b | .v2p _ a b => a.refs 1 ++ b.refs 1
  | .iadd64 _ _ a b => a.refs 2 ++ b.refs 2
  | .lea _ _ _ _ a b => a.refs 2 ++ b.refs 1
  | .sel _ _ a b c => a.refs 1 ++ b.refs 1 ++ [.p c.ix]
  | .imad _ _ _ _ a b c | .lut3 _ _ _ a b c | .shf _ _ _ a b c | .bfi _ _ a b c | .bperm _ _ a b c
  | .ffma _ _ a b c | .hfma2 _ _ _ a b c | .bfma2 _ _ _ a b c | .fdot4 _ _ a b c =>
      a.refs 1 ++ b.refs 1 ++ c.refs 1
  | .plop _ _ _ a b c => [.p a.ix, .p b.ix, .p c.ix]
  | .p2v _ _ => (List.range 7).map .p
  | .ld _ _ _ _ _ m | .ldNf _ _ _ _ _ _ m | .pref _ _ m | .pgreq _ m | .deq _ _ _ m | .acq _ _ _ m => m.refs
  | .st _ _ w src m => m.refs ++ [.v src w.regs]
  | .atom _ op _ _ w _ src m | .red _ op _ _ w src m => m.refs ++ [.v src (op.regs w)]
  | .enq _ _ src m | .rel _ _ src m => m.refs ++ [.v src 1]
  | .bind _ k obj a _ len | .unbind _ k obj a _ len =>
      [.s a 1]
        ++ (match k with | .ring | .flag => [.s obj 1] | .tile => [.h obj] | .bar => [])
        ++ (match len with | .reg n => [.s n 1] | .imm _ => [])
  | .barinit _ _ (.reg n) => [.s n 1]
  | .tdef _ _ a _ | .gcfg _ _ a _ | .treeset _ a _ | .rlxin _ _ a _ _ => [.s a 1]
  | .rlxgs _ false a _ => [.s a 1]
  | .cpy _ ev _ _ | .qnt _ ev _ _ | .mma _ ev _ _ _ | .mmah _ ev _ _ _ _ | .mmai _ ev _ _ _
  | .mzero _ ev _ => evRefs ev
  | .cpyr _ ev _ _ a => [.s a 1] ++ evRefs ev
  | .tkdef _ x => [.s x 3]
  | .tkdec _ i _ | .tkdone _ i => [.s i 1]
  | .weirget _ ev a _ r => [.s a 1, .s r 1] ++ evRefs ev
  | .mld _ ev _ a _ | .mst _ ev _ a _ | .wbld _ ev _ _ a _ => [.s a 1] ++ evRefs ev
  | .rlxcfgReg _ _ _ _ sl s2 => [.s sl 1, .s s2 1]
  | .rlxcfgTol _ sa sb => [.s sa 1, .s sb 1]
  | .rlxseed _ src _ => [.v src 1]
  | .bnew _ _ _ _ (.reg n) => [.s n 1]
  | .hdrop _ a | .hmov _ _ a | .hcpy _ _ a | .hxfer _ _ a _ _ | .hqry _ _ _ a => [.h a]
  | .hld _ _ _ _ a ix _ => [.h a] ++ ix.toList.map fun n => .v n 1
  | .hst _ w src a ix _ => [.h a] ++ (ix.toList.map fun n => .v n 1) ++ [.v src w.regs]
  | .hstm _ b _ a => [.h a, .s b 1]
  | .hldm _ a _ b _ | .hldmRing _ a _ b _ => [.h a, .s b 1]
  | .launch _ _ a => [.s a 1]
  | .cred _ _ _ _ a => [.v a 1]
  | .sysw _ _ a => [.s a 1]
  | _ => []

/-- Latency classes of Table 4-3, V for the variable class. -/
inductive LatClass | i2 | i4 | f4 | f6 | v deriving DecidableEq, Repr

/-- The latency class of a form (R58, R180, R205, R256, R264-R266, R276, R320, R325, R326, R354, R361, R413). -/
def Instr.latClass : Instr → LatClass
  | .nop _ | .bra _ _ | .brx _ _ | .call _ _ _ | .ret _ _ | .join _ | .exit _ | .yield _ | .span _ _ _ _ _
  | .rep _ _ | .loop _ _ _ | .elect _ _ | .vote _ _ _ _ | .waitc _ _ | .sleep _ _ | .ipref _ _ _
  | .feat _ _ _ => .i2
  | .shfl _ _ _ _ _ | .imul _ _ _ _ | .imulh _ _ _ _ _ | .imad _ _ _ _ _ _ _ => .i4
  | .iadd _ _ _ _ _ _ | .isub _ _ _ _ _ _ | .iadd64 _ _ _ _ | .imin _ _ _ _ _ | .imax _ _ _ _ _
  | .iabs _ _ _ | .and _ _ _ _ | .or _ _ _ _ | .xor _ _ _ _ | .not _ _ _ | .lut3 _ _ _ _ _ _
  | .shl _ _ _ _ | .shr _ _ _ _ | .sar _ _ _ _ | .shf _ _ _ _ _ _ | .popc _ _ _ | .clz _ _ _
  | .brev _ _ _ | .bfe _ _ _ _ _ | .bfi _ _ _ _ _ | .bperm _ _ _ _ _ | .isetp _ _ _ _ _ _ _
  | .sel _ _ _ _ _ | .mov _ _ _ | .movi _ _ _ _ | .lea _ _ _ _ _ _ | .icvt _ _ _ _ _
  | .plop _ _ _ _ _ _ | .pset _ _ _ | .p2v _ _ | .v2p _ _ _ => .i2
  | .fadd _ _ _ _ | .fsub _ _ _ _ | .fmul _ _ _ _ | .ffma _ _ _ _ _ | .fmin _ _ _ _ | .fmax _ _ _ _
  | .fsetp _ _ _ _ _ _ | .fclass _ _ _ | .frnd _ _ _ _ | .fcvt _ _ _ _ _ _ | .f2i _ _ _ _ _ _
  | .i2f _ _ _ _ _ _ | .fscale _ _ _ _ | .hadd2 _ _ _ _ _ | .hmul2 _ _ _ _ _ | .hfma2 _ _ _ _ _ _
  | .hmin2 _ _ _ _ _ | .hmax2 _ _ _ _ _ | .hsetp2 _ _ _ _ _ _ _ | .bfma2 _ _ _ _ _ _ => .f4
  | .fdot4 _ _ _ _ _ => .f6
  | .bind _ _ _ _ _ _ | .unbind _ _ _ _ _ _ | .barinit _ _ _ | .barq _ _ _ => .i2
  | .accfree _ _ | .oprfence _ => .i2
  | .rlxcfg _ _ _ _ _ _ | .rlxcfgReg _ _ _ _ _ _ | .rlxcfgTol _ _ _ | .rlxst _ _ _ _ _ | .rlxin _ _ _ _ _
  | .rlxgs _ _ _ _ | .rlxbeg _ | .rlxend _ | .rlxq _ _ _ => .i2
  | .hmov _ _ _ | .dieq _ _ _ | .cntrd _ _ _ | .trcon _ | .trcoff _ => .i2
  | _ => .v

/-- Cycles after issue from which a fixed-latency result reads correctly (Table 4-3); 0 for class V. -/
def LatClass.cycles : LatClass → Nat
  | .i2 => 2
  | .i4 => 4
  | .f4 => 4
  | .f6 => 6
  | .v => 0

/-- The commands of R257. -/
def Instr.isCommand : Instr → Bool
  | .mma _ _ _ _ _ | .mmah _ _ _ _ _ _ | .mmai _ _ _ _ _ | .mzero _ _ _ | .mld _ _ _ _ _ | .mst _ _ _ _ _
  | .wbld _ _ _ _ _ _ | .cpy _ _ _ _ | .cpyr _ _ _ _ _ | .qnt _ _ _ _ | .weirget _ _ _ _ _ => true
  | _ => false

/-- The basin forms of Table 25-4. -/
def Instr.isBasin : Instr → Bool
  | .bnew _ _ _ _ _ | .hdrop _ _ | .hmov _ _ _ | .hcpy _ _ _ | .hld _ _ _ _ _ _ _ | .hst _ _ _ _ _ _
  | .hstm _ _ _ _ | .hldm _ _ _ _ _ | .hldmRing _ _ _ _ _ | .hxfer _ _ _ _ _ | .hqry _ _ _ _ => true
  | _ => false

/-- HQRY, the one basin form that ends no span and is forbidden nowhere (R361). -/
def Instr.isHqry : Instr → Bool
  | .hqry _ _ _ _ => true
  | _ => false

/-- The barrier forms of Table 12-12. -/
def Instr.isBarrier : Instr → Bool
  | .barinit _ _ _ | .bara _ _ | .barw _ _ _ | .baraw _ _ _ | .barq _ _ _ => true
  | _ => false

/-- Span-ending forms (R39, R196, R259, R323, R361, R413). -/
def Instr.endsSpan (i : Instr) : Bool :=
  i.isCommand || i.isBarrier || (i.isBasin && !i.isHqry) ||
  match i with
  | .exit _ | .atom _ _ _ _ _ _ _ _ | .red _ _ _ _ _ _ _ | .txbegin _ _ | .txend _ | .txabort _ _
  | .txstat _ _ | .rlxbeg _ | .launch _ _ _ | .stepmk _ _ | .cred _ _ _ _ _ => true
  | _ => false

/-- The engine forms of the matrix chapter (R193: forbidden in a transaction; R277). -/
def Instr.isEngine : Instr → Bool
  | .tdef _ _ _ _ | .tqry _ _ _ _ | .evpop _ _ _ | .evwait _ _ | .tkdef _ _ | .tkdec _ _ _
  | .tkpull _ _ _ _ _ | .tkdone _ _ | .accalloc _ _ _ _ | .accfree _ _ | .oprfence _ => true
  | i => i.isCommand

/-- Forms forbidden in a transaction (R193, R361). -/
def Instr.txForbidden (i : Instr) : Bool :=
  i.isEngine || i.isBarrier || (i.isBasin && !i.isHqry) ||
  match i with
  | .atom _ _ _ _ _ _ _ _ | .red _ _ _ _ _ _ _ | .enq _ _ _ _ | .deq _ _ _ _ | .bind _ _ _ _ _ _
  | .unbind _ _ _ _ _ _ | .acq _ _ _ _ | .rel _ _ _ _ | .fence _ _ | .span _ _ _ _ _ | .txbegin _ _
  | .rlxbeg _ | .launch _ _ _ | .stepmk _ _ | .cred _ _ _ _ _ => true
  | _ => false

/-- Consumers of poison (Table 4-7). -/
def Instr.consumes : Instr → Bool
  | .st _ _ _ _ _ | .atom _ _ _ _ _ _ _ _ | .red _ _ _ _ _ _ _ | .txbegin _ _ | .txend _ | .txabort _ _
  | .bra _ _ | .brx _ _ | .call _ _ _ | .ret _ _ | .rep _ _ | .loop _ _ _
  | .enq _ _ _ _ | .deq _ _ _ _ | .bind _ _ _ _ _ _ | .unbind _ _ _ _ _ _ | .acq _ _ _ _ | .rel _ _ _ _
  | .barinit _ _ _ | .bara _ _ | .barw _ _ _ | .baraw _ _ _
  | .bnew _ _ _ _ _ | .hdrop _ _ | .hmov _ _ _ | .hcpy _ _ _ | .hld _ _ _ _ _ _ _ | .hst _ _ _ _ _ _
  | .hstm _ _ _ _ | .hldm _ _ _ _ _ | .hldmRing _ _ _ _ _ | .hxfer _ _ _ _ _
  | .cpy _ _ _ _ | .cpyr _ _ _ _ _ | .qnt _ _ _ _ | .tkdef _ _ | .tkdec _ _ _ | .tkpull _ _ _ _ _
  | .tkdone _ _ | .mma _ _ _ _ _ | .mmah _ _ _ _ _ _ | .mmai _ _ _ _ _ | .mld _ _ _ _ _ | .mst _ _ _ _ _
  | .wbld _ _ _ _ _ _ | .rlxbeg _ | .rlxend _ | .gadd _ _ _ | .gtest _ _ | .gcfg _ _ _ _ | .gperm _ _ _
  | .launch _ _ _ | .stepmk _ _ | .treeset _ _ _ | .treesetCanon _ | .cred _ _ _ _ _
  | .sysw _ _ _ | .trap _ _ => true
  | _ => false

/-- Pair classes of Table 4-4; `n` never pairs. -/
inductive PairClass | a | m | b | n deriving DecidableEq, Repr

/-- Forms that act whatever their guard (R110, R120, R323, R324, R415, R419, R423). -/
def Instr.actsAlways : Instr → Bool
  | .join _ | .waitc _ _ | .rlxbeg _ | .rlxend _ | .stepmk _ _ | .cred _ _ _ _ _ | .eret _ => true
  | _ => false

end Sys2Proof
end

