-- ==== Sys2Proof/WellFormed.lean ====
section
/-! DEFINITION. Which forms have an encoding in a line of version `ver` under a launch that declares
`V` vector registers: register limits (R72, R80, R98, R184, R261), field widths, reserved uses
(R97, R104, R107, R117, R118, R119, R148, R184, R187, R202, R326, R412) and generation 2 (R50). -/

namespace Sys2Proof

/-- A named run of registers lies inside its file (R72, R80, R361). -/
def RegRef.ok (V : Nat) : RegRef → Bool
  | .v n c => n + c ≤ V && n < 256
  | .s n c => n + c ≤ 64
  | .p n => n < 8
  | .h n => n < 16

/-- A value operand that differs between lanes: a vector register, or one of sys.lane, sys.thread and
sys.item (R97). -/
def Src.perLane : Src → Bool
  | .v _ => true
  | .sys n => n == 0x00 || n == 0x02 || n == 0x06
  | _ => false

/-- A value operand whose number is one of Table 6-6 where it names a system register (R72, R95). -/
def Src.sysOk : Src → Bool
  | .sys n => n ≤ 0x0E
  | _ => true

/-- An immediate operand (R96). -/
def Src.isImm : Src → Bool
  | .imm _ => true
  | _ => false

/-- A uniform destination takes no per-lane source (R97). -/
def Dst.fed (d : Dst) (xs : List Src) : Bool :=
  match d with
  | .v _ => true
  | .s _ => xs.all fun x => !x.perLane

/-- Sources of a form in the register class: none is an immediate, every system register exists. -/
def regSrcs (xs : List Src) : Bool := xs.all fun x => x.sysOk && !x.isImm

/-- Sources of a two-source form: A from a register, B from a register or the source B value (R96). -/
def twoSrcs (a b : Src) : Bool := regSrcs [a] && b.sysOk

/-- The control fields hold values their fields admit, and CTR is not 6 (R52, R53). -/
def Ctl.ok (h : Ctl) : Bool := h.pix < 8 && h.stall < 64 && h.ctr < 8 && h.ctr != 6 && h.wait < 64

/-- A memory operand whose mode and index fit: `x` is zero in the modes that read none (R74). -/
def Addr.ok (m : Addr) : Bool := m.am < 4 && m.x < 256 && (m.am % 2 == 1 || m.x == 0)

/-- A range field pair of two bytes (R113). -/
def RegRange.ok (r : RegRange) : Bool := r.first < 256 && r.last < 256

/-- An event tag register (R257). -/
def evOk (ev : Option Nat) : Bool := ev.all fun n => n < 64

/-- The pair of OP and WIDTH that Table 12-2 allows. -/
def AOp.ok (op : AOp) (w : Width) : Bool :=
  match op with
  | .fadd => w == .w32
  | _ => w != .w128

/-- The form's own conditions, beyond the registers it names. -/
def Instr.shapeOk : Instr → Bool
  | .brx _ a => (match a with | .v _ | .s _ => true | _ => false)
  | .rep _ n | .sleep _ n | .txabort _ n => (match n with | .s _ | .imm _ => true | _ => false)
  | .span _ r0 r1 r2 r3 | .rlxst _ r0 r1 r2 r3 => r0.ok && r1.ok && r2.ok && r3.ok
  | .loop _ (.imm n) _ => n < 65536
  | .elect _ d => (match d with | .v _ => false | _ => true)
  | .vote _ m d _ => (match m, d with
      | .ballot, .p _ => false | .ballot, _ => true | _, .p _ => true | _, _ => false)
  | .shfl _ _ _ a b => (match a with | .v _ | .s _ => true | _ => false) && twoSrcs a b
  | .waitc _ m => m < 64
  | .ipref _ _ n => 1 ≤ n && n ≤ 16
  | .feat _ d a => a.sysOk && d.fed [a]
  | .iadd _ _ _ d a b | .isub _ _ _ d a b | .imul _ d a b | .imulh _ _ d a b | .iadd64 _ d a b
  | .imin _ _ d a b | .imax _ _ d a b | .and _ d a b | .or _ d a b | .xor _ d a b | .shl _ d a b
  | .shr _ d a b | .sar _ d a b | .bfe _ _ d a b | .idiv _ _ d a b
  | .fadd _ d a b | .fsub _ d a b | .fmul _ d a b | .fmin _ d a b | .fmax _ d a b | .fscale _ d a b
  | .fdiv _ d a b | .hadd2 _ _ d a b | .hmul2 _ _ d a b | .hmin2 _ _ d a b | .hmax2 _ _ d a b =>
      twoSrcs a b && d.fed [a, b]
  | .lea _ _ sh d a b => twoSrcs a b && d.fed [a, b] && sh < 8 && (sh == 0 || !b.isImm)
  | .imad _ _ _ d a b c | .lut3 _ _ d a b c | .shf _ _ d a b c | .bfi _ d a b c | .bperm _ d a b c
  | .ffma _ d a b c | .hfma2 _ _ d a b c | .bfma2 _ _ d a b c | .fdot4 _ d a b c =>
      regSrcs [a, b, c] && d.fed [a, b, c]
  | .iabs _ d a | .not _ d a | .popc _ d a | .clz _ d a | .brev _ d a | .mov _ d a | .icvt _ _ _ d a
  | .fclass _ d a | .frnd _ _ d a | .fcvt _ _ _ _ d a | .f2i _ _ _ _ d a | .i2f _ _ _ _ d a
  | .fsqrt _ d a | .frcp _ d a | .frsq _ d a | .fexp _ d a | .fexp2 _ d a | .flog _ d a
  | .flog2 _ d a | .fsin _ d a | .fcos _ d a | .ftanh _ d a | .fsigm _ d a => regSrcs [a] && d.fed [a]
  | .isetp _ _ _ _ _ a b | .fsetp _ _ _ _ a b | .hsetp2 _ _ _ _ _ a b => twoSrcs a b
  | .sel _ d a b _ => regSrcs [a, b] && d.fed [a, b]
  | .movi _ hi d a => a.sysOk && d.fed [a] && (!hi || (a.isImm && (match d with | .s _ => true | .v _ => false)))
  | .pset _ _ x => x.sysOk && !x.perLane
  | .v2p _ a m => regSrcs [a] && (match m with | .s _ | .imm _ => true | _ => false)
  | .ld _ _ sg w _ m | .ldNf _ _ sg w _ _ m => m.ok && (!sg || w == .w8 || w == .w16)
  | .st _ _ _ _ m | .pref _ _ m | .pgreq _ m | .enq _ _ _ m | .deq _ _ _ m | .acq _ _ _ m
  | .rel _ _ _ m => m.ok
  | .atom _ op _ _ w _ _ m => m.ok && op.ok w
  | .red _ op _ _ w _ m => m.ok && op.ok w && op != .cas
  | .bind _ k obj _ _ len | .unbind _ k obj _ _ len =>
      (match k with | .bar => obj < 512 | .tile => obj < 16 | _ => obj < 64) &&
      (match len with | .imm n => n < 128 | .reg n => n < 64)
  | .barinit _ b (.imm m) => b < 512 && m < 256
  | .barinit _ b (.reg _) | .bara _ b | .barw _ b _ | .baraw _ b _ | .barq _ b _ => b < 512
  | .tdef _ t _ _ => t < 4096
  | .tqry _ _ t q => t < 4096 && q ≤ 12
  | .cpy _ ev td ts | .qnt _ ev td ts => evOk ev && td < 4096 && ts < 4096
  | .cpyr _ ev td ts _ => evOk ev && td < 4096 && ts < 4096
  | .tkdec _ _ n => n < 4096
  | .tkpull _ _ _ _ ty => ty < 16
  | .weirget _ ev _ ts _ => evOk ev && ts < 4096
  | .mma _ ev acc ts slot | .mmah _ ev _ acc ts slot | .mmai _ ev acc ts slot =>
      evOk ev && acc < 4 && ts < 4096 && slot < 16
  | .mzero _ ev acc | .mld _ ev acc _ _ | .mst _ ev acc _ _ => evOk ev && acc < 4
  | .wbld _ ev _ slot _ _ => evOk ev && slot < 16
  | .accalloc _ _ _ acc | .accfree _ acc => acc < 4
  | .rlxcfg _ _ _ _ l t => 1 ≤ l && l ≤ 65536 && 1 ≤ t && t ≤ 65536
  | .rlxgs _ n a off => !n || (a == 0 && off == 0)
  | .rlxq _ q d => q < 10 && (match d with | .p _ => q == 9 | _ => true)
  | .rlxseed _ _ j => j < 4
  | .gperm _ _ a | .gadd _ _ a => (match a with | .v _ | .s _ => true | _ => false)
  | .gq _ q _ => q < 13
  | .hld _ sg w _ _ _ _ => !sg || w == .w8 || w == .w16
  | .hxfer _ _ _ port ring => port < 6 && ring < 16
  | .dieq _ q _ => q < 8
  | .cred _ op ty d _ =>
      (match op with | .and | .or | .xor => ty == .u32 | _ => true) &&
      (match d with | .v _ | .s _ => true)
  | .sysr _ _ n | .sysw _ n _ => n ≤ 0x0E || n == 0x20 || (0x40 ≤ n && n ≤ 0x4B) || (0x50 ≤ n && n ≤ 0x6F)
  | .cntrd _ n _ => n ≤ 16
  | _ => true

/-- Code points first assigned in generation 2 (Table 5-3). -/
def Instr.isG2 : Instr → Bool
  | .bfma2 _ _ _ _ _ _ | .fdot4 _ _ _ _ _ | .cpyr _ _ _ _ _ | .qnt _ _ _ _ | .weirget _ _ _ _ _
  | .rlxseed _ _ _ | .hxfer _ _ _ _ _ | .stepmk _ _ | .treeset _ _ _ | .treesetCanon _ => true
  | _ => false

/-- A vector register that a form names and neither reads nor writes at issue lies below V (R80): the stream register of
RLXIN. -/
def Instr.namesOk (V : Nat) : Instr → Bool
  | .rlxin _ d _ _ _ => d < V
  | _ => true

/-- Well-formed: a form that a line of version `ver` can hold under V vector registers. A step without
an encoding has no control fields and is never well formed in this sense. -/
def Instr.wf (V ver : Nat) (i : Instr) : Bool :=
  i.ctl.any Ctl.ok && i.shapeOk && i.writes.all (RegRef.ok V) && i.reads.all (RegRef.ok V) && i.namesOk V &&
    (ver == 2 || (ver == 1 && !i.isG2))

end Sys2Proof
end

