-- ==== Sys2Proof/Decode.lean ====
section
/-! DEFINITION. Instruction words and fetch lines (spec 04, 05 and the encoding tables of 07, 09, 12,
18, 22, 25, 29): the encoder, the decoder, the destinations of a poisoning word, and the line word. -/

namespace Sys2Proof

/-- The fields of Table 4-2, the operand and immediate bits 93-30 kept together as one number. -/
structure Fields where
  cls : Nat
  body : Nat
  ctl : Ctl
  opc : Nat
  deriving DecidableEq, Repr

/-- The 96-bit word of the fields. -/
def Fields.toWord (f : Fields) : BitVec 96 :=
  BitVec.ofNat 96 (f.opc + 2 ^ 10 * f.ctl.pix + 2 ^ 13 * f.ctl.neg.toNat + 2 ^ 14 * f.ctl.stall
    + 2 ^ 20 * f.ctl.yld.toNat + 2 ^ 21 * f.ctl.ctr + 2 ^ 24 * f.ctl.wait + 2 ^ 30 * f.body + 2 ^ 94 * f.cls)

/-- The fields of a 96-bit word (Table 4-2). -/
def Fields.ofWord (w : BitVec 96) : Fields :=
  let n := w.toNat
  { cls := n / 2 ^ 94 % 4
    body := n / 2 ^ 30 % 2 ^ 64
    ctl := { neg := n / 2 ^ 13 % 2 == 1, pix := n / 2 ^ 10 % 8, stall := n / 2 ^ 14 % 64
             yld := n / 2 ^ 20 % 2 == 1, ctr := n / 2 ^ 21 % 8, wait := n / 2 ^ 24 % 64 }
    opc := n % 1024 }

/-- `x` placed with its bit 0 at word bit `lo`, as part of bits 93-30. -/
def put (lo x : Nat) : Nat := x * 2 ^ (lo - 30)

/-- The `w` bits of the word from bit `lo` upwards. -/
def Fields.bits (f : Fields) (lo w : Nat) : Nat := f.body / 2 ^ (lo - 30) % 2 ^ w

/-! ## Codes of the qualifier fields -/

def Ty.code : Ty → Nat | .s32 => 0 | .u32 => 1
def Ty.of : Nat → Option Ty | 0 => some .s32 | 1 => some .u32 | _ => none
def SubTy.code : SubTy → Nat | .s8 => 0 | .u8 => 1 | .s16 => 2 | .u16 => 3 | .s32 => 4 | .u32 => 5
def SubTy.of : Nat → Option SubTy
  | 0 => some .s8 | 1 => some .u8 | 2 => some .s16 | 3 => some .u16 | 4 => some .s32 | 5 => some .u32 | _ => none
def ICmp.code : ICmp → Nat | .eq => 0 | .ne => 1 | .lt => 2 | .le => 3 | .gt => 4 | .ge => 5
def ICmp.of : Nat → Option ICmp
  | 0 => some .eq | 1 => some .ne | 2 => some .lt | 3 => some .le | 4 => some .gt | 5 => some .ge | _ => none
def FCmp.code : FCmp → Nat
  | .eq => 0 | .ne => 1 | .lt => 2 | .le => 3 | .gt => 4 | .ge => 5 | .num => 6 | .nan => 7
def FCmp.of : Nat → Option FCmp
  | 0 => some .eq | 1 => some .ne | 2 => some .lt | 3 => some .le | 4 => some .gt | 5 => some .ge
  | 6 => some .num | 7 => some .nan | _ => none
def Rnd.code : Rnd → Nat | .rn => 0 | .rz => 1 | .ru => 2 | .rd => 3
def Rnd.of : Nat → Option Rnd | 0 => some .rn | 1 => some .rz | 2 => some .ru | 3 => some .rd | _ => none
def Half.code : Half → Nat | .both => 0 | .lo => 1 | .hi => 2
def Half.of : Nat → Option Half | 0 => some .both | 1 => some .lo | 2 => some .hi | _ => none
def FTy.code : FTy → Nat | .f32 => 0 | .f16 => 1 | .bf16 => 2 | .e4m3 => 3
def FTy.of : Nat → Option FTy
  | 0 => some .f32 | 1 => some .f16 | 2 => some .bf16 | 3 => some .e4m3 | _ => none
def VMode.code : VMode → Nat | .all => 0 | .any => 1 | .ballot => 2
def VMode.of : Nat → Option VMode | 0 => some .all | 1 => some .any | 2 => some .ballot | _ => none
def SMode.code : SMode → Nat | .idx => 0 | .up => 1 | .down => 2 | .xor => 3
def SMode.of : Nat → Option SMode
  | 0 => some .idx | 1 => some .up | 2 => some .down | 3 => some .xor | _ => none
def Cache.code : Cache → Nat | .default => 0 | .stream => 1 | .keep => 2
def Cache.of : Nat → Option Cache | 0 => some .default | 1 => some .stream | 2 => some .keep | _ => none
def Scope.code : Scope → Nat
  | .wave => 0 | .team => 1 | .cluster => 2 | .die => 3 | .module => 4 | .system => 5
def Scope.of : Nat → Option Scope
  | 0 => some .wave | 1 => some .team | 2 => some .cluster | 3 => some .die | 4 => some .module
  | 5 => some .system | _ => none
/-- WIDTH of Table 5-5. -/
def Width.code : Width → Nat | .w8 => 0 | .w16 => 1 | .w32 => 2 | .w64 => 3 | .w128 => 4
def Width.of : Nat → Option Width
  | 0 => some .w8 | 1 => some .w16 | 2 => some .w32 | 3 => some .w64 | 4 => some .w128 | _ => none
/-- WIDTH of the basin forms (R361). -/
def Width.bcode : Width → Nat | .w32 => 0 | .w8 => 1 | .w16 => 2 | .w64 => 3 | .w128 => 4
def Width.bof : Nat → Option Width
  | 0 => some .w32 | 1 => some .w8 | 2 => some .w16 | 3 => some .w64 | 4 => some .w128 | _ => none
def AOp.code : AOp → Nat
  | .add => 0 | .min => 1 | .max => 2 | .and => 3 | .or => 4 | .xor => 5 | .exch => 6 | .cas => 7 | .fadd => 8
def AOp.of : Nat → Option AOp
  | 0 => some .add | 1 => some .min | 2 => some .max | 3 => some .and | 4 => some .or | 5 => some .xor
  | 6 => some .exch | 7 => some .cas | 8 => some .fadd | _ => none
def COp.code : COp → Nat | .add => 0 | .min => 1 | .max => 2 | .and => 3 | .or => 4 | .xor => 5
def COp.of : Nat → Option COp
  | 0 => some .add | 1 => some .min | 2 => some .max | 3 => some .and | 4 => some .or | 5 => some .xor | _ => none
def CTy.code : CTy → Nat | .f32 => 0 | .s32 => 1 | .u32 => 2
def CTy.of : Nat → Option CTy | 0 => some .f32 | 1 => some .s32 | 2 => some .u32 | _ => none
def BindKind.code : BindKind → Nat | .bar => 0 | .ring => 1 | .flag => 2 | .tile => 3
def BindKind.of : Nat → Option BindKind
  | 0 => some .bar | 1 => some .ring | 2 => some .flag | 3 => some .tile | _ => none
def WLayout.code : WLayout → Nat | .e4m3 => 0 | .sp => 1 | .h16 => 2 | .i8 => 3
def WLayout.of : Nat → Option WLayout
  | 0 => some .e4m3 | 1 => some .sp | 2 => some .h16 | 3 => some .i8 | _ => none
def GSrc.code : GSrc → Nat | .hold => 0 | .prev => 1 | .supplied => 2
def GSrc.of : Nat → Option GSrc | 0 => some .hold | 1 => some .prev | 2 => some .supplied | _ => none
def HSel.code : HSel → Nat | .lo => 0 | .hi => 1 | .st => 2
def HSel.of : Nat → Option HSel | 0 => some .lo | 1 => some .hi | 2 => some .st | _ => none
def BrkAct.code : BrkAct → Nat | .halt => 0 | .stop => 1 | .trap => 2
def BrkAct.of : Nat → Option BrkAct | 0 => some .halt | 1 => some .stop | 2 => some .trap | _ => none

/-! ## Operand fields -/

/-- Kind code of an operand (Table 5-2). -/
def Src.kind : Src → Nat | .v _ => 0 | .s _ => 1 | .sys _ => 2 | .imm _ => 0
/-- Field value of an operand. -/
def Src.num : Src → Nat | .v n => n | .s n => n | .sys n => n | .imm _ => 0
/-- The source B value (R96). -/
def Src.immNat : Src → Nat | .imm x => x.toNat | _ => 0
def Src.of (kind n : Nat) : Option Src :=
  match kind with | 0 => some (.v n) | 1 => some (.s n) | 2 => some (.sys n) | _ => none
def Dst.kind : Dst → Nat | .v _ => 0 | .s _ => 1
def Dst.num : Dst → Nat | .v n => n | .s n => n
def Dst.of (kind n : Nat) : Option Dst :=
  match kind with | 0 => some (.v n) | 1 => some (.s n) | _ => none
def DstP.kind : DstP → Nat | .v _ => 0 | .s _ => 1 | .p _ => 3
def DstP.num : DstP → Nat | .v n => n | .s n => n | .p n => n
/-- A destination that may be a predicate; bits 7-4 of a predicate field are zero (R99), and bit 3, which negates the
value read, is ignored where the field names a destination (log entry 49). -/
def DstP.of (kind n : Nat) : Option DstP :=
  match kind with
  | 0 => some (.v n) | 1 => some (.s n) | 3 => if n < 16 then some (.p (n % 8)) else none | _ => none
def PSrc.num (p : PSrc) : Nat := p.ix + 8 * p.neg.toNat
/-- A predicate operand of kind 11 (R99). -/
def PSrc.of (kind n : Nat) : Option PSrc :=
  if kind = 3 ∧ n < 16 then some ⟨n % 8, n / 8 == 1⟩ else none

def Fields.kindD (f : Fields) : Nat := if f.cls = 1 then f.bits 46 2 else f.bits 62 2
def Fields.kindA (f : Fields) : Nat := if f.cls = 1 then f.bits 48 2 else f.bits 64 2
def Fields.d (f : Fields) : Nat := f.bits 30 8
def Fields.a (f : Fields) : Nat := f.bits 38 8
def Fields.b (f : Fields) : Nat := f.bits 46 8
def Fields.c (f : Fields) : Nat := f.bits 54 8
def Fields.imm (f : Fields) : Word := BitVec.ofNat 32 (f.bits 62 32)
def Fields.off (f : Fields) : BitVec 16 := BitVec.ofNat 16 (f.bits 62 16)
/-- `w` qualifier bits from Q`lo`; Q23-Q8 read as zero in the immediate class (R71). -/
def Fields.q (f : Fields) (lo w : Nat) : Nat :=
  match f.cls with
  | 0 => f.bits (70 + lo) w
  | 1 => if lo + w ≤ 8 then f.bits (54 + lo) w else 0
  | 2 => f.bits (78 + lo) w
  | _ => f.bits (66 + lo) w
def Fields.dst (f : Fields) : Option Dst := Dst.of f.kindD f.d
def Fields.dstP (f : Fields) : Option DstP := DstP.of f.kindD f.d
def Fields.srcA (f : Fields) : Option Src := Src.of f.kindA f.a
def Fields.srcB (f : Fields) : Option Src :=
  if f.cls = 1 then some (.imm f.imm) else Src.of (f.bits 66 2) f.b
/-- Source C; there is none in the immediate class (R71). -/
def Fields.srcC (f : Fields) : Option Src := if f.cls = 1 then none else Src.of (f.bits 68 2) f.c
/-- The two predicates of a compare (R73). -/
def Fields.cmpD (f : Fields) : Option (Nat × Nat) :=
  if f.kindD = 3 ∧ f.d < 64 then some (f.d % 8, f.d / 8) else none
/-- The memory operand of R74; the index field is read only in the modes that use it. -/
def Fields.addr (f : Fields) : Addr :=
  let am := f.bits 78 2
  ⟨am, f.a, if am % 2 = 1 then f.b else 0, f.off⟩
/-- The range pairs of SPAN and RLXST (Table 7-3). -/
def Fields.ranges (f : Fields) : RegRange × RegRange × RegRange × RegRange :=
  (⟨f.d, f.a⟩, ⟨f.b, f.c⟩, ⟨f.bits 62 8, f.bits 70 8⟩, ⟨f.bits 78 8, f.bits 86 8⟩)
/-- The event qualifier of an extended-class command (Table 18-1). -/
def Fields.ev (f : Fields) : Option Nat := if f.bits 80 1 = 1 then some (f.bits 74 6) else none
/-- The event qualifier of a memory-class command (Table 18-2). -/
def Fields.evM (f : Fields) : Option Nat := if f.bits 80 1 = 1 then some (f.bits 81 6) else none

/-- Register-class body: qualifiers, the operands and the destination with their kinds. -/
def bodyR (q : Nat) (dk d : Nat) (a b c : Src) : Nat :=
  put 70 q + put 68 c.kind + put 66 b.kind + put 64 a.kind + put 62 dk + put 54 c.num + put 46 b.num
    + put 38 a.num + put 30 d
/-- Immediate-class body. -/
def bodyI (q : Nat) (dk d : Nat) (a : Src) (imm : Nat) : Nat :=
  put 62 imm + put 54 q + put 48 a.kind + put 46 dk + put 38 a.num + put 30 d
/-- Memory-class body. -/
def bodyM (q : Nat) (off : BitVec 16) (data b a d : Nat) : Nat :=
  put 78 q + put 62 off.toNat + put 54 data + put 46 b + put 38 a + put 30 d
/-- A form of one or two sources in the class `cls`. -/
def body2 (cls q dk d : Nat) (a b : Src) : Nat :=
  if cls = 1 then bodyI q dk d a b.immNat else bodyR q dk d a b (.v 0)
/-- A form that only has a source B value or a source A. -/
def body1 (cls q dk d : Nat) (a : Src) : Nat :=
  if cls = 1 then bodyI q dk d (.v 0) a.immNat else bodyR q dk d a (.v 0) (.v 0)
def bodyMem (q : Nat) (m : Addr) (data d : Nat) : Nat := bodyM (q + m.am) m.off data m.x m.a d
def bodyRanges (r0 r1 r2 r3 : RegRange) : Nat :=
  put 30 r0.first + put 38 r0.last + put 46 r1.first + put 54 r1.last + put 62 r2.first + put 70 r2.last
    + put 78 r3.first + put 86 r3.last
/-- The event fields of an extended-class command. -/
def bodyEv (ev : Option Nat) : Nat :=
  match ev with | some n => put 80 1 + put 74 n | none => 0
/-- The event qualifier bits of a memory-class command. -/
def qEv (ev : Option Nat) : Nat :=
  match ev with | some n => 4 + 8 * n | none => 0
def bodyCmd (ev : Option Nat) (q slot acc ts : Nat) : Nat :=
  bodyEv ev + put 66 q + put 62 slot + put 54 acc + put 42 ts
def bodyBind (k : BindKind) (obj a : Nat) (off : BitVec 16) (len : BindLen) : Nat :=
  put 62 off.toNat + put 38 a + put 30 (obj % 256) + put 46 (obj / 256) + put 52 k.code
    + (match len with | .imm v => put 54 v | .reg n => put 61 1 + put 54 n)

/-- The major opcode of a form (Table 5-3); 1024 for a step without an encoding. -/
def Instr.opc : Instr → Nat
  | .nop .. => 0x000 | .bra .. => 0x001 | .brx .. => 0x002 | .call .. => 0x003 | .ret .. => 0x004
  | .join .. => 0x005 | .exit .. => 0x006 | .yield .. => 0x007 | .span .. => 0x008 | .rep .. => 0x009
  | .loop .. => 0x00A | .elect .. => 0x00B | .vote .. => 0x00C | .shfl .. => 0x00D | .waitc .. => 0x00E
  | .sleep .. => 0x00F | .ipref .. => 0x010 | .feat .. => 0x011
  | .iadd .. => 0x040 | .isub .. => 0x041 | .imul .. => 0x042 | .imulh .. => 0x043 | .imad .. => 0x044
  | .iadd64 .. => 0x045 | .imin .. => 0x046 | .imax .. => 0x047 | .iabs .. => 0x048 | .and .. => 0x049
  | .or .. => 0x04A | .xor .. => 0x04B | .not .. => 0x04C | .lut3 .. => 0x04D | .shl .. => 0x04E
  | .shr .. => 0x04F | .sar .. => 0x050 | .shf .. => 0x051 | .popc .. => 0x052 | .clz .. => 0x053
  | .brev .. => 0x054 | .bfe .. => 0x055 | .bfi .. => 0x056 | .bperm .. => 0x057 | .isetp .. => 0x058
  | .sel .. => 0x059 | .mov .. => 0x05A | .movi .. => 0x05B | .lea .. => 0x05C | .icvt .. => 0x05D
  | .idiv .. => 0x05E
  | .fadd .. => 0x0C0 | .fsub .. => 0x0C1 | .fmul .. => 0x0C2 | .ffma .. => 0x0C3 | .fmin .. => 0x0C4
  | .fmax .. => 0x0C5 | .fsetp .. => 0x0C6 | .fclass .. => 0x0C7 | .frnd .. => 0x0C8 | .fcvt .. => 0x0C9
  | .f2i .. => 0x0CA | .i2f .. => 0x0CB | .fscale .. => 0x0CC | .fdiv .. => 0x0CD | .fsqrt .. => 0x0CE
  | .frcp .. => 0x0CF | .frsq .. => 0x0D0 | .fexp .. => 0x0D1 | .fexp2 .. => 0x0D2 | .flog .. => 0x0D3
  | .flog2 .. => 0x0D4 | .fsin .. => 0x0D5 | .fcos .. => 0x0D6 | .ftanh .. => 0x0D7 | .fsigm .. => 0x0D8
  | .hadd2 .. => 0x0D9 | .hmul2 .. => 0x0DA | .hfma2 .. => 0x0DB | .hmin2 .. => 0x0DC | .hmax2 .. => 0x0DD
  | .hsetp2 .. => 0x0DE | .bfma2 .. => 0x0DF | .fdot4 .. => 0x0E0
  | .plop .. => 0x160 | .pset .. => 0x161 | .p2v .. => 0x162 | .v2p .. => 0x163
  | .ld .. => 0x180 | .ldNf .. => 0x180 | .st .. => 0x181 | .pref .. => 0x182 | .pgreq .. => 0x183
  | .atom .. => 0x184 | .red .. => 0x185 | .txbegin .. => 0x186 | .txend .. => 0x187 | .txabort .. => 0x188
  | .txstat .. => 0x189 | .enq .. => 0x18A | .deq .. => 0x18B | .bind .. => 0x18C | .unbind .. => 0x18D
  | .acq .. => 0x18E | .rel .. => 0x18F | .fence .. => 0x190 | .barinit .. => 0x191 | .bara .. => 0x192
  | .barw .. => 0x193 | .baraw .. => 0x194 | .barq .. => 0x195
  | .tdef .. => 0x240 | .tqry .. => 0x241 | .cpy .. => 0x242 | .cpyr .. => 0x243 | .qnt .. => 0x244
  | .evpop .. => 0x245 | .evwait .. => 0x246 | .tkdef .. => 0x247 | .tkdec .. => 0x248
  | .tkpull .. => 0x249 | .tkdone .. => 0x24A | .weirget .. => 0x24B
  | .mma .. => 0x280 | .mmah .. => 0x281 | .mmai .. => 0x282 | .mzero .. => 0x283 | .mld .. => 0x284
  | .mst .. => 0x285 | .wbld .. => 0x286 | .accalloc .. => 0x287 | .accfree .. => 0x288
  | .oprfence .. => 0x289
  | .rlxcfg .. => 0x2C0 | .rlxcfgReg .. => 0x2C0 | .rlxcfgTol .. => 0x2C0 | .rlxst .. => 0x2C1
  | .rlxin .. => 0x2C2 | .rlxgs .. => 0x2C3 | .rlxbeg .. => 0x2C4 | .rlxend .. => 0x2C5
  | .rlxq .. => 0x2C6 | .rlxseed .. => 0x2C7
  | .gcfg .. => 0x2E0 | .gperm .. => 0x2E1 | .gadd .. => 0x2E2 | .gtest .. => 0x2E3 | .gq .. => 0x2E4
  | .bnew .. => 0x2F0 | .hdrop .. => 0x2F1 | .hmov .. => 0x2F2 | .hcpy .. => 0x2F3 | .hld .. => 0x2F4
  | .hst .. => 0x2F5 | .hstm .. => 0x2F6 | .hldm .. => 0x2F7 | .hldmRing .. => 0x2F7 | .hxfer .. => 0x2F8
  | .hqry .. => 0x2F9
  | .launch .. => 0x310 | .stepmk .. => 0x311 | .dieq .. => 0x312 | .treeset .. => 0x313
  | .treesetCanon .. => 0x313 | .cred .. => 0x314
  | .sysr .. => 0x320 | .sysw .. => 0x321 | .trap .. => 0x322 | .eret .. => 0x323 | .brk .. => 0x324
  | .halt .. => 0x325 | .trcon .. => 0x326 | .trcoff .. => 0x327 | .cntrd .. => 0x328
  | _ => 1024

/-- The format class in which the encoder writes a form (Table 5-3; the register class where a form
with one source takes both). -/
def Instr.cls : Instr → Nat
  | .bra .. | .call .. => 1
  | .span .. | .loop .. | .waitc .. | .ipref .. => 3
  | .rep _ n | .sleep _ n | .feat _ _ n | .movi _ _ _ n | .pset _ _ n | .txabort _ n =>
      if n.isImm then 1 else 0
  | .shfl _ _ _ _ b | .iadd _ _ _ _ _ b | .isub _ _ _ _ _ b | .imul _ _ _ b | .imulh _ _ _ _ b
  | .iadd64 _ _ _ b | .imin _ _ _ _ b | .imax _ _ _ _ b | .and _ _ _ b | .or _ _ _ b | .xor _ _ _ b
  | .shl _ _ _ b | .shr _ _ _ b | .sar _ _ _ b | .bfe _ _ _ _ b | .isetp _ _ _ _ _ _ b
  | .lea _ _ _ _ _ b | .idiv _ _ _ _ b | .fadd _ _ _ b | .fsub _ _ _ b | .fmul _ _ _ b
  | .fmin _ _ _ b | .fmax _ _ _ b | .fsetp _ _ _ _ _ b | .fscale _ _ _ b | .fdiv _ _ _ b
  | .hadd2 _ _ _ _ b | .hmul2 _ _ _ _ b | .hmin2 _ _ _ _ b | .hmax2 _ _ _ _ b
  | .hsetp2 _ _ _ _ _ _ b | .v2p _ _ b => if b.isImm then 1 else 0
  | .ld .. | .ldNf .. | .st .. | .pref .. | .pgreq .. | .atom .. | .red .. | .enq .. | .deq .. | .bind ..
  | .unbind .. | .acq .. | .rel .. | .tdef .. | .mld .. | .mst .. | .wbld .. | .rlxin .. | .rlxgs ..
  | .hld .. | .hst .. | .hstm .. | .hldm .. | .hldmRing .. | .treeset .. | .treesetCanon .. => 2
  | .txbegin .. | .barinit .. | .bara .. | .barw .. | .baraw .. | .barq .. | .cpy .. | .cpyr .. | .qnt ..
  | .tkdef .. | .tkdec .. | .tkpull .. | .tkdone .. | .weirget .. | .mma .. | .mmah .. | .mmai ..
  | .mzero .. | .accalloc .. | .accfree .. | .oprfence .. | .rlxcfg .. | .rlxcfgReg .. | .rlxcfgTol ..
  | .rlxst .. | .rlxbeg .. | .rlxend .. | .rlxq .. | .rlxseed .. | .gcfg .. | .gperm .. | .bnew ..
  | .hdrop .. | .hmov .. | .hcpy .. | .hxfer .. | .hqry .. | .launch .. | .stepmk .. | .cred ..
  | .trap .. | .eret .. | .brk .. | .halt .. | .trcon .. | .trcoff .. => 3
  | _ => 0

/-- Bits 93-30 of a form written in the class `cls`. -/
def Instr.body (cls : Nat) : Instr → Nat
  | .bra _ t => put 62 t.toNat
  | .brx _ a => bodyR 0 0 0 a (.v 0) (.v 0)
  | .call _ d t => bodyI 0 1 d (.v 0) t.toNat
  | .ret _ a => bodyR 0 0 0 (.s a) (.v 0) (.v 0)
  | .span _ r0 r1 r2 r3 | .rlxst _ r0 r1 r2 r3 => bodyRanges r0 r1 r2 r3
  | .rep _ n | .sleep _ n | .txabort _ n => body1 cls 0 0 0 n
  | .loop _ (.imm n) last => put 62 last.toNat + put 46 n
  | .loop _ (.reg a) last => put 62 last.toNat + put 38 a + put 30 1
  | .elect _ d => bodyR 0 d.kind d.num (.v 0) (.v 0) (.v 0)
  | .vote _ m d a => put 70 m.code + put 64 3 + put 62 d.kind + put 38 a.num + put 30 d.num
  | .shfl _ m d a b => body2 cls m.code 0 d a b
  | .waitc _ m => put 62 m
  | .ipref _ t n => put 62 t.toNat + put 30 (n - 1)
  | .feat _ d a => body1 cls 0 d.kind d.num a
  | .iadd _ ty sat d a b | .isub _ ty sat d a b => body2 cls (ty.code + 32 * sat.toNat) d.kind d.num a b
  | .imul _ d a b | .iadd64 _ d a b | .and _ d a b | .or _ d a b | .xor _ d a b | .shl _ d a b
  | .shr _ d a b | .sar _ d a b | .fadd _ d a b | .fsub _ d a b | .fmul _ d a b | .fmin _ d a b
  | .fmax _ d a b | .fscale _ d a b | .fdiv _ d a b => body2 cls 0 d.kind d.num a b
  | .imulh _ ty d a b | .imin _ ty d a b | .imax _ ty d a b | .bfe _ ty d a b | .idiv _ ty d a b =>
      body2 cls ty.code d.kind d.num a b
  | .imad _ ty sat d a b c => bodyR (ty.code + 32 * sat.toNat) d.kind d.num a b c
  | .iabs _ d a | .not _ d a | .popc _ d a | .clz _ d a | .brev _ d a | .mov _ d a | .fclass _ d a
  | .fsqrt _ d a | .frcp _ d a | .frsq _ d a | .fexp _ d a | .fexp2 _ d a | .flog _ d a | .flog2 _ d a
  | .fsin _ d a | .fcos _ d a | .ftanh _ d a | .fsigm _ d a => body2 cls 0 d.kind d.num a (.v 0)
  | .lut3 _ lut d a b c => bodyR (256 * lut.toNat) d.kind d.num a b c
  | .shf _ r d a b c => bodyR (64 * r.toNat) d.kind d.num a b c
  | .bfi _ d a b c | .bperm _ d a b c | .ffma _ d a b c | .fdot4 _ d a b c => bodyR 0 d.kind d.num a b c
  | .isetp _ cmp ty pd pe a b => body2 cls (ty.code + 4 * cmp.code) 3 (pd + 8 * pe) a b
  | .sel _ d a b c =>
      put 68 3 + put 66 b.kind + put 64 a.kind + put 62 d.kind + put 54 c.num + put 46 b.num
        + put 38 a.num + put 30 d.num
  | .movi _ hi d a => body1 cls (128 * hi.toNat) d.kind d.num a
  | .lea _ ty sh d a b => body2 cls (ty.code + 2 ^ 20 * sh) d.kind d.num a b
  | .icvt _ sty ty d a =>
      body2 cls (ty.code + (if cls = 1 then 0 else 2 ^ 16 * sty.code)) d.kind d.num a (.v 0)
  | .fsetp _ cmp pd pe a b => body2 cls (8 * cmp.code) 3 (pd + 8 * pe) a b
  | .frnd _ r d a => body2 cls r.code d.kind d.num a (.v 0)
  | .fcvt _ r dt ty d a =>
      body2 cls (r.code + (if cls = 1 then 0 else 2 ^ 8 * dt.code + 2 ^ 11 * ty.code)) d.kind d.num a (.v 0)
  | .f2i _ r dt ty d a =>
      body2 cls (r.code + 2 ^ 8 * (4 + dt.code) + 2 ^ 11 * ty.code) d.kind d.num a (.v 0)
  | .i2f _ r dt ty d a =>
      body2 cls (r.code + 2 ^ 8 * dt.code + 2 ^ 11 * (4 + ty.code)) d.kind d.num a (.v 0)
  | .hadd2 _ h d a b | .hmul2 _ h d a b | .hmin2 _ h d a b | .hmax2 _ h d a b =>
      body2 cls (64 * h.code) d.kind d.num a b
  | .hfma2 _ h d a b c | .bfma2 _ h d a b c => bodyR (64 * h.code) d.kind d.num a b c
  | .hsetp2 _ h cmp pd pe a b => body2 cls (64 * h.code + 8 * cmp.code) 3 (pd + 8 * pe) a b
  | .plop _ lut pd a b c =>
      put 70 lut.toNat + put 68 3 + put 66 3 + put 64 3 + put 62 3 + put 54 c.num + put 46 b.num
        + put 38 a.num + put 30 pd
  | .pset _ pd x => body1 cls 0 3 pd x
  | .p2v _ d => if cls = 1 then bodyI 0 0 d (.v 0) 0 else bodyR 0 0 d (.v 0) (.v 0) (.v 0)
  | .v2p _ a m => body2 cls 0 0 0 a m
  | .ld _ c sg w d m => bodyMem (2 ^ 10 * c.code + 32 * sg.toNat + 4 * w.code) m 0 d
  | .ldNf _ c sg w d pf m => bodyMem (2 ^ 10 * c.code + 64 + 32 * sg.toNat + 4 * w.code) m pf d
  | .st _ c w src m => bodyMem (2 ^ 10 * c.code + 4 * w.code) m src 0
  | .pref _ c m => bodyMem (2 ^ 10 * c.code) m 0 0
  | .pgreq _ m => bodyMem 0 m 0 0
  | .atom _ op c sc w d src m =>
      bodyMem (2 ^ 12 * op.code + 2 ^ 10 * c.code + 2 ^ 7 * sc.code + 4 * w.code) m src d
  | .red _ op c sc w src m =>
      bodyMem (2 ^ 12 * op.code + 2 ^ 10 * c.code + 2 ^ 7 * sc.code + 4 * w.code) m src 0
  | .txbegin _ t => put 62 t.toNat
  | .txstat _ d => put 30 d
  | .enq _ ps src m => bodyMem 0 m src ps
  | .deq _ d ps m => bodyMem 0 m ps d
  | .bind _ k obj a off len | .unbind _ k obj a off len => bodyBind k obj a off len
  | .acq _ sc d m => bodyMem (2 ^ 7 * sc.code) m 0 d
  | .rel _ sc src m => bodyMem (2 ^ 7 * sc.code) m src 0
  | .fence _ sc => put 77 sc.code
  | .barinit _ b (.imm m) => put 62 b + put 38 m
  | .barinit _ b (.reg a) => put 62 b + put 38 a + put 30 1
  | .bara _ b => put 62 b
  | .barw _ b pb | .baraw _ b pb => put 62 b + put 30 pb
  | .barq _ b d => put 62 b + put 30 d
  | .tdef _ t a off => bodyM 0 off (t / 256) 0 a (t % 256)
  | .tqry _ d t q => put 70 (t + 4096 * q) + put 62 d.kind + put 30 d.num
  | .cpy _ ev td ts | .qnt _ ev td ts => bodyEv ev + put 42 ts + put 30 td
  | .cpyr _ ev td ts a => bodyEv ev + put 56 a + put 42 ts + put 30 td
  | .evpop _ d ps => put 68 3 + put 54 ps + put 30 d
  | .evwait _ d => put 30 d
  | .tkdef _ x => put 56 x
  | .tkdec _ i n => put 56 i + put 30 n
  | .tkpull _ w d ps ty => put 66 w.toNat + put 56 d + put 33 ty + put 30 ps
  | .tkdone _ i => put 56 i
  | .weirget _ ev a ts r => bodyEv ev + put 56 a + put 42 ts + put 30 r
  | .mma _ ev acc ts slot | .mmai _ ev acc ts slot => bodyCmd ev 0 slot acc ts
  | .mmah _ ev bf acc ts slot => bodyCmd ev bf.toNat slot acc ts
  | .mzero _ ev acc => bodyCmd ev 0 0 acc 0
  | .mld _ ev acc a off => bodyM (qEv ev) off 0 0 a acc
  | .mst _ ev acc a off => bodyM (qEv ev) off acc 0 a 0
  | .wbld _ ev l slot a off => bodyM (qEv ev + 512 * l.code) off 0 0 a slot
  | .accalloc _ tr ps acc => put 66 tr.toNat + put 54 acc + put 30 ps
  | .accfree _ acc => put 54 acc
  | .rlxcfg _ dn src cl l t =>
      put 32 dn.toNat + put 33 src.code + put 35 cl.toNat + put 38 (t - 1) + put 54 (l - 1)
  | .rlxcfgReg _ dn src cl sl t =>
      put 32 dn.toNat + put 33 src.code + put 35 cl.toNat + put 36 1 + put 38 t + put 54 sl
  | .rlxcfgTol _ a b => put 30 1 + put 38 a + put 46 b
  | .rlxin _ d a off stride => put 62 off.toNat + put 46 stride.toNat + put 38 a + put 30 d
  | .rlxgs _ n a off => bodyM (4 * n.toNat) off 0 0 a 0
  | .rlxq _ q d => put 40 q + put 38 d.kind + put 30 d.num
  | .rlxseed _ src j => put 38 j + put 30 src
  | .gcfg _ ps a off => put 62 off.toNat + put 38 a + put 30 ps
  | .gperm _ d a => put 46 a.kind + put 38 a.num + put 30 d
  | .gadd _ ps a => put 64 a.kind + put 62 3 + put 38 a.num + put 30 ps
  | .gtest _ pd => put 62 3 + put 30 pd
  | .gq _ q d => put 70 q + put 62 d.kind + put 30 d.num
  | .bnew _ hf hs ps (.imm x) => put 62 x.toNat + put 38 ps + put 34 hs + put 30 hf
  | .bnew _ hf hs ps (.reg z) => put 42 z + put 41 1 + put 38 ps + put 34 hs + put 30 hf
  | .hdrop _ a => put 30 a
  | .hmov _ d a | .hcpy _ d a => put 34 a + put 30 d
  | .hld _ sg w d a ix off =>
      bodyM (32 * sg.toNat + 4 * w.bcode + ix.isSome.toNat) off 0 (ix.getD 0) a d
  | .hst _ w src a ix off => bodyM (4 * w.bcode + ix.isSome.toNat) off src (ix.getD 0) a 0
  | .hstm _ b off a => bodyM 0 off 0 b a 0
  | .hldm _ a ps b off => bodyM 0 off ps b a 0
  | .hldmRing _ a ps b off => bodyM 64 off ps b a 0
  | .hxfer _ ps a port ring => put 41 ring + put 38 port + put 34 a + put 30 ps
  | .hqry _ q d a => put 42 q.code + put 38 a + put 30 d
  | .launch _ d a => put 38 a + put 30 d
  | .stepmk _ pw => put 30 pw
  | .dieq _ q d => put 70 q + put 62 d.kind + put 30 d.num
  | .treeset _ a off => bodyM 0 off 0 0 a 0
  | .treesetCanon _ => bodyM 4 0 0 0 0 0
  | .cred _ op ty d a => put 68 d.kind + put 66 ty.code + put 62 op.code + put 38 a + put 30 d.num
  | .sysr _ d n => put 70 n + put 62 d.kind + put 30 d.num
  | .sysw _ n a => put 70 n + put 64 1 + put 38 a
  | .trap _ code => put 62 code.toNat
  | .brk _ act code => put 62 code.toNat + put 92 act.code
  | .cntrd _ n d => put 70 n + put 62 d.kind + put 30 d.num
  | _ => 0

/-- The word of a form (spec 04, 05); a step without an encoding has none. -/
def encode (i : Instr) : Option (BitVec 96) :=
  i.ctl.map fun h => Fields.toWord ⟨i.cls, i.body i.cls, h, i.opc⟩

/-! ## Decoding -/

/-- The format classes that a major opcode accepts (Table 5-3); none for an unassigned code. -/
def classes (opc : Nat) : List Nat :=
  if opc = 0x001 ∨ opc = 0x003 then [1]
  else if opc = 0x008 ∨ opc = 0x00A ∨ opc = 0x00E ∨ opc = 0x010 then [3]
  else if opc = 0x009 ∨ opc = 0x00D ∨ opc = 0x00F ∨ opc = 0x011 then [0, 1]
  else if opc ≤ 0x00C then [0]
  else if 0x040 ≤ opc ∧ opc ≤ 0x05E ∨ 0x0C0 ≤ opc ∧ opc ≤ 0x0E0 ∨ 0x160 ≤ opc ∧ opc ≤ 0x163 then [0, 1]
  else if 0x180 ≤ opc ∧ opc ≤ 0x185 ∨ 0x18A ≤ opc ∧ opc ≤ 0x18F then [2]
  else if opc = 0x187 ∨ opc = 0x189 ∨ opc = 0x190 then [0]
  else if opc = 0x188 then [0, 1]
  else if opc = 0x186 ∨ 0x191 ≤ opc ∧ opc ≤ 0x195 then [3]
  else if opc = 0x240 then [2]
  else if opc = 0x241 ∨ opc = 0x245 ∨ opc = 0x246 then [0]
  else if 0x242 ≤ opc ∧ opc ≤ 0x24B then [3]
  else if 0x284 ≤ opc ∧ opc ≤ 0x286 then [2]
  else if 0x280 ≤ opc ∧ opc ≤ 0x289 then [3]
  else if opc = 0x2C2 ∨ opc = 0x2C3 then [2]
  else if 0x2C0 ≤ opc ∧ opc ≤ 0x2C7 then [3]
  else if opc = 0x2E0 ∨ opc = 0x2E1 then [3]
  else if 0x2E2 ≤ opc ∧ opc ≤ 0x2E4 then [0]
  else if 0x2F4 ≤ opc ∧ opc ≤ 0x2F7 then [2]
  else if 0x2F0 ≤ opc ∧ opc ≤ 0x2F9 then [3]
  else if opc = 0x312 then [0]
  else if opc = 0x313 then [2]
  else if 0x310 ≤ opc ∧ opc ≤ 0x314 then [3]
  else if opc = 0x320 ∨ opc = 0x321 ∨ opc = 0x328 then [0]
  else if 0x322 ≤ opc ∧ opc ≤ 0x327 then [3]
  else []

/-- The opcodes marked g2 in Table 5-3. -/
def g2Opcode (opc : Nat) : Bool :=
  opc == 0x0DF || opc == 0x0E0 || opc == 0x243 || opc == 0x244 || opc == 0x24B || opc == 0x2C7
    || opc == 0x2F8 || opc == 0x311 || opc == 0x313

/-- A two-source form without qualifiers. -/
def Fields.two (f : Fields) (k : Ctl → Dst → Src → Src → Instr) : Option Instr := do
  return k f.ctl (← f.dst) (← f.srcA) (← f.srcB)
/-- A one-source form without qualifiers; the source B value of the immediate class is ignored (R99). -/
def Fields.one (f : Fields) (k : Ctl → Dst → Src → Instr) : Option Instr := do
  return k f.ctl (← f.dst) (← f.srcA)
/-- A three-source form without qualifiers. -/
def Fields.three (f : Fields) (k : Ctl → Dst → Src → Src → Src → Instr) : Option Instr := do
  return k f.ctl (← f.dst) (← f.srcA) (← f.srcB) (← f.srcC)
/-- The one operand of REP, SLEEP, FEAT, PSET, TXABORT: source A, or the source B value. -/
def Fields.srcN (f : Fields) : Option Src := if f.cls = 1 then f.srcB else f.srcA

/-- The form of opcodes 0x000-0x03F (Table 7-3). -/
def parseControl (f : Fields) : Option Instr :=
  match f.opc with
  | 0x000 => some (.nop f.ctl)
  | 0x001 => some (.bra f.ctl f.imm)
  | 0x002 => do return .brx f.ctl (← f.srcA)
  | 0x003 => if f.kindD = 1 then some (.call f.ctl f.d f.imm) else none
  | 0x004 => if f.kindA = 1 then some (.ret f.ctl f.a) else none
  | 0x005 => some (.join f.ctl)
  | 0x006 => some (.exit f.ctl)
  | 0x007 => some (.yield f.ctl)
  | 0x008 => let r := f.ranges; some (.span f.ctl r.1 r.2.1 r.2.2.1 r.2.2.2)
  | 0x009 => do return .rep f.ctl (← f.srcN)
  | 0x00A =>
      some (.loop f.ctl (if f.bits 30 1 = 1 then .reg (f.bits 38 8) else .imm (f.bits 46 16)) f.imm)
  | 0x00B => do return .elect f.ctl (← f.dstP)
  | 0x00C => do return .vote f.ctl (← VMode.of (f.q 0 2)) (← f.dstP) (← PSrc.of f.kindA f.a)
  | 0x00D => if f.kindD = 0 then do return .shfl f.ctl (← SMode.of (f.q 0 2)) f.d (← f.srcA) (← f.srcB) else none
  | 0x00E => some (.waitc f.ctl (f.bits 62 6))
  | 0x00F => do return .sleep f.ctl (← f.srcN)
  | 0x010 => some (.ipref f.ctl f.imm (f.bits 30 4 + 1))
  | 0x011 => do return .feat f.ctl (← f.dst) (← f.srcN)
  | _ => none

/-- The form of opcodes 0x040-0x05E (Table 7-1). -/
def parseInteger (f : Fields) : Option Instr :=
  match f.opc with
  | 0x040 => do return .iadd f.ctl (← Ty.of (f.q 0 2)) (f.q 5 1 == 1) (← f.dst) (← f.srcA) (← f.srcB)
  | 0x041 => do return .isub f.ctl (← Ty.of (f.q 0 2)) (f.q 5 1 == 1) (← f.dst) (← f.srcA) (← f.srcB)
  | 0x042 => f.two .imul
  | 0x043 => do f.two (Instr.imulh · (← Ty.of (f.q 0 2)))
  | 0x044 => do f.three (Instr.imad · (← Ty.of (f.q 0 2)) (f.q 5 1 == 1))
  | 0x045 => f.two .iadd64
  | 0x046 => do f.two (Instr.imin · (← Ty.of (f.q 0 2)))
  | 0x047 => do f.two (Instr.imax · (← Ty.of (f.q 0 2)))
  | 0x048 => f.one .iabs
  | 0x049 => f.two .and
  | 0x04A => f.two .or
  | 0x04B => f.two .xor
  | 0x04C => f.one .not
  | 0x04D => f.three (Instr.lut3 · (BitVec.ofNat 8 (f.q 8 8)))
  | 0x04E => f.two .shl
  | 0x04F => f.two .shr
  | 0x050 => f.two .sar
  | 0x051 => f.three (Instr.shf · (f.q 6 1 == 1))
  | 0x052 => f.one .popc
  | 0x053 => f.one .clz
  | 0x054 => f.one .brev
  | 0x055 => do f.two (Instr.bfe · (← Ty.of (f.q 0 2)))
  | 0x056 => f.three .bfi
  | 0x057 => f.three .bperm
  | 0x058 => do
      let p ← f.cmpD
      return .isetp f.ctl (← ICmp.of (f.q 2 3)) (← Ty.of (f.q 0 2)) p.1 p.2 (← f.srcA) (← f.srcB)
  | 0x059 => if f.cls = 1 then none else do
      return .sel f.ctl (← f.dst) (← f.srcA) (← f.srcB) (← PSrc.of (f.bits 68 2) f.c)
  | 0x05A => f.one .mov
  | 0x05B => if f.cls = 0 ∧ f.q 7 1 = 1 then none else do return .movi f.ctl (f.q 7 1 == 1) (← f.dst) (← f.srcN)
  | 0x05C => do f.two (Instr.lea · (← Ty.of (f.q 0 2)) (f.q 20 3))
  | 0x05D => do f.one (Instr.icvt · (← SubTy.of (f.q 16 3)) (← Ty.of (f.q 0 2)))
  | 0x05E => do f.two (Instr.idiv · (← Ty.of (f.q 0 2)))
  | _ => none

/-- The form of opcodes 0x0C0-0x0E0 (Table 9-1). -/
def parseFloat (f : Fields) : Option Instr :=
  match f.opc with
  | 0x0C0 => f.two .fadd
  | 0x0C1 => f.two .fsub
  | 0x0C2 => f.two .fmul
  | 0x0C3 => f.three .ffma
  | 0x0C4 => f.two .fmin
  | 0x0C5 => f.two .fmax
  | 0x0C6 => do
      let p ← f.cmpD
      return .fsetp f.ctl (← FCmp.of (f.q 3 3)) p.1 p.2 (← f.srcA) (← f.srcB)
  | 0x0C7 => f.one .fclass
  | 0x0C8 => do f.one (Instr.frnd · (← Rnd.of (f.q 0 3)))
  | 0x0C9 => do f.one (Instr.fcvt · (← Rnd.of (f.q 0 3)) (← FTy.of (f.q 8 3)) (← FTy.of (f.q 11 3)))
  | 0x0CA => if f.q 8 3 < 4 then none else do
      f.one (Instr.f2i · (← Rnd.of (f.q 0 3)) (← Ty.of (f.q 8 3 - 4)) (← FTy.of (f.q 11 3)))
  | 0x0CB => if f.q 11 3 < 4 then none else do
      f.one (Instr.i2f · (← Rnd.of (f.q 0 3)) (← FTy.of (f.q 8 3)) (← Ty.of (f.q 11 3 - 4)))
  | 0x0CC => f.two .fscale
  | 0x0CD => f.two .fdiv
  | 0x0CE => f.one .fsqrt
  | 0x0CF => f.one .frcp
  | 0x0D0 => f.one .frsq
  | 0x0D1 => f.one .fexp
  | 0x0D2 => f.one .fexp2
  | 0x0D3 => f.one .flog
  | 0x0D4 => f.one .flog2
  | 0x0D5 => f.one .fsin
  | 0x0D6 => f.one .fcos
  | 0x0D7 => f.one .ftanh
  | 0x0D8 => f.one .fsigm
  | 0x0D9 => do f.two (Instr.hadd2 · (← Half.of (f.q 6 2)))
  | 0x0DA => do f.two (Instr.hmul2 · (← Half.of (f.q 6 2)))
  | 0x0DB => do f.three (Instr.hfma2 · (← Half.of (f.q 6 2)))
  | 0x0DC => do f.two (Instr.hmin2 · (← Half.of (f.q 6 2)))
  | 0x0DD => do f.two (Instr.hmax2 · (← Half.of (f.q 6 2)))
  | 0x0DE => do
      let p ← f.cmpD
      return .hsetp2 f.ctl (← Half.of (f.q 6 2)) (← FCmp.of (f.q 3 3)) p.1 p.2 (← f.srcA) (← f.srcB)
  | 0x0DF => do f.three (Instr.bfma2 · (← Half.of (f.q 6 2)))
  | 0x0E0 => f.three .fdot4
  | _ => none

/-- The form of opcodes 0x160-0x163 (Table 7-2). -/
def parsePredicate (f : Fields) : Option Instr :=
  match f.opc with
  | 0x160 => if f.cls = 1 ∨ f.kindD ≠ 3 ∨ 16 ≤ f.d then none else do
      return .plop f.ctl (BitVec.ofNat 8 (f.q 0 8)) (f.d % 8) (← PSrc.of f.kindA f.a)
        (← PSrc.of (f.bits 66 2) f.b) (← PSrc.of (f.bits 68 2) f.c)
  | 0x161 => if f.kindD ≠ 3 ∨ 16 ≤ f.d then none else do return .pset f.ctl (f.d % 8) (← f.srcN)
  | 0x162 => if f.kindD = 0 then some (.p2v f.ctl f.d) else none
  | 0x163 => do return .v2p f.ctl (← f.srcA) (← f.srcB)
  | _ => none

/-- The length field of BIND (R202). -/
def Fields.bindLen (f : Fields) : BindLen :=
  if f.bits 61 1 = 1 then .reg (f.bits 54 6) else .imm (f.bits 54 7)

/-- The form of opcodes 0x180-0x195 (Tables 12-1, 12-6, 12-12, R159, R202, R205). -/
def parseMemory (f : Fields) : Option Instr :=
  match f.opc with
  | 0x180 => do
      let c ← Cache.of (f.q 10 2)
      let w ← Width.of (f.q 2 3)
      if f.q 6 1 = 1 then return .ldNf f.ctl c (f.q 5 1 == 1) w f.d (f.bits 54 3) f.addr
      else return .ld f.ctl c (f.q 5 1 == 1) w f.d f.addr
  | 0x181 => do return .st f.ctl (← Cache.of (f.q 10 2)) (← Width.of (f.q 2 3)) f.c f.addr
  | 0x182 => do return .pref f.ctl (← Cache.of (f.q 10 2)) f.addr
  | 0x183 => some (.pgreq f.ctl f.addr)
  | 0x184 => do
      return .atom f.ctl (← AOp.of (f.q 12 4)) (← Cache.of (f.q 10 2)) (← Scope.of (f.q 7 3))
        (← Width.of (f.q 2 3)) f.d f.c f.addr
  | 0x185 => do
      return .red f.ctl (← AOp.of (f.q 12 4)) (← Cache.of (f.q 10 2)) (← Scope.of (f.q 7 3))
        (← Width.of (f.q 2 3)) f.c f.addr
  | 0x186 => some (.txbegin f.ctl f.imm)
  | 0x187 => some (.txend f.ctl)
  | 0x188 => do return .txabort f.ctl (← f.srcN)
  | 0x189 => if f.kindD = 0 then some (.txstat f.ctl f.d) else none
  | 0x18A => some (.enq f.ctl (f.bits 30 3) f.c f.addr)
  | 0x18B => some (.deq f.ctl f.d (f.bits 54 3) f.addr)
  | 0x18C => do return .bind f.ctl (← BindKind.of (f.bits 52 2)) (f.d + 256 * f.bits 46 4) f.a f.off f.bindLen
  | 0x18D => do return .unbind f.ctl (← BindKind.of (f.bits 52 2)) (f.d + 256 * f.bits 46 4) f.a f.off f.bindLen
  | 0x18E => do return .acq f.ctl (← Scope.of (f.q 7 3)) f.d f.addr
  | 0x18F => do return .rel f.ctl (← Scope.of (f.q 7 3)) f.c f.addr
  | 0x190 => do return .fence f.ctl (← Scope.of (f.q 7 3))
  | 0x191 =>
      some (.barinit f.ctl (f.bits 62 9) (if f.bits 30 1 = 1 then .reg (f.bits 38 8) else .imm (f.bits 38 8)))
  | 0x192 => some (.bara f.ctl (f.bits 62 9))
  | 0x193 => some (.barw f.ctl (f.bits 62 9) (f.bits 30 3))
  | 0x194 => some (.baraw f.ctl (f.bits 62 9) (f.bits 30 3))
  | 0x195 => some (.barq f.ctl (f.bits 62 9) (f.bits 30 6))
  | _ => none

/-- The form of opcodes 0x240-0x289 (Table 18-2). -/
def parseMatrix (f : Fields) : Option Instr :=
  match f.opc with
  | 0x240 => some (.tdef f.ctl (f.d + 256 * f.bits 54 4) f.a f.off)
  | 0x241 => do return .tqry f.ctl (← f.dst) (f.q 0 12) (f.q 12 4)
  | 0x242 => some (.cpy f.ctl f.ev (f.bits 30 12) (f.bits 42 12))
  | 0x243 => some (.cpyr f.ctl f.ev (f.bits 30 12) (f.bits 42 12) (f.bits 56 6))
  | 0x244 => some (.qnt f.ctl f.ev (f.bits 30 12) (f.bits 42 12))
  | 0x245 => some (.evpop f.ctl f.d (f.bits 54 3))
  | 0x246 => some (.evwait f.ctl f.d)
  | 0x247 => some (.tkdef f.ctl (f.bits 56 6))
  | 0x248 => some (.tkdec f.ctl (f.bits 56 6) (f.bits 30 12))
  | 0x249 => some (.tkpull f.ctl (f.q 0 1 == 1) (f.bits 56 6) (f.bits 30 3) (f.bits 33 4))
  | 0x24A => some (.tkdone f.ctl (f.bits 56 6))
  | 0x24B => some (.weirget f.ctl f.ev (f.bits 56 6) (f.bits 42 12) (f.bits 30 6))
  | 0x280 => some (.mma f.ctl f.ev (f.bits 54 2) (f.bits 42 12) (f.bits 62 4))
  | 0x281 => some (.mmah f.ctl f.ev (f.q 0 1 == 1) (f.bits 54 2) (f.bits 42 12) (f.bits 62 4))
  | 0x282 => some (.mmai f.ctl f.ev (f.bits 54 2) (f.bits 42 12) (f.bits 62 4))
  | 0x283 => some (.mzero f.ctl f.ev (f.bits 54 2))
  | 0x284 => some (.mld f.ctl f.evM (f.bits 30 2) f.a f.off)
  | 0x285 => some (.mst f.ctl f.evM (f.bits 54 2) f.a f.off)
  | 0x286 => do return .wbld f.ctl f.evM (← WLayout.of (f.q 9 2)) (f.bits 30 4) f.a f.off
  | 0x287 => some (.accalloc f.ctl (f.q 0 1 == 1) (f.bits 30 3) (f.bits 54 2))
  | 0x288 => some (.accfree f.ctl (f.bits 54 2))
  | 0x289 => some (.oprfence f.ctl)
  | _ => none

/-- The form of opcodes 0x2C0-0x2C7 (Table 22-2). -/
def parseRelax (f : Fields) : Option Instr :=
  match f.opc with
  | 0x2C0 =>
      if f.bits 30 2 = 1 then some (.rlxcfgTol f.ctl (f.bits 38 6) (f.bits 46 6))
      else if f.bits 30 2 ≠ 0 then none
      else if f.bits 36 1 = 1 then do
        return .rlxcfgReg f.ctl (f.bits 32 1 == 1) (← GSrc.of (f.bits 33 2)) (f.bits 35 1 == 1)
          (f.bits 54 6) (f.bits 38 6)
      else do
        return .rlxcfg f.ctl (f.bits 32 1 == 1) (← GSrc.of (f.bits 33 2)) (f.bits 35 1 == 1)
          (f.bits 54 16 + 1) (f.bits 38 16 + 1)
  | 0x2C1 => let r := f.ranges; some (.rlxst f.ctl r.1 r.2.1 r.2.2.1 r.2.2.2)
  | 0x2C2 => some (.rlxin f.ctl f.d f.a f.off (BitVec.ofNat 16 (f.bits 46 16)))
  | 0x2C3 => some (.rlxgs f.ctl (f.q 2 1 == 1) f.a f.off)
  | 0x2C4 => some (.rlxbeg f.ctl)
  | 0x2C5 => some (.rlxend f.ctl)
  | 0x2C6 => do return .rlxq f.ctl (f.bits 40 4) (← DstP.of (f.bits 38 2) f.d)
  | 0x2C7 => some (.rlxseed f.ctl f.d (f.bits 38 2))
  | _ => none

/-- The form of opcodes 0x2E0-0x2F9 (Tables 25-2, 25-4). -/
def parseGaugeBasin (f : Fields) : Option Instr :=
  match f.opc with
  | 0x2E0 => some (.gcfg f.ctl (f.bits 30 3) (f.bits 38 8) f.imm)
  | 0x2E1 => do return .gperm f.ctl f.d (← Src.of (f.bits 46 2) f.a)
  | 0x2E2 => do return .gadd f.ctl (f.bits 30 3) (← f.srcA)
  | 0x2E3 => some (.gtest f.ctl (f.bits 30 3))
  | 0x2E4 => do return .gq f.ctl (f.q 0 4) (← f.dst)
  | 0x2F0 =>
      some (.bnew f.ctl (f.bits 30 4) (f.bits 34 4) (f.bits 38 3)
        (if f.bits 41 1 = 1 then .reg (f.bits 42 6) else .imm f.imm))
  | 0x2F1 => some (.hdrop f.ctl (f.bits 30 4))
  | 0x2F2 => some (.hmov f.ctl (f.bits 30 4) (f.bits 34 4))
  | 0x2F3 => some (.hcpy f.ctl (f.bits 30 4) (f.bits 34 4))
  | 0x2F4 => do
      return .hld f.ctl (f.q 5 1 == 1) (← Width.bof (f.q 2 3)) f.d f.a
        (if f.q 0 2 = 1 then some f.b else none) f.off
  | 0x2F5 => do
      return .hst f.ctl (← Width.bof (f.q 2 3)) f.c f.a (if f.q 0 2 = 1 then some f.b else none) f.off
  | 0x2F6 => some (.hstm f.ctl f.b f.off f.a)
  | 0x2F7 =>
      if f.q 6 1 = 1 then some (.hldmRing f.ctl f.a (f.bits 54 3) f.b f.off)
      else some (.hldm f.ctl f.a (f.bits 54 3) f.b f.off)
  | 0x2F8 => some (.hxfer f.ctl (f.bits 30 3) (f.bits 34 4) (f.bits 38 3) (f.bits 41 4))
  | 0x2F9 => do return .hqry f.ctl (← HSel.of (f.bits 42 2)) (f.bits 30 6) (f.bits 38 4)
  | _ => none

/-- The form of opcodes 0x310-0x328 (Table 29-3). -/
def parseSystem (f : Fields) : Option Instr :=
  match f.opc with
  | 0x310 => some (.launch f.ctl (f.bits 30 6) (f.bits 38 6))
  | 0x311 => some (.stepmk f.ctl (f.bits 30 3))
  | 0x312 => do return .dieq f.ctl (f.q 0 4) (← f.dst)
  | 0x313 => if f.q 2 1 = 1 then some (.treesetCanon f.ctl) else some (.treeset f.ctl f.a f.off)
  | 0x314 => do
      return .cred f.ctl (← COp.of (f.bits 62 4)) (← CTy.of (f.bits 66 2))
        (if f.bits 68 1 = 1 then .s f.d else .v f.d) f.a
  | 0x320 => do return .sysr f.ctl (← f.dst) (f.q 0 8)
  | 0x321 => some (.sysw f.ctl (f.q 0 8) f.a)
  | 0x322 => some (.trap f.ctl (BitVec.ofNat 16 (f.bits 62 16)))
  | 0x323 => some (.eret f.ctl)
  | 0x324 => do return .brk f.ctl (← BrkAct.of (f.bits 92 2)) (BitVec.ofNat 16 (f.bits 62 16))
  | 0x325 => some (.halt f.ctl)
  | 0x326 => some (.trcon f.ctl)
  | 0x327 => some (.trcoff f.ctl)
  | 0x328 => do return .cntrd f.ctl (f.q 0 5) (← f.dst)
  | _ => none

/-- The form that the fields name, before the limits and the zero fields are checked. -/
def parse (f : Fields) : Option Instr :=
  if f.opc < 0x040 then parseControl f
  else if f.opc < 0x0C0 then parseInteger f
  else if f.opc < 0x160 then parseFloat f
  else if f.opc < 0x180 then parsePredicate f
  else if f.opc < 0x240 then parseMemory f
  else if f.opc < 0x2C0 then parseMatrix f
  else if f.opc < 0x2E0 then parseRelax f
  else if f.opc < 0x310 then parseGaugeBasin f
  else parseSystem f

/-- The bits of 93-30 that must be as the encoder writes them; the others belong to operand fields that
the form does not use, and are ignored (R71, R77, R122, R195, R261, R319, R354, R361, R412). In the extended class every
bit that a form leaves undefined must be zero, the count field of LOOP that M does not select among them (log entry 49). Of the
basin forms only the extended class has its unnamed fields zero (R361): in the memory class the DST and SRCC that HLD, HST, HSTM and
HLDM do not use are ignored as R71 says. -/
def careMask (f : Fields) : Nat :=
  let all := 2 ^ 64 - 1
  let srcb := put 46 255
  if f.cls = 3 then all
  else if f.opc < 0x180 then
    if f.cls = 1 then
      if f.opc = 0x001 then all else put 54 255 + put 50 15
    else if f.opc = 0x000 ∨ f.opc = 0x005 ∨ f.opc = 0x006 ∨ f.opc = 0x007 then all
    else put 70 (2 ^ 24 - 1)
  else if f.opc = 0x188 ∨ f.opc = 0x189 then (if f.cls = 1 then put 54 255 + put 50 15 else put 70 (2 ^ 24 - 1))
  else if f.opc = 0x2F4 ∨ f.opc = 0x2F5 then
    all - (if f.opc = 0x2F4 then put 54 255 else put 30 255) - (if f.bits 78 1 = 0 then srcb else 0)
  else if f.opc = 0x2F6 then all - put 30 255 - put 54 255
  else if f.opc = 0x2F7 then all - put 30 255
  else if f.cls = 2 ∧ f.bits 78 1 = 0 ∧
      (f.opc ≤ 0x18B ∨ f.opc = 0x18E ∨ f.opc = 0x18F) then all - srcb
  else all

/-- The destinations to which a poisoning word writes its tag (R66): found from the raw fields, since the
word names no form the machine performs. Where the form's registers cannot be told from the word alone, V2P with a
register as its mask names p0 to p6, and DEQ its first register. Where the DST kind is none that the form defines, which registers
receive the tag is the model's choice, form by form: a compare's predicates whatever the kind, sN for SHFL and P2V of kind 01, none
for PLOP, PSET, GADD, GTEST and TXSTAT (DESIGN CHOICE, log entry 49). -/
def poisonRaw (ver : Nat) (f : Fields) : List RegRef :=
  let vd := [RegRef.v f.d 1]
  let kinded (c : Nat) : List RegRef :=
    match f.kindD with | 0 => [.v f.d c] | 1 => [.s f.d 1] | _ => []
  let kindedP : List RegRef :=
    match f.kindD with | 0 => vd | 1 => [.s f.d 1] | 3 => [.p (f.d % 8)] | _ => []
  let wide : Nat := match Width.of (f.q 2 3) with | some w => w.regs | none => 1
  let bwide : Nat := match Width.bof (f.q 2 3) with | some w => w.regs | none => 1
  let p30 := RegRef.p (f.bits 30 3)
  if f.cls ∉ classes f.opc ∨ (ver = 1 ∧ g2Opcode f.opc) then vd
  else if f.opc = 0x003 then (if f.kindD = 1 then [.s f.d 1] else [])
  else if f.opc = 0x00B ∨ f.opc = 0x00C then kindedP
  else if f.opc = 0x00D ∨ f.opc = 0x011 then kinded 1
  else if f.opc < 0x040 then []
  else if f.opc = 0x058 ∨ f.opc = 0x0C6 ∨ f.opc = 0x0DE then [.p (f.bits 30 3), .p (f.bits 33 3)]
  else if f.opc = 0x045 ∨ f.opc = 0x05C then kinded 2
  else if f.opc = 0x160 ∨ f.opc = 0x161 then (if f.kindD = 3 then [.p (f.d % 8)] else [])
  else if f.opc = 0x163 then
    (List.range 7).filterMap fun k => if f.cls = 1 ∧ !f.imm.getLsbD k then none else some (.p k)
  else if f.opc < 0x180 then kinded 1
  else if f.opc = 0x180 then [.v f.d wide] ++ (if f.q 6 1 = 1 then [.p (f.bits 54 3)] else [])
  else if f.opc = 0x184 then [.v f.d wide]
  else if f.opc = 0x189 then (if f.kindD = 0 then vd else [])
  else if f.opc = 0x18A then [p30]
  else if f.opc = 0x18B then vd ++ [.p (f.bits 54 3)]
  else if f.opc = 0x18E then vd
  else if f.opc = 0x193 ∨ f.opc = 0x194 then [p30]
  else if f.opc = 0x195 then [.s (f.bits 30 6) 1]
  else if f.opc = 0x241 ∨ f.opc = 0x2E4 then kinded 2
  else if f.opc = 0x245 then (if f.kindD = 0 then [.v f.d 4] else []) ++ (if f.bits 68 2 = 3 then [.p (f.bits 54 3)] else [])
  else if f.opc = 0x246 then (if f.kindD = 0 then [.v f.d 4] else [])
  else if f.opc = 0x249 then [.s (f.bits 56 6) 2, p30]
  else if f.opc = 0x287 ∨ f.opc = 0x2E0 ∨ f.opc = 0x2F8 ∨ f.opc = 0x311 then [p30]
  else if f.opc = 0x2C6 then
    (match f.bits 38 2 with | 0 => vd | 1 => [.s f.d 1] | 3 => [p30] | _ => [])
  else if f.opc = 0x2E1 ∨ f.opc = 0x2C2 then vd
  else if f.opc = 0x2E2 ∨ f.opc = 0x2E3 then (if f.kindD = 3 then [p30] else [])
  else if f.opc = 0x2F0 then [.p (f.bits 38 3)]
  else if f.opc = 0x2F4 then [.v f.d bwide]
  else if f.opc = 0x2F7 then [.p (f.bits 54 3)]
  else if f.opc = 0x2F9 ∨ f.opc = 0x310 then [.s (f.bits 30 6) 1]
  else if f.opc = 0x314 then (if f.bits 68 1 = 1 then [.s (f.bits 30 6) 1] else vd)
  else if f.opc = 0x312 ∨ f.opc = 0x320 ∨ f.opc = 0x328 then kinded 1
  else []

/-- One register: a vector, a uniform or a predicate register. -/
inductive OneReg | v (n : Nat) | s (n : Nat) | p (n : Nat) deriving DecidableEq, Repr

/-- The destinations of a poisoning word, one by one; a vector register at or above V, a uniform
register above s63 and p7 receive nothing (R66, R14). -/
def poisonDsts (V ver : Nat) (f : Fields) : List OneReg :=
  (poisonRaw ver f).flatMap fun r =>
    match r with
    | .v n c => (List.range c).filterMap fun k => if n + k < V then some (.v (n + k)) else none
    | .s n c => (List.range c).filterMap fun k => if n + k < 64 then some (.s (n + k)) else none
    | .p n => if n < 7 then [.p n] else []
    | .h _ => []

/-- What a word is: an instruction, or a word that poisons (R66, R78). -/
inductive Decoded where
  | instr (i : Instr)
  | poison (h : Ctl) (dsts : List OneReg)
  deriving DecidableEq, Repr

/-- Decode a word of a line of version `ver` under V vector registers. Total: every word that is not an
instruction poisons (Table 5-6). -/
def decode (V ver : Nat) (w : BitVec 96) : Decoded :=
  let f := Fields.ofWord w
  let bad := Decoded.poison f.ctl (poisonDsts V ver f)
  if f.cls ∉ classes f.opc ∨ (ver = 1 ∧ g2Opcode f.opc) then bad
  else match parse f with
    | none => bad
    | some i =>
        if (f.body ^^^ i.body f.cls) &&& careMask f = 0 ∧ i.wf V ver then .instr i else bad

/-- The instruction of a row's word; the table's words are 96 bits, register-class words with bits above
`nbits` zero where it gives fewer. -/
def decodeTableWord (nbits w : Nat) : Option Instr :=
  match decode 256 2 (BitVec.ofNat 96 (w % 2 ^ nbits)) with
  | .instr i => some i
  | .poison _ _ => none

/-! ## Fetch lines (R46-R50) -/

/-- A decoded line word with the line's five instruction words. -/
structure Line where
  words : List (BitVec 96)
  ver : Nat
  /-- TGT bit of each slot -/
  tgt : Nat
  pair : Nat
  parityOk : Bool
  formatOk : Bool
  deriving DecidableEq, Repr

/-- Little-endian value of a byte list. -/
def leNat : List Byte → Nat
  | [] => 0
  | b :: bs => b.toNat + 256 * leNat bs

/-- The low `n` bytes of a number, least significant first. -/
def leBytes : Nat → Nat → List Byte
  | 0, _ => []
  | n + 1, x => BitVec.ofNat 8 (x % 256) :: leBytes n (x / 256)

/-- Exclusive-or of the low `n` bits of a number. -/
def parity : Nat → Nat → Bool
  | 0, _ => false
  | n + 1, x => (x % 2 == 1) ^^ parity n (x / 2)

/-- The parity of each of the first `n` groups of 60 bits, the lowest group in bit 0 (R48). -/
def groupPar : Nat → Nat → Nat
  | 0, _ => 0
  | n + 1, x => (parity 60 x).toNat + 2 * groupPar n (x / 2 ^ 60)

/-- PAR of the 480 instruction bits (R48). -/
def linePar (bits : Nat) : Nat := groupPar 8 bits

/-- The line held in 64 bytes. -/
def decodeLine (bs : List Byte) : Line :=
  let bits := leNat (bs.take 60)
  let lw := leNat ((bs.drop 60).take 4)
  { words := (List.range 5).map fun k => BitVec.ofNat 96 (leNat ((bs.drop (12 * k)).take 12))
    ver := lw / 2 ^ 17 % 8
    tgt := lw / 2 ^ 12 % 32
    pair := lw / 2 ^ 8 % 16
    parityOk := lw % 256 == linePar bits
    formatOk := (lw / 2 ^ 17 % 8 == 1 || lw / 2 ^ 17 % 8 == 2) && lw / 2 ^ 20 == 0 }

/-- The 64 bytes of a line of version 2 that holds the words, with the given TGT and PAIR bits. -/
def encodeLine (words : List (BitVec 96)) (tgt pair : Nat) : List Byte :=
  let bytes := words.flatMap fun w => leBytes 12 w.toNat
  bytes ++ leBytes 4 (linePar (leNat bytes) + 2 ^ 8 * pair + 2 ^ 12 * tgt + 2 ^ 17 * 2)

end Sys2Proof
end

