-- ==== Sys2Proof/Machine/State.lean ====
section
/-! DEFINITION. The state of one HX8 module as plain data: waves, teams, launches, cores, dies, memory,
translation, engines, regions, the Gauge units, basin tiles, debug, trace and start-up. Sparse files are
association lists sorted by key; a key that is not listed holds the file's default. -/

namespace Sys2Proof.Machine

/-- A sparse file: keys strictly rising. -/
abbrev Tab (β : Type) := List (Nat × β)

/-- Memory: (address, byte), addresses strictly rising, no byte equal to what an unlisted address reads
as, which is 0 (log entry 2). -/
abbrev Memory := List Host.Cell

/-- Why the machine stops. -/
inductive Fault where
  /-- Raised by JOIN, EXIT and a restart where the divergence stack in memory is not what the hardware
  wrote: R28 calls the wave's later behaviour undefined and gives no effect. Safe. -/
  | stackAltered
  /-- Raised by a restart where the checkpoint area in memory is not what the hardware wrote: R90 calls
  the wave's later behaviour undefined and gives no effect. Safe. -/
  | checkpointAltered
  /-- Raised when a wave issues or retires with the paths of a trap record that broke R24 to R30: R399 restores them as they are
  written, calls the later behaviour undefined and gives no effect for it. Safe. -/
  | pathStateBroken
  deriving DecidableEq, Repr

/-- Why the model gives no meaning. -/
inductive Refusal where
  /-- Raised by an arm of `exec` that has no meaning yet. Safe. -/
  | notModelled (mnemonic : String)
  deriving DecidableEq, Repr

/-! ## Paths -/

/-- A pinned loop's remaining count and bounds (R116). -/
structure LoopSt where
  rem : Nat
  head : DWord
  last : DWord
  deriving DecidableEq, Repr

/-- What a path waits for. -/
inductive Wait where
  | none
  /-- SLEEP: cycles left (R120) -/
  | sleep (n : Nat)
  /-- the pending operation that holds the path: a walk, TDEF, TREESET, a task form, BARW, RLXBEG, RLXEND,
  STEPMK, CRED -/
  | op (id : Nat)
  deriving DecidableEq, Repr

/-- A path: R24, and the state that belongs to a path by R56, R62, R115, R116, R191, R402, R403. -/
structure Path where
  pc : DWord
  mask : Mask
  depth : Nat := 0
  /-- waiting at JOIN -/
  jw : Bool := false
  /-- resident flag -/
  res : Bool := false
  /-- cycles until the next issue; none when nothing holds the path (R56) -/
  hold : Option Nat := Option.none
  wait : Wait := .none
  /-- repetitions left of the instruction at pc (R115) -/
  rep : Option Nat := Option.none
  loop : Option LoopSt := Option.none
  stopped : Bool := false
  /-- STEP: stop again after one instruction -/
  oneStep : Bool := false
  /-- no issue yet since the path arrived at pc (R402) -/
  arr : Bool := true
  /-- abort target of the path's transactions (R191) -/
  abortTo : DWord := 0
  /-- a line that failed parity was fetched again (R49) -/
  refetch : Bool := false
  /-- waits for a line that the instruction cache lacks (R393) -/
  miss : Bool := false
  /-- consecutive issues of the wave that passed this path over (R43) -/
  passed : Nat := 0
  /-- stall reason noted in this cycle (R35) -/
  blk : Option Nat := Option.none
  /-- the first operation number after an OPRFENCE at pc became ready to issue (R266) -/
  fence : Option Nat := Option.none
  /-- a pass or the end of a region has let the path go, and it has not issued since (R316) -/
  pass : Bool := false
  deriving DecidableEq, Repr

/-- A spilled path with the slot it was spilled from (R33). -/
structure Spilled where
  path : Path
  slot : Nat
  /-- program counter that the entry in memory records -/
  pc : DWord
  deriving DecidableEq, Repr

/-! ## Places -/

/-- Where bytes of an access lie. -/
inductive Place where
  /-- byte of a team's scratchpad -/
  | scr (team off : Nat)
  /-- byte of lane `l` of vN of a wave -/
  | reg (wave n l byte : Nat)
  /-- global virtual address -/
  | glob (va : Nat)
  /-- physical address with its memory type and key slot -/
  | phys (pa mt key : Nat)
  deriving DecidableEq, Repr

/-- Consecutive bytes at one place. -/
structure Seg where
  place : Place
  len : Nat
  deriving DecidableEq, Repr

/-! ## Registers of a wave -/

/-- The register files of a wave (Table 6-1) with poison (R67). A poisoned vector lane or uniform register
holds the low 32 bits of its origin. -/
structure Regs where
  /-- vN lane l at key 32 N + l -/
  v : Tab Word := []
  /-- poisoned lanes of vN -/
  vP : Tab Mask := []
  s : Tab DWord := []
  /-- bit N: sN is poisoned -/
  sP : DWord := 0
  /-- lanes in which pk is set, k below 7 -/
  p : Tab Mask := []
  pP : Tab Mask := []
  pO : Tab Word := []
  h : Tab HWord := []
  deriving DecidableEq, Repr

/-- A result that may not be read yet (R57, R61). -/
structure Hazard where
  reg : OneReg
  lanes : Mask
  /-- first cycle of a correct read, of a fixed-class result -/
  readyAt : Option Nat := none
  /-- the pending variable-class operation -/
  op : Option Nat := none
  /-- counters whose wait ends the hazard -/
  ctrs : List Nat := []
  opc : Nat := 0
  pc : DWord := 0
  /-- overwritten before the wait: the final value is undefined (R61) -/
  clobbered : Bool := false
  deriving DecidableEq, Repr

/-- Transaction state of one lane (R191, Table 12-7). -/
structure TxLane where
  active : Bool := false
  doomed : Bool := false
  /-- lines read and written, by physical line -/
  reads : List Nat := []
  lines : List Nat := []
  /-- key slot of each line's mapping -/
  keys : Tab Nat := []
  /-- bytes read from memory, as read -/
  seen : Tab Byte := []
  /-- two reads of one byte have returned different values: no commit can hold both (R194, R224) -/
  torn : Bool := false
  /-- buffered writes, by physical address -/
  buf : Tab Byte := []
  code : Nat := 0
  cause : Nat := 0
  /-- operation number of its TXBEGIN -/
  born : Nat := 0
  deriving DecidableEq, Repr

/-- A stream of a relaxation configuration (R317). -/
structure Stream where
  reg : Nat
  base : DWord
  stride : BitVec 16
  pois : Bool
  deriving DecidableEq, Repr

/-- Relaxation configuration of a wave (R317); the `pois` fields are the parts' poison bits. -/
structure RlxCfg where
  dense : Bool := false
  src : Nat := 0
  cluster : Bool := false
  t : Word := 0
  tPois : Bool := false
  limit : Word := 0
  limitPois : Bool := false
  tolabs : Word := 0
  tolabsPois : Bool := false
  tolrel : Word := 0
  tolrelPois : Bool := false
  ranges : List RegRange := []
  streams : List Stream := []
  area : Option DWord := none
  areaPois : Bool := false
  deriving DecidableEq, Repr

/-- Relaxation result registers (Table 22-1). -/
structure RlxRegs where
  code : Nat := 0
  srcUsed : Nat := 0
  settled : Nat := 0
  passes : Nat := 0
  resid : Word := 0
  deriving DecidableEq, Repr

/-- Gauge generator context (R353). -/
structure GaugeCtx where
  n : Word := 0
  gen : Nat := 0
  seed : DWord := 0
  a : Word := 0
  c : Word := 0
  deriving DecidableEq, Repr

/-- A precise fault that a wave has taken and that is not yet delivered (R396, R397, Table 28-2). -/
structure FaultRec where
  code : Nat
  pc : DWord
  addr : DWord := 0
  mask : Mask := 0
  extra : DWord := 0
  origin : DWord := 0
  slot : Nat := 0
  /-- path-table index of the faulting path -/
  path : Nat := 0
  rlx : Bool := false
  /-- taken after issue (R458) -/
  late : Bool := false
  /-- c0-c5 at the fault -/
  ctrs : Tab Nat := []
  /-- loop state of slots 0 and 1 at the fault (R116) -/
  loops : List (Option LoopSt) := []
  /-- effects that a span-ending form had made before a pre-emption, as the wave held them at the fault (R190, R400) -/
  made : Option (DWord × List DWord) := none
  /-- whether slots 0 and 1 were stopped (R403) -/
  stops : List Bool := []
  /-- cycle of the fault -/
  at_ : Nat := 0
  deriving DecidableEq, Repr

/-- Fault state of a wave (R396-R399). -/
structure TrapSt where
  tvec : DWord := 0
  inHandler : Bool := false
  /-- pending fault -/
  pend : Option FaultRec := none
  /-- the fault whose record the handler sees -/
  handled : Option FaultRec := none
  /-- stopped in state faulted; true when the record is written -/
  faulted : Option Bool := none
  /-- a GO was given to the stopped wave: it returns from its record when nothing of it is pending (R396, R399) -/
  going : Bool := false
  /-- a record has restored paths that break R24 to R30 (R399) -/
  broken : Bool := false
  /-- code of the fault that stopped the wave -/
  own : Nat := 0
  /-- stack entries below the handler's floor -/
  floor : Nat := 0
  deriving DecidableEq, Repr

/-- What the span head recorded (Table 6-5; R213, R317, R353). -/
structure Ckpt where
  slot0 : Option Path
  slot1 : Option Path
  stack : List Spilled
  ws : List RegRange
  /-- the four pairs of the SPAN, empty ones too -/
  pairs : List RegRange
  regs : Regs
  storeSum : DWord
  rlx : RlxCfg
  gctx : GaugeCtx
  /-- operations issued before the span head -/
  opsBefore : Nat
  deriving DecidableEq, Repr

/-- Span state (R39, R41). -/
structure SpanSt where
  isOpen : Bool := false
  ckpt : Option Ckpt := none
  /-- the operation of the form that ended the span, while nothing has issued after it -/
  ender : Option Nat := none
  /-- a late result has reached the checkpoint and not yet its image in memory -/
  stale : Bool := false
  deriving DecidableEq, Repr

/-- Why a wave is to be taken off (R41, R389, R400). -/
inductive PreKind where
  | repack
  | switch
  deriving DecidableEq, Repr

/-- What happens before an event: of each wave, its events up to a value of `State.stamp`, on some bytes; on every byte when
`on` is none (R219-R221). -/
structure Heard where
  on : Option (List Seg) := none
  clock : Tab Nat := []
  deriving DecidableEq, Repr

/-- A wave. -/
structure Wave where
  launch : Nat
  team : Nat
  /-- sys.wave -/
  ix : Nat
  die : Nat
  core : Nat
  wslot : Nat
  priv : Bool := false
  /-- lanes that are not permanently inactive (R18) -/
  live : Mask
  retired : Mask := 0
  regs : Regs := {}
  /-- c0-c5 -/
  c : Tab Nat := []
  /-- (counter, cycle) of decrements due (R60) -/
  due : List (Nat × Nat) := []
  /-- (handle register, operation) of pending writes (R360) -/
  hBusy : List (Nat × Nat) := []
  slot0 : Option Path := none
  slot1 : Option Path := none
  /-- top first -/
  stack : List Spilled := []
  ws : List RegRange := []
  span : SpanSt := {}
  preempt : Option PreKind := none
  /-- taken off the core by a pre-emption and not yet restarted -/
  off : Bool := false
  /-- taken off in a wait of an unspanned stretch: it resumes that wait (R400) -/
  frozen : Bool := false
  haz : List Hazard := []
  /-- lanes of a register that a relaxation body is to write before it reads it: vN at key N, pk at key 256 + k
  (R297) -/
  unset : Tab Mask := []
  tx : Tab TxLane := []
  /-- done mask and old values, and the atomic that they belong to (R190) -/
  done : Mask := 0
  olds : Tab DWord := []
  doneOf : Option Nat := none
  storeSum : DWord := 0
  rlx : RlxCfg := {}
  rlxRegs : RlxRegs := {}
  /-- live region -/
  region : Option Nat := none
  gctx : GaugeCtx := {}
  trap : TrapSt := {}
  trace : Bool := false
  stalls : Tab Nat := []
  passed : Nat := 0
  overdue : Bool := false
  age : Nat := 0
  stepN : Nat := 0
  credN : Nat := 0
  /-- value of `State.stamp` at the wave's latest OPRFENCE, and what happened before that fence (R237, R266) -/
  oprStamp : Nat := 0
  oprSeen : List Heard := []
  /-- what of other waves happens before the wave's next event (R218) -/
  seen : List Heard := []
  /-- its latest FENCE, as `State.fences` numbers them, and the FENCEs of other waves that precede writes that it has read (R221) -/
  lastFence : Option Nat := none
  metFences : List Nat := []
  /-- effects that a span-ending form made before a pre-emption: the address of the form, and what a barrier's
  wait holds (R190, R400) -/
  barDone : Option (DWord × List DWord) := none
  /-- the barrier of a wait that `barDone` holds (R207) -/
  madeBar : Option Nat := none
  /-- operations whose fault-queue entries park the wave (R154) -/
  parked : List Nat := []
  /-- sent no first line yet: deterministic first owner (R387) -/
  fresh : Bool := true
  /-- slot whose second instruction of a pair may issue in this cycle (R63) -/
  pair : Option Nat := none
  /-- issued in this cycle -/
  issuedNow : Bool := false
  /-- slot whose path has the turn in deterministic mode (R44) -/
  turn : Nat := 0
  deriving DecidableEq, Repr

/-! ## Pending operations -/

/-- A register result: lanes, values and the lanes that receive poison with their origins. A uniform
register uses lane 0. -/
structure RegWrite where
  reg : OneReg
  mask : Mask
  vals : Tab DWord := []
  pois : Mask := 0
  orig : Tab Word := []
  deriving DecidableEq, Repr

/-- A tensor identifier entry (Table 17-1). -/
structure Tensor where
  fmt : Nat
  ndim : Nat
  sgran : Nat
  filt : Bool
  dims : List Nat
  /-- STRIDE1 to STRIDE4 -/
  strides : List Nat
  sbase : DWord
  base : DWord
  deriving DecidableEq, Repr

/-- An entry of the bind table (R200). -/
structure BindEntry where
  kind : Nat
  obj : HWord
  start : DWord
  len : Nat
  deriving DecidableEq, Repr

/-- A pending operation: an instruction that has issued and not completed, with what it captured. -/
structure Op where
  wave : Nat
  slot : Nat
  pc : DWord
  instr : Instr
  /-- counter named; 7 for none -/
  ctr : Nat
  /-- executing lanes at issue -/
  mask : Mask
  /-- lanes that are to perform -/
  todo : Mask := 0
  /-- lanes that met a retry response (R222) -/
  retry : Mask := 0
  /-- lanes held by the replay gate since the cycle (R215) -/
  gated : Tab Nat := []
  /-- generic address of each lane -/
  addrs : Tab DWord := []
  /-- data words of each lane, least significant first -/
  data : Tab (List Word) := []
  /-- places of each lane -/
  segs : Tab (List Seg) := []
  /-- uniform values captured at issue -/
  u : List DWord := []
  tens : List Tensor := []
  /-- register results that completion writes -/
  writes : List RegWrite := []
  /-- the translations are made -/
  walked : Bool := true
  /-- the path waits for the first walk (R163) -/
  holding : Bool := false
  /-- the operation has done everything but its register and counter effects -/
  finished : Bool := false
  /-- a completion record is pending (R252) -/
  record : Option HWord := none
  /-- operations of the wave that it had not seen complete at issue (R237) -/
  unseen : List Nat := []
  /-- order of completion of a command whose record is pending (R252) -/
  seqDone : Nat := 0
  /-- cycle of issue -/
  at_ : Nat := 0
  /-- the wave's OPRFENCE at issue: its stamp, and what happened before it (R237) -/
  stamp : Nat := 0
  opr : List Heard := []
  /-- what happened before the issue (R218), and the wave's latest FENCE then (R221) -/
  hb : List Heard := []
  fence : Option Nat := none
  /-- step of the region in each lane, for a body access -/
  steps : Tab Nat := []
  /-- held stores of the step when a body load issued, by lane (R309) -/
  before : Tab Nat := []
  /-- the team's bind table when a release issued (R203) -/
  binds : List BindEntry := []
  /-- the form's destinations, for what its issue still owes the wave's other results -/
  dests : List RegWrite := []
  /-- the form may yet take a fault at its instruction: what its issue does to the wave's span and to earlier results is
  not done (R163) -/
  owed : Bool := false
  /-- tangents that completion writes, as `Region.tans` keys them (R150, R298) -/
  tans : List (Nat × Word) := []
  /-- accesses that race with this pending command: the bytes are undefined (R226, R237) -/
  raced : List Seg := []
  /-- destinations of commands that the wave of this command had no order with at issue (R226, R281) -/
  stale : List Seg := []
  /-- bytes that an ENQ has written, as `bodyKey` names them, with the lane (R182) -/
  wrote : Tab Nat := []
  /-- bytes of a load that were read before the others, by 64 lane + byte (R219) -/
  got : Tab Byte := []
  /-- its SCOPE record is written (R408) -/
  scopeSaid : Bool := false
  /-- of a ring form: registers of an element beyond the first that the issue may not read, or overwrite, yet, with the cause
  and the producer (R65) -/
  early : List (OneReg × Nat × DWord) := []
  deriving DecidableEq, Repr

/-! ## Memory system -/

/-- An L1 line: the bytes held and which of them are dirty, by offset. -/
structure L1Line where
  data : Memory := []
  dirty : List Nat := []
  /-- key slot of the mapping that filled the line -/
  key : Nat := 0
  deriving DecidableEq, Repr

/-- A pinned line (R222). -/
structure Pin where
  team : Nat
  core : Nat
  deriving DecidableEq, Repr

/-- The mapping under which a line of module memory is held (R177, R451). -/
structure LineKey where
  key : Nat
  /-- load of the key slot -/
  gen : Nat
  /-- reached through mappings with different KEY values -/
  mixed : Bool := false
  /-- the bytes written since the slot was loaded anew; none when the whole line is of this load -/
  since : Option (List Nat) := none
  deriving DecidableEq, Repr

/-- Loads of a key slot that wait for what was translated through it (R451). -/
structure KeyPend where
  /-- operations with the lanes that were translated -/
  ops : List (Nat × Mask) := []
  /-- regions that hold stores, by `Region.born` (R308) -/
  regions : List Nat := []
  /-- transactions that buffer writes: wave, lane, `TxLane.born` -/
  txs : List (Nat × Nat × Nat) := []
  /-- the replies owed, by die -/
  replies : List (Nat × HWord) := []
  deriving DecidableEq, Repr

/-- A key slot (R177, R451): loaded, and how many loads it has had. -/
structure KeySlot where
  loaded : Bool := false
  gen : Nat := 0
  /-- a KEYLOAD not yet in effect -/
  pend : Option KeyPend := none
  deriving DecidableEq, Repr

/-- A release on an object: its wave, its scope, and what happened before it (R220). -/
structure Released where
  wave : Nat
  scope : Nat
  seen : List Heard
  deriving DecidableEq, Repr

/-- A command of a launch that is resident: what it writes and reads, and the waves that have seen it complete or taken its record,
each with `State.stamp` then (R226). -/
structure CmdMem where
  wave : Nat
  dest : List Seg
  src : List Seg
  known : Tab Nat := []
  deriving DecidableEq, Repr

/-- A sequence of a key/value pool that a program has taken (R284): the wave, `State.stamp` at its FENCE after that, and the places
reached since its latest FENCE. -/
structure SeqHold where
  wave : Nat
  fenced : Option Nat := none
  touched : List Seg := []
  deriving DecidableEq, Repr

/-- The last release of a line (R408). -/
structure RelInfo where
  scope : Nat
  team : Nat
  wave : Nat
  deriving DecidableEq, Repr

/-- A fault-queue entry (Table 10-2) with the operation it holds. -/
structure FqEntry where
  va : DWord
  pc : DWord
  mask : Mask
  /-- sequence number; none while it waits for ring room (R155) -/
  seq : Option (BitVec 16) := none
  gen : BitVec 16
  asid : Nat
  cause : Nat
  kind : Nat
  path : Nat
  wslot : Nat
  core : Nat
  team : Nat
  wave : Nat
  /-- the operation; none for an access of the hardware itself, which is made anew -/
  op : Option Nat
  deriving DecidableEq, Repr

/-- A cached translation (R173): the leaf entry with its page size. -/
structure TlbEntry where
  asid : Nat
  gen : BitVec 16
  page : Nat
  bits : Nat
  leaf : DWord
  deriving DecidableEq, Repr

/-- A raise of GEN not yet drained (R174). -/
structure AsgenPend where
  asid : Nat
  /-- operations translated under the older number, with the lanes that were -/
  ops : List (Nat × Mask)
  op : Option Nat
  wrapped : Bool
  /-- regions that hold stores, by `Region.born` (R308) -/
  regions : List Nat := []
  /-- transactions that buffer writes: wave, lane, `TxLane.born` -/
  txs : List (Nat × Nat × Nat) := []
  deriving DecidableEq, Repr

/-! ## Teams -/

/-- A named barrier (R206). -/
structure Barrier where
  enrolled : List Nat := []
  phase : Nat := 0
  arrived : List Nat := []
  broken : Bool := false
  /-- wave with its pending flag's phase -/
  pending : Tab Nat := []
  /-- what happened before the arrivals of the current phase, and of the phases that are complete (R203, R220) -/
  coming : List Heard := []
  passed : List Heard := []
  deriving DecidableEq, Repr

/-- Who wrote a byte, a row or a slot last: wave, operation, `State.stamp`, and the latest FENCE before the write (R221, R237). -/
structure Writer where
  wave : Nat
  op : Nat
  stamp : Nat
  fence : Option Nat := none
  /-- the write was made by HSTM (R349) -/
  handle : Bool := false
  deriving DecidableEq, Repr

/-- An accumulator tile (R242, R244). A cell that is not listed holds `seed`'s free value when there is a
seed, else 0. -/
structure Acc where
  holder : Option Nat := none
  seed : Option Nat := none
  cells : Tab Word := []
  writers : Tab Writer := []
  /-- blocking requests: operations -/
  waiters : List Nat := []
  /-- the holder has freed the tile; commands in flight still name it -/
  freeing : Bool := false
  deriving DecidableEq, Repr

/-- A weight slot (R245, R267): bytes 0-0x3FFF the elements, 0x4000-0x4FFF the metadata, 0x5000-0x5007 the
scales. -/
structure WSlot where
  /-- 0 none, 1 dense, 2 sparse, 3 H16, 4 I8 -/
  tag : Nat := 0
  bytes : Memory := []
  writer : Option Writer := none
  lastTeam : Option Nat := none
  /-- two resident teams have loaded the slot: its contents are undefined (R245) -/
  lost : Bool := false
  /-- teams that have loaded the slot -/
  teams : List Nat := []
  deriving DecidableEq, Repr

/-- A node of a topology table (R417). -/
structure TopoNode where
  parent : Nat
  leaf : Bool
  thread : Nat
  deriving DecidableEq, Repr

/-- One instance of CRED (R419): arrivals, and the operation of each. -/
structure CredInst where
  arrived : List Nat := []
  ops : List (Nat × COp × CTy) := []
  /-- contribution of each thread -/
  leaves : Tab Word := []
  /-- the root, once the instance is complete -/
  root : Option Word := none
  deriving DecidableEq, Repr

/-- A team. -/
structure Team where
  launch : Nat
  cluster : Nat
  /-- logical team index (R19) -/
  lti : Nat
  die : Nat
  core : Nat
  waves : Nat
  /-- register block base slot; none while it is taken off the core -/
  base : Option Nat
  /-- scratchpad granules in allocation order -/
  gran : List Nat
  bars : Nat
  begun : Bool := false
  scr : Memory := []
  writers : Tab Writer := []
  barriers : Tab Barrier := []
  binds : List BindEntry := []
  /-- event queue, oldest first -/
  events : List HWord := []
  /-- the command of each record of the queue -/
  evOps : List Nat := []
  topo : Option (List TopoNode) := none
  creds : Tab CredInst := []
  /-- waves that have exited and waves that were killed -/
  exited : List Nat := []
  killed : List Nat := []
  /-- registers of waves that have ended, by sys.wave, while the team's block stands (R88) -/
  past : Tab Regs := []
  /-- their lanes that are not permanently inactive (R18) -/
  pastLive : Tab Mask := []
  /-- records in the event queue when this cycle began that no wave has taken in it (R275) -/
  evReady : Nat := 0
  /-- logical wave index of the last wave that took a record in this cycle (R275) -/
  evLast : Option Nat := none
  storageErrs : Nat := 0
  storageCode : Nat := 0
  storagePlace : DWord := 0
  storagePc : DWord := 0
  softErrs : Nat := 0
  clkFirst : DWord := 0
  clkLast : DWord := 0
  /-- header of the team record written -/
  recDone : Bool := false
  /-- every team's granules freed -/
  freed : Bool := false
  /-- switched out (R400) -/
  out : Bool := false
  /-- accumulator tiles and weight slots saved while the team is switched out -/
  accs : Tab Acc := []
  wslots : Tab WSlot := []
  age : Nat := 0
  deriving DecidableEq, Repr

/-! ## Launches -/

/-- A stage descriptor (Table 27-2). -/
structure Stage where
  bars : Nat
  gran : Nat
  threads : Nat
  entry : DWord
  deriving DecidableEq, Repr

/-- The launch record's header as read at queueing (Table 27-1). -/
structure LaunchRec where
  cring : DWord := 0
  log : DWord := 0
  dump : DWord := 0
  estb : DWord := 0
  sb : DWord := 0
  args : List DWord := []
  dumpsz : Nat := 0
  g : Nat := 1
  dep0 : Nat := 0
  dep1 : Nat := 0
  lid : Nat := 0
  dept0 : Nat := 0
  dept1 : Nat := 0
  stagger : Nat := 0
  lstk : Nat := 0
  asid : Nat := 0
  v : Nat := 8
  s : Nat := 1
  n : Nat := 1
  opp : Nat := 0
  dmax : Nat := 1
  dmin : Nat := 1
  fact : Nat := 0
  rrmode : Nat := 0
  scb : Bool := false
  det : Bool := false
  prio : Nat := 0
  stages : List Stage := []
  deriving DecidableEq, Repr

/-- An estimation block (Table 23-1). -/
structure EstBlock where
  result : DWord
  tolrel : DWord
  tol : DWord
  z : DWord
  c : Word
  a : Word
  gen : Nat
  stride : Nat
  nmin : Nat
  n : Nat
  seed : DWord
  deriving DecidableEq, Repr

/-- Where a launch stands. -/
inductive LaunchSt where
  | queued | eligible | running | done
  deriving DecidableEq, Repr

/-- A chunk of a unit's atomics (R211, R214): logical wave index and run count. -/
structure Chunk where
  wave : Nat
  run : Nat
  deriving DecidableEq, Repr

/-- Record-and-replay state of a launch (R210-R215). -/
structure RR where
  /-- open chunk of each unit, or the chunks still to come in replay -/
  chunks : Tab (List Chunk) := []
  count : Nat := 0
  limit : Nat := 0
  ovf : Bool := false
  hash : DWord := 0
  logHash : DWord := 0
  cause : Option Nat := none
  deriving DecidableEq, Repr

/-- A halt of a launch (R370, R371) and a dump in progress. -/
structure HaltSt where
  complete : Bool := false
  /-- the cycle from which it is in effect (R369, R424) -/
  since : Nat := 0
  /-- a fault's dump is owed: wave and fault -/
  dump : Option (Nat × FaultRec) := none
  /-- the launch ends when the halt is complete, by a divergence (R215) -/
  diverge : Bool := false
  deriving DecidableEq, Repr

/-- A store of a killed wave's counters or of its team's header that has not been made yet (R410). -/
structure OwedRec where
  die : Nat
  addr : DWord
  bytes : List Byte
  /-- the entry of the fault queue that tells of its page -/
  entry : Nat
  deriving DecidableEq, Repr

/-- A launch. -/
structure Launch where
  home : Nat
  qseq : Nat
  /-- order of queueing over all dies (R380) -/
  order : Nat := 0
  /-- operations on the task table that the launch's end still owes, in order: k + 0x4000 a TKDONE of entry k, k the decrement
  of a successor (R254, R381) -/
  tasks : List Nat := []
  /-- refusal status and DETAIL of a launch that never entered the queue (R378) -/
  refused : Option (Nat × Nat) := none
  hdr : LaunchRec
  est : Option EstBlock := none
  /-- its waves are privileged (R411) -/
  priv : Bool := false
  /-- OPP may be honoured (R390) -/
  oppOk : Bool := false
  st : LaunchSt := .queued
  /-- dies bound, ascending, and the active share count D (R391) -/
  dieList : List Nat := []
  d : Nat := 0
  /-- shares withdrawn at a boundary, and shares dispatched -/
  withdrawn : List Nat := []
  boundary : Nat := 0
  /-- clusters dispatched -/
  dispatched : List Nat := []
  rr : RR := {}
  halt : Option HaltSt := none
  aborted : Option Nat := none
  faultCode : Nat := 0
  storage : Bool := false
  resultCode : Nat := 0
  dumpFailed : Bool := false
  /-- team records of killed waves that wait for their pages (R410) -/
  owes : List OwedRec := []
  /-- what happens before every event of its waves (R382, R388, R412) -/
  seen : List Heard := []
  tkdone : Bool := false
  owed : Bool := false
  detail : Nat := 0
  deriving DecidableEq, Repr

/-! ## Dies and cores -/

/-- A task table entry (Table 17-6). -/
structure Task where
  arg : DWord := 0
  succ : List Nat := [0x3FFF, 0x3FFF, 0x3FFF, 0x3FFF]
  count : Nat := 0
  asid : Nat := 0
  ty : Nat := 0
  /-- 0 FREE, 1 WAITING, 2 READY, 3 TAKEN -/
  st : Nat := 0
  prio : Nat := 0
  under : Bool := false
  deriving DecidableEq, Repr

/-- Where a fill handle lives (R343, R344). -/
inductive FillLoc where
  | reg (wave n : Nat)
  | slot (pa : Nat)
  | flight (op : Nat)
  | away (port : Nat)
  | lost
  deriving DecidableEq, Repr

/-- A basin table entry (R343). -/
structure Tile where
  /-- 0 FREE, 1 OPEN, 2 SEALED, 3 ABANDONED -/
  st : Nat := 0
  gen : Nat := 0
  asid : Nat := 0
  size : Nat := 0
  sees : Nat := 0
  fill : FillLoc := .lost
  /-- see handles sent beyond each port -/
  away : Tab Nat := []
  bytes : Memory := []
  deriving DecidableEq, Repr

/-- The Gauge unit of a die (R331, R337-R342). -/
structure GaugeUnit where
  launch : Option Nat := none
  c : Nat := 0
  mean : DWord := 0
  m2 : DWord := 0
  hw : Option DWord := none
  low : Nat := 0
  /-- samples waiting, by rank -/
  window : Tab DWord := []
  /-- ranks closed without a sample and not yet passed -/
  closed : List Nat := []
  /-- ranks below `low` that were merged with a sample -/
  merged : List Nat := []
  /-- ranks whose GADD has been taken -/
  taken : List Nat := []
  /-- 0 MERGING, 1 STOPPED, 2 EXHAUSTED -/
  st : Nat := 0
  nstop : Nat := 0xFFFFFFFF
  deriving DecidableEq, Repr

/-- A bind record in the slot table (Table 27-5) with its dispatch cursors. -/
structure BindRec where
  valid : Bool := false
  det : Bool := false
  prio : Nat := 0
  dielo : Nat := 0
  diehi : Nat := 0
  wpc : Nat := 0
  qidx : Nat := 0
  stagger : Nat := 0
  clfirst : Nat := 0
  cllast : Nat := 0
  cores : BitVec 128 := 0
  launch : Nat := 0
  next : Nat := 0
  last : Option Nat := none
  /-- teams dispatched that have made no first issue, in dispatch order -/
  waiting : List Nat := []
  lastFirst : Option Nat := none
  fragSince : Option Nat := none
  fragSent : Bool := false
  deriving DecidableEq, Repr

/-- A registered key/value pool (R282, R285). -/
structure Pool where
  asid : Nat
  block : DWord
  /-- sequences of the order of R285 already visited at this EVICT level -/
  cursor : Nat := 0
  /-- record whose STATE the firmware has taken, and the value that it set -/
  busy : Option (Nat × Nat) := none
  deriving DecidableEq, Repr

/-- A comparator (R402, Table 28-4). -/
structure Comparator where
  addr : DWord := 0
  ctl : Word := 0
  seen : Nat := 0
  deriving DecidableEq, Repr

/-- Trace registers and stream state of a die (Table 28-4, R404, R406). -/
structure TraceSt where
  base : DWord := 0
  head : Word := 0
  tail : Word := 0
  ctl : Word := 0
  dropped : Nat := 0
  /-- waves whose next record is preceded by a SYNC group -/
  resync : List Nat := []
  sinceSync : Nat := 0
  deriving DecidableEq, Repr

/-- A fault completion that is written and not applied (R156): its sequence number, the SYSW that wrote it, and the cycle. -/
structure Ack where
  seq : BitVec 16
  op : Option Nat := none
  at_ : Nat := 0
  deriving DecidableEq, Repr

/-- One compute die. -/
structure Die where
  astbase : DWord := 0
  fqbase : DWord := 0
  fqhead : BitVec 16 := 0
  fqtail : BitVec 16 := 0
  /-- entries pending, written or waiting for room, oldest first -/
  fq : List FqEntry := []
  /-- completions written and not applied, oldest first -/
  acks : List Ack := []
  tlb : List TlbEntry := []
  trace : TraceSt := {}
  cmps : Tab Comparator := []
  qnext : Nat := 0
  slots : Tab BindRec := []
  tasks : Tab Task := []
  /-- FENCEs before the operations on each task entry (R278) -/
  taskFences : Tab (List Nat) := []
  tiles : Tab Tile := []
  poolUsed : Nat := 0
  gauge : GaugeUnit := {}
  opp : Nat := 1
  oppPend : Option Nat := none
  pool : Option Pool := none
  priv : Bool := false
  rings : Nat × Nat × Nat := (0, 0, 0)
  /-- teams that wait to be placed again after a repack -/
  repacking : List Nat := []
  /-- SYSWs that ordered a repack and wait for its end: team and operation (R389, R421) -/
  repackOps : List (Nat × Nat) := []
  /-- teams placed again, or restored, whose waves restart when their granules have left DRAIN -/
  replaced : List Nat := []
  /-- replies that wait for room on the reply ring, oldest first -/
  replies : List HWord := []
  deriving DecidableEq, Repr

/-- States of a granule (R82). -/
inductive Gran where
  | cache | drain | reg (team : Nat) | scr (team : Nat)
  deriving DecidableEq, Repr

/-- One core. Granules that are not listed are in CACHE. -/
structure Core where
  grans : Tab Gran := []
  /-- what a draining granule becomes -/
  drains : Tab Gran := []
  l1 : Tab L1Line := []
  accs : Tab Acc := []
  wslots : Tab WSlot := []
  owner : Option Nat := none
  slow : Nat := 0
  clkBase : Nat := 0
  /-- barrier slots in use -/
  barUsed : Nat := 0
  /-- commands of the quantiser in issue order -/
  qnts : List Nat := []
  /-- quarters that have issued in this cycle -/
  quarters : List Nat := []
  /-- quarters whose last issue carried the yield hint (R43) -/
  yields : List Nat := []
  deriving DecidableEq, Repr

/-! ## Relaxation regions -/

/-- A held store of a step (R308). -/
structure HeldStore where
  wave : Nat
  /-- generic address, for the store sum (R213) -/
  addr : DWord
  segs : List Seg
  bytes : List Byte
  deriving DecidableEq, Repr

/-- One step's evaluation in the current pass. -/
structure StepEval where
  y : List Word := []
  /-- tangents of the results, one row per component -/
  j : List (List Word) := []
  held : List HeldStore := []
  /-- physical bytes loaded and the number of held stores that preceded each -/
  loads : List (Nat × Nat) := []
  arrived : Bool := false
  deriving DecidableEq, Repr

/-- A participant wave of a region. -/
structure Participant where
  wave : Nat
  /-- path as it stood at RLXBEG, and the address of RLXBEG -/
  start : Path
  begPc : DWord
  begCtl : Ctl
  stack : List Spilled
  /-- evaluation number within the pass -/
  eval : Nat := 0
  /-- lanes of the current evaluation that have arrived -/
  arrived : Mask := 0
  done : Bool := false
  /-- address and control fields of RLXEND -/
  endPc : DWord := 0
  endCtl : Ctl
  /-- registers that the body writes (R297) -/
  sets : List OneReg := []
  deriving DecidableEq, Repr

/-- A live region (R291-R313). -/
structure Region where
  parts : List Participant
  cfg : RlxCfg
  tSteps : Nat
  limit : Nat
  c : Nat
  pass : Nat := 1
  settled : Nat := 0
  x0 : List Word := []
  /-- g(t) component c at key C t + c, for t from 0, with g(0) = x(0) -/
  guess : Tab Word := []
  /-- element of step t of stream i at key 8 t + i -/
  elems : Tab Word := []
  evals : Tab StepEval := []
  resids : List Word := []
  /-- memory, and the scratchpad of each team, as they stood at the region's start -/
  mem : Memory := []
  scr : Tab Memory := []
  /-- tangents: wave, then key (256 lane + reg) * 8 + component -/
  tans : Tab (Tab Word) := []
  srcUsed : Nat := 0
  /-- a body page fault has struck: the region restarts when its entries are completed -/
  restart : Bool := false
  /-- bytes that the body loaded or stored in an earlier pass, as `bodyKey` names them (R306) -/
  touched : List Nat := []
  /-- the next operation number when it began -/
  born : Nat := 0
  deriving DecidableEq, Repr

/-! ## The module -/

/-- A bad word (R255): an uncorrectable error that the next read meets. -/
inductive Defect where
  | acc (core tile row : Nat)
  | slot (core slot : Nat)
  | stage (core elem : Nat)
  | scr (team off : Nat)
  | line (pa : Nat)
  deriving DecidableEq, Repr

/-- An event sent to a Reeve core or to system software. -/
inductive SysEvent where
  | fault (die : Nat) (seq : BitVec 16)
  | under (die index : Nat)
  | fragmentation (die slot cluster polder : Nat)
  | storage (die team : Nat)
  | faulted (wave : Nat) (written : Bool)
  | halted (launch : Nat)
  | portDown (port : Nat)
  | breach (sensor : Nat)
  | swapFault (die : Nat)
  deriving DecidableEq, Repr

/-- What moves next (log entry 1). -/
inductive Pick where
  /-- the path in this slot of this wave issues -/
  | issue (wave slot : Nat)
  /-- a step without an encoding -/
  | ev (i : Instr)
  /-- a cycle of the arithmetic clock ends -/
  | tick
  /-- a core's L1 writes a line back and drops it (R165) -/
  | evict (core line : Nat)
  /-- a core's L1 writes one dirty byte back and keeps the line (R219) -/
  | back (core pa : Nat)
  /-- a core's L1 brings a line in (R165) -/
  | fill (core key line : Nat)
  /-- the n-th block that an IPREF asked for arrives (R121) -/
  | ifetch (n : Nat)
  /-- one byte of a lane's load is read, before the lane's other bytes (R219) -/
  | sample (op lane byte : Nat)
  /-- an instruction cache block is dropped -/
  | drop (polder block : Nat)
  /-- a die drops its n-th cached translation (R173) -/
  | untlb (die n : Nat)
  /-- a bad word arises (R255) -/
  | defect (d : Defect)
  /-- an error in a team's matrix work that correction repairs (R255) -/
  | soft (team : Nat)
  /-- firmware frees a task entry that a killed wave left TAKEN (R254) -/
  | freeTask (die index : Nat)
  /-- the host writes a byte of host memory, or software of a Reeve core one of module memory, which the host cannot reach (R175,
  R443) -/
  | poke (pa : Nat) (b : Byte)
  /-- the host writes hx.fwimg (0), hx.cfgimg (1) or hx.retain (2) -/
  | hx (reg : Nat) (x : DWord)
  deriving DecidableEq, Repr

/-- Start-up state (Table 31-1, R446-R457). -/
structure Boot where
  fwimg : DWord := 0
  cfgimg : DWord := 0
  retain : DWord := 0
  stage : Nat := 0
  wfail : Nat := 0
  st : Nat := 0
  /-- 0 none, 1 cold, 2 warm -/
  mode : Nat := 0
  fwDigest : BitVec 512 := 0
  cfgDigest : BitVec 512 := 0
  policy : Nat := 0
  poolBase : Nat := 0
  poolPages : Nat := 0
  poolSlot : Nat := 0
  /-- modules reachable on each peer port, the peer itself first (R448) -/
  peers : List (List (BitVec 48)) := []
  derivOff : Bool := false
  stopped : Bool := false
  hostLanes : Nat := 32
  deriving DecidableEq, Repr

/-- THE MODEL'S OWN (log entry 5): which byte strings carry a good signature, a fact of the world that no step changes but the
signing of a retained block. The spec lays out neither image nor block. -/
structure World where
  /-- firmware images that carry Corard's signature (R447) -/
  firmware : List (List Byte) := []
  /-- configuration images with a good certificate and signature and no reserved field set, with what they say (R448) -/
  configs : List (List Byte × CfgImage) := []
  /-- retained blocks that this module's identity key has signed (R446) -/
  retained : List (List Byte) := []
  deriving DecidableEq, Repr

/-- The kernel measurement of an address space (R454). -/
structure Kmeas where
  k : BitVec 512 := 0
  count : Nat := 0
  deriving DecidableEq, Repr

/-- An inbound handle ring of a peer port (R351). -/
structure InRing where
  asid : Nat
  block : DWord
  deriving DecidableEq, Repr

/-- The whole module. -/
structure State where
  /-- cycles of the arithmetic clock -/
  now : Nat := 0
  /-- what moves next, the head first; the default arbiter decides when it is empty (log entry 1) -/
  agenda : List Pick := []
  /-- steps that have met a retry response and are made again in the next round (R222; the model's own field) -/
  again : List Pick := []
  /-- wave and slot that issue in this step -/
  cur : Option (Nat × Nat) := none
  /-- index of the next free value (log entry 4) -/
  freeSeq : Nat := 0
  opSeq : Nat := 0
  /-- number of the next operation as it stood when the cycle began (R266; the model's own field) -/
  cycleOp : Nat := 0
  /-- order of the events that R218 relates: rises at every performed core write and at every release (R218, R266) -/
  stamp : Nat := 0
  mem : Memory := []
  /-- line -> the mapping under which it is held (R177, R451) -/
  lineKey : Tab LineKey := []
  /-- lines written while launches were resident -> those launches (R51) -/
  soiled : Tab (List Nat) := []
  keys : Tab KeySlot := []
  pins : Tab Pin := []
  rels : Tab RelInfo := []
  /-- releases by the object, as `Obj` numbers them (R220) -/
  syncs : Tab (List Released) := []
  /-- the FENCEs that have completed (R221) -/
  fences : Tab Released := []
  /-- commands by operation (R226) -/
  cmdLog : Tab CmdMem := []
  /-- the last write of each wave to a byte of memory, by physical address (R221, R281) -/
  memBy : Tab (List Writer) := []
  /-- what HSTM, or a transfer, stored last in a handle slot, by physical address / 16 (R344, R349) -/
  hslots : Tab HWord := []
  /-- sequences of key/value pools that programs hold, as `PoolAt.seqKey` numbers them (R284) -/
  seqHeld : Tab SeqHold := []
  ops : Tab Op := []
  waves : Tab Wave := []
  teams : Tab Team := []
  launches : Tab Launch := []
  dies : Tab Die := []
  cores : Tab Core := []
  /-- instruction cache blocks by polder: physical block -> its 128 bytes -/
  icache : Tab (Tab (List Byte)) := []
  /-- blocks that IPREF has asked for and that have not arrived: polder, block and key slot (R121) -/
  ifetch : List (Nat × Nat × Nat) := []
  regions : Tab Region := []
  /-- generation number of each address space -/
  gens : Tab (BitVec 16) := []
  asgen : List AsgenPend := []
  /-- tensor identifiers as each die holds them: key 2^24 die + 4096 asid + t (R241) -/
  tensors : Tab Tensor := []
  /-- touched rows: key 4096 asid + t -/
  touched : Tab (List Nat) := []
  kmeas : Tab Kmeas := []
  boot : Boot := {}
  /-- signatures that verify (log entry 5) -/
  world : World := {}
  /-- ports that are down -/
  portsDown : List Nat := []
  /-- key 16 port + ring -/
  inRings : Tab InRing := []
  events : List SysEvent := []
  defects : List Defect := []
  /-- breaks of this cycle, by team and barrier: they follow its arrivals and exits (R38) -/
  breaks : List (Nat × Nat) := []
  /-- number of words taken from peers (log entry 5) -/
  peerSeq : Nat := 0
  deriving DecidableEq, Repr

/-- The module right after power is applied: hx.status reads off (Table 31-1), nothing is resident, memory
lists nothing, and every register holds the value of its table or of log entry 3. -/
def State.reset : State := {}

end Sys2Proof.Machine
end

