-- ==== Sys2Proof/Machine/Tab.lean ====
section
/-! DEFINITION. Sparse files: look-up, insertion that keeps the keys strictly rising, and the form in which
a default is never listed. -/

namespace Sys2Proof.Machine

/-- The value at a key. -/
def tfind {β : Type} : Tab β → Nat → Option β
  | [], _ => none
  | (k, x) :: t, i => if i = k then some x else tfind t i

/-- The value at a key, `d` where none is listed. -/
def tget {β : Type} (t : Tab β) (i : Nat) (d : β) : β := (tfind t i).getD d

/-- Set a key. -/
def tput {β : Type} : Tab β → Nat → β → Tab β
  | [], i, x => [(i, x)]
  | (k, y) :: t, i, x => if i < k then (i, x) :: (k, y) :: t else if i = k then (i, x) :: t else (k, y) :: tput t i x

/-- Remove a key. -/
def tdel {β : Type} : Tab β → Nat → Tab β
  | [], _ => []
  | (k, y) :: t, i => if i = k then tdel t i else (k, y) :: tdel t i

/-- Set a key, listing nothing for the default. -/
def tset {β : Type} [DecidableEq β] (t : Tab β) (i : Nat) (x d : β) : Tab β :=
  if x = d then tdel t i else tput t i x

/-- Change the value at a listed key. -/
def tmod {β : Type} (t : Tab β) (i : Nat) (f : β → β) : Tab β :=
  match tfind t i with
  | none => t
  | some x => tput t i (f x)

/-- Whether a key is listed. -/
def thas {β : Type} (t : Tab β) (i : Nat) : Bool := (tfind t i).isSome

/-- Keys strictly rising. -/
def tsorted {β : Type} : Tab β → Bool
  | [] => true
  | [_] => true
  | (k, _) :: (j, y) :: t => k < j && tsorted ((j, y) :: t)

/-- A byte of a memory; unlisted bytes read 0 (log entry 2). -/
def memGet (m : Memory) (a : Nat) : Byte := tget m a 0

/-- Write a byte, keeping the canonical form. -/
def memSet (m : Memory) (a : Nat) (b : Byte) : Memory := tset m a b 0

/-- The canonical form of a memory: addresses strictly rising, no byte equal to 0 listed. -/
def Memory.wf (m : Memory) : Bool := tsorted m && m.all fun c => c.2 != 0

/-- `n` bytes from an address. -/
def memRead (m : Memory) (a n : Nat) : List Byte := (List.range n).map fun k => memGet m (a + k)

/-- Write bytes from an address. -/
def memWrite (m : Memory) (a : Nat) : List Byte → Memory
  | [] => m
  | b :: bs => memWrite (memSet m a b) (a + 1) bs

/-- The bytes of an interval, as a memory of offsets. -/
def memSlice (m : Memory) (a n : Nat) : Memory :=
  (m.filter fun c => a ≤ c.1 && c.1 < a + n).map fun c => (c.1 - a, c.2)

/-- Remove the listed bytes of an interval: they read 0. -/
def memClear (m : Memory) (a n : Nat) : Memory := m.filter fun c => c.1 < a || a + n ≤ c.1

/-- The 32-bit words of a byte list, least significant byte first. -/
def wordsOf : Nat → List Byte → List Word
  | 0, _ => []
  | n + 1, bs => BitVec.ofNat 32 (leNat (bs.take 4)) :: wordsOf n (bs.drop 4)

/-- The bytes of a word list. -/
def bytesOf (ws : List Word) : List Byte := ws.flatMap fun w => leBytes 4 w.toNat

/-- Bits `hi` to `lo` of a number. -/
def field (x hi lo : Nat) : Nat := x / 2 ^ lo % 2 ^ (hi + 1 - lo)

/-- Lanes of a mask in ascending order. -/
def lanes (m : Mask) : List Nat := (List.range 32).filter fun l => m.getLsbD l

/-- The lowest lane of a mask; 0 when it is empty. -/
def lowest (m : Mask) : Nat := (lanes m).headD 0

/-- The mask of the lanes that meet a condition. -/
def maskOf (f : Nat → Bool) : Mask := BitVec.ofNat 32 (((List.range 32).map fun l => (f l).toNat * 2 ^ l).sum)

/-- The mask of one lane. -/
def laneBit (l : Nat) : Mask := BitVec.ofNat 32 (2 ^ l)

/-! ## Entries of the module's files -/

/-- The n-th free value of width `w` in this step (log entry 4). -/
def State.free (s : State) (w k : Nat) : BitVec w := Config.freeValue w (s.freeSeq * 2 ^ 72 + k)

/-- The next step's free values differ from this step's. -/
def State.bump (s : State) : State := { s with freeSeq := s.freeSeq + 1 }

def State.die (s : State) (d : Nat) : Die := tget s.dies d {}
def State.modDie (s : State) (d : Nat) (f : Die → Die) : State := { s with dies := tput s.dies d (f (s.die d)) }
/-- Key of a core. -/
def coreKey (die core : Nat) : Nat := die * 128 + core
def State.core (s : State) (k : Nat) : Core := tget s.cores k {}
def State.modCore (s : State) (k : Nat) (f : Core → Core) : State := { s with cores := tput s.cores k (f (s.core k)) }
def State.wave (s : State) (k : Nat) : Option Wave := tfind s.waves k
def State.setWave (s : State) (k : Nat) (w : Wave) : State := { s with waves := tput s.waves k w }
def State.modWave (s : State) (k : Nat) (f : Wave → Wave) : State := { s with waves := tmod s.waves k f }
def State.team (s : State) (k : Nat) : Option Team := tfind s.teams k
def State.modTeam (s : State) (k : Nat) (f : Team → Team) : State := { s with teams := tmod s.teams k f }
def State.launch (s : State) (k : Nat) : Option Launch := tfind s.launches k
def State.modLaunch (s : State) (k : Nat) (f : Launch → Launch) : State := { s with launches := tmod s.launches k f }
def State.op (s : State) (k : Nat) : Option Op := tfind s.ops k
def State.modOp (s : State) (k : Nat) (f : Op → Op) : State := { s with ops := tmod s.ops k f }
def State.delOp (s : State) (k : Nat) : State := { s with ops := tdel s.ops k }
def State.event (s : State) (e : SysEvent) : State := { s with events := s.events ++ [e] }

/-- Key of a launch: home die and queue sequence number. -/
def launchKey (die qseq : Nat) : Nat := die * 2 ^ 64 + qseq
/-- Key of a team: its launch, cluster and logical team index. -/
def teamKey (launch cluster lti : Nat) : Nat := launch * 2 ^ 36 + cluster * 16 + lti
/-- Key of a wave: its team and its index. -/
def waveKey (team ix : Nat) : Nat := team * 32 + ix
/-- QIDX: the queue entry that a launch took, of 1,024 (R379, Table 27-5). -/
def qidxOf (qseq : Nat) : Nat := qseq % 1024

/-- The header of the launch of a wave; the default where the launch is gone. -/
def State.hdr (s : State) (w : Wave) : LaunchRec := ((s.launch w.launch).map Launch.hdr).getD {}

/-- Team of a wave; a default where it is gone. -/
def State.teamOf (s : State) (w : Wave) : Team :=
  (s.team w.team).getD { launch := w.launch, cluster := 0, lti := 0, die := w.die, core := w.core, waves := 1
                         base := none, gran := [], bars := 0 }

/-- Stage, and team within its stage, of a logical team index (R19). -/
def stageOf (h : LaunchRec) (lti : Nat) : Nat := lti / max h.n 1
def teamInStage (h : LaunchRec) (lti : Nat) : Nat := lti % max h.n 1

/-- The logical wave index (R19). -/
def logicalWave (h : LaunchRec) (cluster lti ix : Nat) : Nat := (cluster * (h.s * h.n) + lti) * 32 + ix

/-- The logical wave index of a wave. -/
def State.lwi (s : State) (w : Wave) : Nat :=
  let t := s.teamOf w
  logicalWave (s.hdr w) t.cluster t.lti w.ix

/-- sys.clock of a core (Table 6-6). -/
def State.clock (s : State) (ck : Nat) : DWord := BitVec.ofNat 64 (s.now - (s.core ck).clkBase)

end Sys2Proof.Machine
end

