-- ==== Sys2Proof/Machine/Memory.lean ====
section
/-! DEFINITION. Memory: physical lines and keys, the L1 of a core, pins, translation, the apertures and
the checks of Table 11-2 (spec 10, 11, 12; 14 R222, R223). -/

namespace Sys2Proof.Machine

/-! ## Fault codes (Table 28-1) -/

abbrev fIllegalTarget : Nat := 0x01
abbrev fDivergeDepth : Nat := 0x02
abbrev fSpanRange : Nat := 0x03
abbrev fRepCount : Nat := 0x04
abbrev fRepTarget : Nat := 0x05
abbrev fLoopFormat : Nat := 0x06
abbrev fLineParity : Nat := 0x07
abbrev fLineFormat : Nat := 0x08
abbrev fFetchFault : Nat := 0x09
abbrev fStallShort : Nat := 0x0A
abbrev fPoisonConsumed : Nat := 0x0B
abbrev fAddrNoncanon : Nat := 0x10
abbrev fApertureHole : Nat := 0x11
abbrev fRegwinOp : Nat := 0x12
abbrev fTxAperture : Nat := 0x13
abbrev fMisaligned : Nat := 0x14
abbrev fScratchBounds : Nat := 0x15
abbrev fRegwinBounds : Nat := 0x16
abbrev fStackBounds : Nat := 0x17
abbrev fPteFormat : Nat := 0x18
abbrev fPaUnbacked : Nat := 0x19
abbrev fKeyEmpty : Nat := 0x1A
abbrev fMemtypeOp : Nat := 0x1B
abbrev fRingFormat : Nat := 0x20
abbrev fBindFull : Nat := 0x21
abbrev fBindRange : Nat := 0x22
abbrev fBarRange : Nat := 0x23
abbrev fTensorFormat : Nat := 0x30
abbrev fTensorUndef : Nat := 0x31
abbrev fTensorShape : Nat := 0x32
abbrev fMatrixOperand : Nat := 0x33
abbrev fAccState : Nat := 0x34
abbrev fTaskState : Nat := 0x35
abbrev fRlxState : Nat := 0x40
abbrev fRlxMember : Nat := 0x41
abbrev fRlxForbidden : Nat := 0x42
abbrev fGaugeState : Nat := 0x50
abbrev fBasinSize : Nat := 0x60
abbrev fBasinReg : Nat := 0x61
abbrev fBasinEmpty : Nat := 0x62
abbrev fBasinStale : Nat := 0x63
abbrev fBasinKind : Nat := 0x64
abbrev fBasinBounds : Nat := 0x65
abbrev fBasinSelfpark : Nat := 0x66
abbrev fBasinAbandoned : Nat := 0x67
abbrev fBasinHandle : Nat := 0x68
abbrev fBasinCount : Nat := 0x69
abbrev fTopo : Nat := 0x70
abbrev fPrivileged : Nat := 0x71
abbrev fSoftware : Nat := 0x72
abbrev fBreak : Nat := 0x73
/-- The recoverable codes, and the imprecise ones. -/
abbrev fNotResident : Nat := 0x80
abbrev fWriteProtect : Nat := 0x81
abbrev fStorage : Nat := 0xF0
abbrev fUncorr : Nat := 0xF1
/-- No fault code: an access of the hardware or the firmware met a retry response, and waits (R222). -/
abbrev fRetry : Nat := 0x100

/-! ## Physical memory and keys -/

/-- The physical map of Table 11-5: module memory, then host memory. -/
def isModuleMem (pa : Nat) : Bool := pa ≤ 0x00FFFFFFFFFF
def isHostMem (pa : Nat) : Bool := 0x8000000000000 ≤ pa && pa ≤ 0xFFFFFFFFFFFFF
def backed (pa : Nat) : Bool := isModuleMem pa || isHostMem pa

/-- The key slot's present load. -/
def State.keyOf (s : State) (key : Nat) : KeySlot := tget s.keys key {}

/-- Byte `off` of the line reads as it is held through a mapping of this KEY and load (R177, R451). -/
def LineKey.shows (x : LineKey) (key gen off : Nat) : Bool :=
  !x.mixed && x.key == key && x.gen == gen && (match x.since with | some l => l.contains off | none => true)

/-- A line reached through a mapping: two KEY values mix it (R177), and a later load of its slot leaves it without a
defined byte (R451). -/
def LineKey.reach (x : Option LineKey) (key gen : Nat) : LineKey :=
  match x with
  | none => { key := key, gen := gen }
  | some x =>
      if x.key ≠ key then { x with mixed := true }
      else if x.gen ≠ gen then { x with gen := gen, since := some [] }
      else x

/-- A byte of the line is written through the mapping that holds it. -/
def LineKey.write (x : LineKey) (off : Nat) : LineKey :=
  { x with since := x.since.map fun l => if off ∈ l then l else l ++ [off] }

/-- A byte of a physical line read at the L2 through a key slot: undefined where the line was reached under
another key or load (R177, R451); KEY is ignored for host memory. -/
def State.l2Byte (s : State) (key pa : Nat) : Byte :=
  if isModuleMem pa then
    match tfind s.lineKey (pa / 128) with
    | none => memGet s.mem pa
    | some x => if x.shows key (s.keyOf key).gen (pa % 128) then memGet s.mem pa else s.free 8 (2 ^ 64 + pa)
  else memGet s.mem pa

/-- A line is reached through a mapping (R177). -/
def State.reach (s : State) (key pa : Nat) : State :=
  if isModuleMem pa then
    { s with lineKey := tput s.lineKey (pa / 128) (LineKey.reach (tfind s.lineKey (pa / 128)) key (s.keyOf key).gen) }
  else s

/-- Write a byte at the L2 through a key slot. -/
def State.l2Set (s : State) (key pa : Nat) (b : Byte) : State :=
  let s := { s with mem := memSet s.mem pa b }
  if isModuleMem pa then
    let x := (LineKey.reach (tfind s.lineKey (pa / 128)) key (s.keyOf key).gen).write (pa % 128)
    { s with lineKey := tput s.lineKey (pa / 128) x }
  else s

/-- Bytes at the L2. -/
def State.l2Read (s : State) (key pa n : Nat) : List Byte := (List.range n).map fun k => s.l2Byte key (pa + k)
def State.l2Write (s : State) (key pa : Nat) : List Byte → State
  | [] => s
  | b :: bs => (s.l2Set key pa b).l2Write key (pa + 1) bs

/-- Bytes that the hardware or the firmware reads and writes by physical address, untranslated: under key
slot 0, as the walker reads (R169). -/
def State.physRead (s : State) (pa n : Nat) : List Byte := s.l2Read 0 pa n
def State.physNat (s : State) (pa n : Nat) : Nat := leNat (s.physRead pa n)

/-- A line of 64 bytes that may hold code is written while launches run: what they execute from it is undefined (R51). -/
def State.soil (s : State) (pa : Nat) : State :=
  let on := (s.launches.filter fun l => l.2.st == .running).map (·.1)
  if on.isEmpty then s
  else { s with soiled := tput s.soiled (pa / 64) (tget s.soiled (pa / 64) [] ++ on.filter fun l => !(tget s.soiled (pa / 64) []).contains l) }

/-- Every line of 64 bytes that some consecutive bytes touch. -/
def State.soilRange (s : State) (pa n : Nat) : State :=
  (List.range ((pa % 64 + n + 63) / 64)).foldl (fun s k => s.soil (pa + 64 * k)) s

def State.physWrite (s : State) (pa : Nat) (bs : List Byte) : State := (s.soilRange pa bs.length).l2Write 0 pa bs

/-! ## The L1 of a core (R165) -/

/-- The line as the L2 holds it. -/
def State.fillLine (s : State) (key line : Nat) : L1Line :=
  { data := ((List.range 128).map fun k => (k, s.l2Byte key (128 * line + k))).filter fun c => c.2 != 0, key := key }

/-- Write a line's dirty bytes back to the L2 and drop the line. -/
def State.evictLine (s : State) (ck line : Nat) : State :=
  match tfind (s.core ck).l1 line with
  | none => s
  | some l =>
      let s := l.dirty.foldl (fun s o => s.l2Set l.key (128 * line + o) (memGet l.data o)) s
      s.modCore ck fun c => { c with l1 := tdel c.l1 line }

/-- Write one dirty byte of a line back; the core keeps the line. -/
def State.backByte (s : State) (ck pa : Nat) : State :=
  match tfind (s.core ck).l1 (pa / 128) with
  | none => s
  | some l =>
      if pa % 128 ∈ l.dirty then
        (s.l2Set l.key pa (memGet l.data (pa % 128))).modCore ck fun c =>
          { c with l1 := tmod c.l1 (pa / 128) fun l => { l with dirty := l.dirty.filter (· ≠ pa % 128) } }
      else s

/-- Lines that the granules in CACHE of a core hold: 32 each (R81, R82, R165). -/
def Core.lineRoom (c : Core) : Nat := 32 * (Config.granules - c.grans.length)

/-- Make room for one more line: the lowest line goes when the granules in CACHE are full. -/
def State.makeRoom (s : State) (ck : Nat) : State :=
  match (s.core ck).l1 with
  | [] => s
  | x :: _ => if (s.core ck).lineRoom ≤ (s.core ck).l1.length then s.evictLine ck x.1 else s

/-- Bring a line into a core's L1 when it is not there and a granule is in CACHE. -/
def State.touchLine (s : State) (ck key line : Nat) : State :=
  if thas (s.core ck).l1 line || (s.core ck).lineRoom == 0 then s
  else
    let s := s.makeRoom ck
    s.modCore ck fun c => { c with l1 := tput c.l1 line (s.fillLine key line) }

/-- The line is undefined through a mapping of another KEY than the one under which the L1 holds it (R177). -/
def State.keyMixed (s : State) (l : L1Line) (key pa : Nat) : Bool :=
  isModuleMem pa && (l.key != key || (tfind s.lineKey (pa / 128)).any (·.mixed))

/-- A byte as the core's L1 gives it, or the L2 where the line is absent. -/
def State.l1Byte (s : State) (ck key pa : Nat) : Byte :=
  match tfind (s.core ck).l1 (pa / 128) with
  | some l => if s.keyMixed l key pa then s.free 8 (2 ^ 64 + pa) else memGet l.data (pa % 128)
  | none => s.l2Byte key pa

/-- Write a byte into the core's L1; into the L2 where no granule is in CACHE. -/
def State.l1Set (s : State) (ck key pa : Nat) (b : Byte) : State :=
  let s := s.touchLine ck key (pa / 128)
  if thas (s.core ck).l1 (pa / 128) then
    s.modCore ck fun c =>
      { c with l1 := tmod c.l1 (pa / 128) fun l =>
          { l with data := memSet l.data (pa % 128) b, dirty := if (pa % 128) ∈ l.dirty then l.dirty else l.dirty ++ [pa % 128] } }
  else s.l2Set key pa b

/-- A core's L1 holds no more lines than its granules in CACHE have room for (R82, R86): the lowest lines beyond that are
written back and dropped. -/
def State.trimL1 (s : State) (ck : Nat) : State :=
  ((s.core ck).l1.take ((s.core ck).l1.length - (s.core ck).lineRoom)).foldl (fun s x => s.evictLine ck x.1) s

/-- Write every line of a core back and drop it. -/
def State.flushL1 (s : State) (ck : Nat) : State :=
  (s.core ck).l1.foldl (fun s x => s.evictLine ck x.1) s

/-- A line of host memory, which no scope below .SYSTEM includes (R227). -/
def hostLine (line : Nat) : Bool := isHostMem (128 * line)

/-- Write a core's lines of module memory back and drop them (R205, R227). -/
def State.flushModule (s : State) (ck : Nat) : State :=
  (s.core ck).l1.foldl (fun s x => if hostLine x.1 then s else s.evictLine ck x.1) s

/-- Drop every core's copy of a line, written back. -/
def State.evictEverywhere (s : State) (line : Nat) : State :=
  s.cores.foldl (fun s x => s.evictLine x.1 line) s

/-- The lines of a core's L1 that hold a byte of an interval of physical addresses, written back and
dropped. -/
def State.evictRange (s : State) (ck pa n : Nat) : State :=
  (s.core ck).l1.foldl (fun s x => if pa < 128 * x.1 + 128 ∧ 128 * x.1 < pa + n then s.evictLine ck x.1 else s) s

/-! ## Pins (R222, R223) -/

/-- A line pinned by another team gives a retry response. -/
def State.pinnedAway (s : State) (team line : Nat) : Bool :=
  match tfind s.pins line with
  | some p => p.team != team
  | none => false

def State.pin (s : State) (team core line : Nat) : State := { s with pins := tput s.pins line ⟨team, core⟩ }

/-- Some team has pinned the line: an agent that belongs to no team gets a retry response. -/
def State.pinnedAny (s : State) (line : Nat) : Bool := thas s.pins line

/-- Pin a line; a line that the team has not pinned yet is first dropped everywhere, written back, so that its core holds no
older copy (R219). -/
def State.pinFresh (s : State) (team core line : Nat) : State :=
  (if (tfind s.pins line).any fun p => p.team == team then s else s.evictEverywhere line).pin team core line

/-- The team's last wave has retired, or the team is switched out: what it still does at narrow scope is widened at once
(R223). -/
def State.teamOver (s : State) (team : Nat) : Bool := (s.team team).any fun t => t.freed || t.out

/-- Write back and unpin every line a team pinned (R223): its narrow releases are widened. -/
def State.unpinTeam (s : State) (team scope : Nat) : State :=
  let s : State := { s with syncs := s.syncs.map fun (x : Nat × List Released) => (x.1, x.2.map fun r =>
    if r.wave / 32 = team ∧ r.scope < scope then { r with scope := scope } else r) }
  s.pins.foldl (fun s x =>
    if x.2.team = team then
      let s := s.evictLine x.2.core x.1
      { s with pins := tdel s.pins x.1
               rels := tmod s.rels x.1 fun r => { r with scope := scope } }
    else s) s

/-! ## Translation (R168-R177) -/

/-- GEN of an address space. -/
def State.gen (s : State) (asid : Nat) : BitVec 16 := tget s.gens asid 0

/-- The address-space table entry: EN and ROOT (Table 11-6). -/
def State.asEnabled (s : State) (die asid : Nat) : Bool := s.physNat ((s.die die).astbase.toNat + 16 * asid) 1 % 2 == 1
def State.asRoot (s : State) (die asid : Nat) : Nat :=
  field (s.physNat ((s.die die).astbase.toNat + 16 * asid) 8) 51 12 * 4096

/-- What a walk finds. -/
inductive Walk where
  | leaf (pte : DWord) (bits : Nat)
  | notResident
  | malformed
  /-- a table lies in module memory under a key slot that is empty (R177, R457) -/
  | noKey
  /-- a table entry lies in a line that a team has pinned: the walker gets a retry response (R222) -/
  | held
  deriving DecidableEq, Repr

/-- A present entry breaks R171. -/
def pteMalformed (level : Nat) (e : Nat) : Bool :=
  let lf := field e 8 8 == 1
  field e 54 52 != 0 || field e 7 2 != 0 || (lf && 3 ≤ level) || (!lf && level == 0)
    || (field e 9 9 == 1 && level != 0)
    || (lf && level == 2 && field e 29 12 != 0) || (lf && level == 1 && field e 20 12 != 0)
    || (!lf && (field e 63 55 != 0 || field e 11 10 != 0 || field e 9 9 != 0 || field e 1 1 != 0))

/-- The 16 entries of a CONT group agree as R172 prescribes. -/
def contAgrees (es : List Nat) : Bool :=
  match es with
  | [] => true
  | e0 :: _ =>
      (es.zipIdx).all fun x =>
        x.1 / 2 ^ 16 == e0 / 2 ^ 16 && x.1 % 2 ^ 12 == e0 % 2 ^ 12 && field x.1 15 12 == x.2

/-- Some entry of the 16 is present and marks them as a group of R172. -/
def contGroup (es : List Nat) : Bool := es.any fun e => field e 0 0 == 1 && field e 9 9 == 1

/-- The walker reads tables under key slot 0 (R169): one in module memory cannot be read while that slot is empty. -/
def State.tableShut (s : State) (pa : Nat) : Bool := isModuleMem pa && !(s.keyOf 0).loaded

/-- The walker belongs to no team: it waits for an entry's line that some team has pinned (R222). -/
def State.tableHeld (s : State) (pa n : Nat) : Bool :=
  s.pins != [] && (List.range ((pa % 128 + n + 127) / 128)).any fun k => s.pinnedAny (pa / 128 + k)

/-- The walk from the table at `root` for level `k` (R169, R171, R172). A CONT group whose entries differ
is translated with the fields of one of its entries, a free choice. -/
def State.walkFrom (s : State) (va : Nat) : Nat → Nat → Walk
  | 0, root =>
      if s.tableShut root then .noKey else
      let ix := field va 20 12
      if s.tableHeld (root + 8 * ix) 8 then .held else
      let g := (List.range 16).map fun j => s.physNat (root + 8 * (ix / 16 * 16 + j)) 8
      let own := g.getD (ix % 16) 0
      let e := if contAgrees g || !contGroup g then own else g.getD (s.free 4 (2 ^ 65 + root + ix / 16)).toNat own
      if e % 2 = 0 then .notResident
      else if pteMalformed 0 e then .malformed
      else .leaf (BitVec.ofNat 64 e) (if field e 9 9 = 1 then 16 else 12)
  | k + 1, root =>
      if s.tableShut root then .noKey else
      let ix := field va (20 + 9 * (k + 1)) (12 + 9 * (k + 1))
      if s.tableHeld (root + 8 * ix) 8 then .held else
      let e := s.physNat (root + 8 * ix) 8
      if e % 2 = 0 then .notResident
      else if pteMalformed (k + 1) e then .malformed
      else if field e 8 8 = 1 then .leaf (BitVec.ofNat 64 e) (12 + 9 * (k + 1))
      else s.walkFrom va k (field e 51 12 * 4096)

/-- The five-level walk of an address space (R169). -/
def State.walk (s : State) (die asid va : Nat) : Walk :=
  let at_ := (s.die die).astbase.toNat + 16 * asid
  if s.tableShut at_ then .noKey else if s.tableHeld at_ 8 then .held else s.walkFrom va 4 (s.asRoot die asid)

/-- A cached translation that matches GEN (R173). -/
def State.tlbFind (s : State) (die asid va : Nat) : Option TlbEntry :=
  (s.die die).tlb.find? fun t => t.asid == asid && t.gen == s.gen asid && t.page == va / 2 ^ t.bits

/-- Translation through the cache, then the walker. A cached entry that lacks a right which the access needs is walked
again: an entry that has gained W or X needs nothing more (R175). -/
def State.lookup (s : State) (die asid va : Nat) (needW needX : Bool) : Walk :=
  match s.tlbFind die asid va with
  | some t =>
      if needW && field t.leaf.toNat 1 1 == 0 || needX && field t.leaf.toNat 63 63 == 0 then s.walk die asid va
      else .leaf t.leaf t.bits
  | none => s.walk die asid va

/-- Keep a translation that was found (R173: an absent or faulting entry is never cached). -/
def State.cacheTlb (s : State) (die asid va : Nat) : State :=
  match s.tlbFind die asid va, s.walk die asid va with
  | none, .leaf e bits =>
      s.modDie die fun d => { d with tlb := d.tlb ++ [⟨asid, s.gen asid, va / 2 ^ bits, bits, e⟩] }
  | _, _ => s

/-- Access kinds that Table 11-2 tells apart, with the KIND of a fault-queue entry (Table 10-2). -/
inductive Acc2 where
  | load | store | atomic | txLoad | txStore | engineLoad | engineStore | fetch
  deriving DecidableEq, Repr

def Acc2.isTx : Acc2 → Bool | .txLoad | .txStore => true | _ => false
def Acc2.writes : Acc2 → Bool | .store | .atomic | .txStore | .engineStore => true | _ => false
def Acc2.needsNormal : Acc2 → Bool | .atomic | .txLoad | .txStore => true | _ => false
/-- KIND (Table 10-2). -/
def Acc2.kind : Acc2 → Nat | .load | .engineLoad | .fetch => 0 | .store | .engineStore => 1 | .atomic => 2 | _ => 3

/-- A translated address, or the code of Table 11-2 that stops it. -/
inductive Trans where
  | ok (pa mt key : Nat) (x : Bool)
  | code (c : Nat)
  deriving DecidableEq, Repr

/-- Translate one address for one access (Table 11-2 below the dividing row). -/
def State.translate (s : State) (die asid va : Nat) (k : Acc2) : Trans :=
  match s.lookup die asid va k.writes (k == .fetch) with
  | .malformed => .code fPteFormat
  | .noKey => .code fKeyEmpty
  | .held => .code fRetry
  | .notResident => .code fNotResident
  | .leaf e bits =>
      let pa := field e.toNat 51 12 * 4096 / 2 ^ bits * 2 ^ bits + va % 2 ^ bits
      let mt := field e.toNat 11 10
      let key := field e.toNat 62 55
      if !backed pa then .code fPaUnbacked
      else if isModuleMem pa && !(s.keyOf key).loaded then .code fKeyEmpty
      else if k.needsNormal && mt != 0 then .code fMemtypeOp
      else if k.writes && field e.toNat 1 1 == 0 then .code fWriteProtect
      else .ok pa mt key (field e.toNat 63 63 == 1)

/-! ## Apertures (R160-R164) -/

/-- Canonical addresses (R160). -/
def canonical (a : DWord) : Bool := a.toNat / 2 ^ 56 == 0 || a.toNat / 2 ^ 56 == 255

/-- The generic address lies in the global window. -/
def isGlobal (a : DWord) : Bool := canonical a && !(Config.localBase ≤ a.toNat && a.toNat < Config.localBase + 2 ^ 32)

/-- Size of a wave's block in the stack aperture (R162). -/
def stackA (h : LaunchRec) : Nat := 0x4000 + 32 * (16 * h.lstk)

/-- Virtual address of a wave's block. -/
def waveBlock (h : LaunchRec) (lwi : Nat) : Nat := (h.sb.toNat + lwi * stackA h) % 2 ^ 57

/-- The words of a thread-view access, each rewritten (R162). -/
def threadSegs (blk lane o width : Nat) : List Seg :=
  if width ≤ 4 then [⟨.glob ((blk + 0x4000 + o / 4 * 128 + 4 * lane + o % 4) % 2 ^ 57), width⟩]
  else (List.range (width / 4)).map fun k => ⟨.glob ((blk + 0x4000 + (o / 4 + k) * 128 + 4 * lane) % 2 ^ 57), 4⟩

/-- The checks of Table 11-2 above the dividing row for one lane's access of `width` bytes, and the places it
reaches. `lane` is the issuing lane. -/
def State.aperture (s : State) (w : Wave) (lane : Nat) (a : DWord) (width : Nat) (k : Acc2) : Except Nat (List Seg) :=
  let h := s.hdr w
  let t := s.teamOf w
  let stage (lti : Nat) : Stage := h.stages.getD (stageOf h lti) ⟨0, 0, 1, 0⟩
  let size (lti : Nat) : Nat := 4096 * (stage lti).gran
  let blk := waveBlock h (s.lwi w)
  let mis := a.toNat % width != 0
  if !canonical a then .error fAddrNoncanon
  else if isGlobal a then
    if mis then .error fMisaligned else .ok [⟨.glob (a.toNat % 2 ^ 57), width⟩]
  else
    let x := a.toNat - Config.localBase
    if x < 0x80000 then
      if k.isTx then .error fTxAperture
      else if mis then .error fMisaligned
      else if size t.lti < x + width then .error fScratchBounds
      else .ok [⟨.scr w.team x, width⟩]
    else if 0x100000 ≤ x ∧ x < 0x200000 then
      let o := x - 0x100000
      if k.isTx ∨ k = .atomic ∨ k = .engineLoad ∨ k = .engineStore then .error fRegwinOp
      else
        let i := o / 0x8000
        let n := o / 128 % 256
        if mis ∨ t.waves ≤ i ∨ h.v ≤ n then .error fRegwinBounds
        else .ok ((List.range ((width + 3) / 4)).map fun j =>
          ⟨.reg (waveKey w.team i) n ((o % 128) / 4 + j) (o % 4), min width 4⟩)
    else if 0x1000000 ≤ x ∧ x < 0x2000000 then
      let j := (x - 0x1000000) / 0x100000
      let o := (x - 0x1000000) % 0x100000
      if 0x80000 ≤ o then .error fApertureHole
      else if k.isTx then .error fTxAperture
      else if mis then .error fMisaligned
      else if h.n * h.s ≤ j ∨ size j < o + width then .error fScratchBounds
      else .ok [⟨.scr (teamKey t.launch t.cluster j) o, width⟩]
    else if 0x2000000 ≤ x ∧ x < 0x2004000 then
      let o := x - 0x2000000
      if mis then .error fMisaligned
      else if 0x2600 < o + width then .error fStackBounds
      else .ok [⟨.glob ((blk + o) % 2 ^ 57), width⟩]
    else if 0x80000000 ≤ x then
      let o := x - 0x80000000
      if mis then .error fMisaligned
      else if 16 * h.lstk < o + width then .error fStackBounds
      else .ok (threadSegs blk lane o width)
    else .error fApertureHole

/-- A place some bytes further on. -/
def Place.shift (p : Place) (k : Nat) : Place :=
  match p with
  | .scr t off => .scr t (off + k)
  | .reg w n l b => .reg w n l (b + k)
  | .glob va => .glob (va + k)
  | .phys pa mt key => .phys (pa + k) mt key

/-- Two places share a byte. -/
def Seg.meets (a b : Seg) : Bool :=
  match a.place, b.place with
  | .scr t x, .scr u y => t == u && x < y + b.len && y < x + a.len
  | .reg w n l x, .reg v m k y => w == v && n == m && l == k && x < y + b.len && y < x + a.len
  | .glob x, .glob y => x < y + b.len && y < x + a.len
  | .phys x _ _, .phys y _ _ => x < y + b.len && y < x + a.len
  | _, _ => false

def segsMeet (a b : List Seg) : Bool := a.any fun x => b.any fun y => x.meets y

/-- Memory type of a lane's places. -/
def segType (gs : List Seg) : Nat := gs.foldl (fun t g => match g.place with | .phys _ mt _ => max t mt | _ => t) 0

/-- The place is reached through translation. -/
def Place.isGlob : Place → Bool
  | .glob _ => true
  | _ => false

/-- The lines of translated places are reached through their mappings (R177). -/
def State.reachSegs (s : State) (gs : List Seg) : State :=
  gs.foldl (fun s g => match g.place with
    | .phys pa _ key => (List.range ((pa % 128 + g.len + 127) / 128)).foldl (fun s k => s.reach key (pa / 128 * 128 + 128 * k)) s
    | _ => s) s

/-- Of two codes of one lane: the one that stands highest in Table 11-2; of two recoverable ones the first met. -/
def worseCode (c d : Nat) : Nat := if d < fNotResident then min c d else c

/-- Translate a lane's places; the code that stands highest in Table 11-2 stops the lane. -/
def State.translateSegs (s : State) (w : Wave) (k : Acc2) : List Seg → Except Nat (List Seg)
  | [] => .ok []
  | g :: gs =>
      match g.place with
      | .glob va =>
          match s.translate w.die (s.hdr w).asid va k with
          | .code c =>
              match s.translateSegs w k gs with
              | .error d => .error (worseCode c d)
              | .ok _ => .error c
          | .ok pa mt key _ =>
              match s.translateSegs w k gs with
              | .error c => .error c
              | .ok r => .ok (⟨.phys pa mt key, g.len⟩ :: r)
      | _ =>
          match s.translateSegs w k gs with
          | .error c => .error c
          | .ok r => .ok (g :: r)

/-- Cache the translations a lane used. -/
def State.cacheSegs (s : State) (w : Wave) (gs : List Seg) : State :=
  gs.foldl (fun s g => match g.place with | .glob va => s.cacheTlb w.die (s.hdr w).asid va | _ => s) s

/-- The first virtual address of a lane's places that does not translate, or its first place. -/
def State.badVa (s : State) (w : Wave) (k : Acc2) (gs : List Seg) : Nat :=
  let bad := gs.filterMap fun g => match g.place with
    | .glob va => (match s.translate w.die (s.hdr w).asid va k with | .code _ => some va | .ok .. => none)
    | _ => none
  bad.headD 0

/-! ## Reading and writing places -/

/-- The registers of a wave; of a wave that has ended, while its team's block stands (R88). -/
def State.regsOf (s : State) (wk : Nat) : Regs :=
  match s.wave wk with
  | some w => w.regs
  | none => tget ((s.team (wk / 32)).map Team.past |>.getD []) (wk % 32) {}

/-- A lane that was overwritten before the wait on the result pending there: its value is undefined (R61, R88). -/
def State.regLost (s : State) (wk n l : Nat) : Bool :=
  (s.wave wk).any fun w => w.haz.any fun z => z.clobbered && z.reg == .v n && z.lanes.getLsbD l

/-- A byte of a register file lane (R93). -/
def State.regByte (s : State) (wk n l b : Nat) : Byte :=
  if s.regLost wk n l then s.free 8 (2 ^ 47 + (wk * 256 + n) * 128 + 4 * l + b)
  else BitVec.ofNat 8 ((tget (s.regsOf wk).v (32 * n + l) 0).toNat / 2 ^ (8 * b))

/-- Write a byte of a lane; a byte written clears the lane's poison (R67). -/
def Regs.setByte (g : Regs) (n l b : Nat) (x : Byte) : Regs :=
  let old := (tget g.v (32 * n + l) 0).toNat
  let new := old - old / 2 ^ (8 * b) % 256 * 2 ^ (8 * b) + x.toNat * 2 ^ (8 * b)
  { g with v := tset g.v (32 * n + l) (BitVec.ofNat 32 new) 0
           vP := tset g.vP n (tget g.vP n 0 &&& ~~~ laneBit l) 0 }

/-- Lanes of a wave that are not permanently inactive, also when the wave has ended (R18). -/
def State.liveOf (s : State) (wk : Nat) : Mask :=
  match s.wave wk with
  | some w => w.live
  | none => tget ((s.team (wk / 32)).map Team.pastLive |>.getD []) (wk % 32) 0

/-- Write a byte of a register file lane, of a live wave or of one that has ended; a permanently inactive lane keeps its
state (R18). -/
def State.setRegByte (s : State) (wk n l b : Nat) (x : Byte) : State :=
  if !(s.liveOf wk).getLsbD l then s
  else if (s.wave wk).isSome then s.modWave wk fun w => { w with regs := w.regs.setByte n l b x }
  else s.modTeam (wk / 32) fun t => { t with past := tmod t.past (wk % 32) fun g => g.setByte n l b x }

/-- A byte of a place, `o` bytes into it, as core `ck` reads it. -/
def State.placeByte (s : State) (ck : Nat) (p : Place) (o : Nat) : Byte :=
  match p with
  | .scr t off => memGet ((s.team t).map Team.scr |>.getD []) (off + o)
  | .reg wk n l b => s.regByte wk n l (b + o)
  | .phys pa mt key => if mt = 0 then s.l1Byte ck key (pa + o) else s.l2Byte key (pa + o)
  | .glob _ => 0

/-- Bring the lines of a normal-memory place into the L1, as a load or store does. -/
def State.touchPlace (s : State) (ck : Nat) (p : Place) : State :=
  match p with
  | .phys pa 0 key => s.touchLine ck key (pa / 128)
  | _ => s

/-- The bytes of a lane's places. -/
def State.readSegs (s : State) (ck : Nat) (gs : List Seg) : List Byte :=
  gs.flatMap fun g => (List.range g.len).map fun o => s.placeByte ck g.place o

/-- Write one byte of a place as core `ck` writes it, for the operation `opk` of wave `wk`. -/
def State.setPlaceByte (s : State) (ck wk opk : Nat) (p : Place) (o : Nat) (x : Byte) : State :=
  match p with
  | .scr t off =>
      let s := { s with stamp := s.stamp + 1 }
      s.modTeam t fun tm =>
        { tm with scr := memSet tm.scr (off + o) x, writers := tput tm.writers (off + o) { wave := wk, op := opk, stamp := s.stamp } }
  | .reg rk n l b => s.setRegByte rk n l (b + o) x
  | .phys pa mt key =>
      let s := s.soil (pa + o)
      if mt = 0 then s.l1Set ck key (pa + o) x else s.l2Set key (pa + o) x
  | .glob _ => s

def State.writeSeg (s : State) (ck wk opk : Nat) (p : Place) : Nat → List Byte → State
  | _, [] => s
  | o, b :: bs => (s.setPlaceByte ck wk opk p o b).writeSeg ck wk opk p (o + 1) bs

/-- Write a lane's bytes over its places in order. -/
def State.writeSegs (s : State) (ck wk opk : Nat) : List Seg → List Byte → State
  | [], _ => s
  | g :: gs, bs => (s.writeSeg ck wk opk g.place 0 (bs.take g.len)).writeSegs ck wk opk gs (bs.drop g.len)

/-- The same places written and read at the L2, whatever their type (R189, R197, R210). -/
def Seg.atL2 (g : Seg) : Seg :=
  match g.place with
  | .phys pa _ key => ⟨.phys pa 1 key, g.len⟩
  | _ => g

/-- Physical lines that a lane's places touch. -/
def segLines (gs : List Seg) : List Nat :=
  gs.flatMap fun g => match g.place with
    | .phys pa _ _ => (List.range ((pa % 128 + g.len + 127) / 128)).map fun k => pa / 128 + k
    | _ => []

/-- Bring the lines of some places to the L2. -/
def State.toL2 (s : State) (gs : List Seg) : State := (segLines gs).foldl (fun s x => s.evictEverywhere x) s

/-- Some line of the places is pinned by another team (R222). -/
def State.retried (s : State) (team : Nat) (gs : List Seg) : Bool := (segLines gs).any fun l => s.pinnedAway team l

/-! ## Accesses of the hardware and the firmware -/

/-- Translate a firmware or hardware access of `n` consecutive bytes in an address space, byte ranges split
at 4 KiB pages; the first code met stops it, and a line that a team has pinned makes it wait (R222). -/
def State.asidSegs (s : State) (die asid : Nat) (k : Acc2) : Nat → DWord → Nat → Except Nat (List Seg)
  | 0, _, _ => .ok []
  | fuel + 1, a, n =>
      if n = 0 then .ok []
      else if !canonical a then .error fAddrNoncanon
      else if !isGlobal a then .error fApertureHole
      else
        let m := min n (4096 - a.toNat % 4096)
        match s.translate die asid (a.toNat % 2 ^ 57) k with
        | .code c => .error c
        | .ok pa mt key _ =>
            if (List.range ((pa % 128 + m + 127) / 128)).any fun j => s.pinnedAny (pa / 128 + j) then .error fRetry else
            match s.asidSegs die asid k fuel (a + BitVec.ofNat 64 m) (n - m) with
            | .error c => .error c
            | .ok r => .ok (⟨.phys pa mt key, m⟩ :: r)

/-- An access of the hardware or the firmware waits: it gets a retry response (R222). -/
def State.asidHeld (s : State) (die asid : Nat) (a : DWord) (n : Nat) : Bool :=
  match s.asidSegs die asid .load (n / 4096 + 2) a n with
  | .error c => c == fRetry
  | .ok _ => false

/-- Read bytes of an address space at the L2. -/
def State.asidRead (s : State) (die asid : Nat) (a : DWord) (n : Nat) : Except Nat (List Byte) :=
  match s.asidSegs die asid .load (n / 4096 + 2) a n with
  | .error c => .error c
  | .ok gs => .ok (s.readSegs 0 (gs.map Seg.atL2))

/-- Read bytes of an address space as they stand after every core's writes to them are written back. -/
def State.fwRead (s : State) (die asid : Nat) (a : DWord) (n : Nat) : Except Nat (List Byte) :=
  match s.asidSegs die asid .load (n / 4096 + 2) a n with
  | .error c => .error c
  | .ok gs => .ok ((s.toL2 gs).readSegs 0 (gs.map Seg.atL2))

/-- The lines of such a read are reached through their mappings (R177). -/
def State.asidReach (s : State) (die asid : Nat) (a : DWord) (n : Nat) : State :=
  match s.asidSegs die asid .load (n / 4096 + 2) a n with
  | .error _ => s
  | .ok gs => s.reachSegs gs

/-- Write bytes of an address space at the L2, every L1 copy dropped first. -/
def State.asidWrite (s : State) (die asid : Nat) (a : DWord) (bs : List Byte) : Except Nat State :=
  match s.asidSegs die asid .store (bs.length / 4096 + 2) a bs.length with
  | .error c => .error c
  | .ok gs =>
      let s := gs.foldl (fun s g => match g.place with
        | .phys pa _ _ => (List.range ((g.len + 255) / 128)).foldl (fun s k => s.evictEverywhere ((pa + 128 * k) / 128)) s
        | _ => s) s
      .ok (s.writeSegs 0 0 0 (gs.map Seg.atL2) bs)

end Sys2Proof.Machine
end

