-- ==== Sys2Proof/Machine/Order.lean ====
section
/-! DEFINITION. What happens before what (14 R217-R226): clocks of the waves, releases and acquires on objects, fences, and who
has seen a command complete. -/

namespace Sys2Proof.Machine

/-! ## Bytes -/

/-- Offset of a place within its kind. -/
def Place.off : Place → Nat
  | .scr _ o => o
  | .reg _ _ _ b => b
  | .glob va => va
  | .phys pa _ _ => pa

/-- The bytes of `g` that are not in `b`. -/
def Seg.cut (g b : Seg) : List Seg :=
  if !g.meets b then [g]
  else
    let x := g.place.off
    let y := b.place.off
    (if x < y then [⟨g.place, y - x⟩] else []) ++
      (if y + b.len < x + g.len then [⟨g.place.shift (y + b.len - x), x + g.len - (y + b.len)⟩] else [])

/-- The bytes of `gs` that are not in `c`. -/
def segsLess (gs c : List Seg) : List Seg := c.foldl (fun gs b => gs.flatMap fun g => g.cut b) gs

/-- The bytes of `gs` that are in `c`. -/
def segsIn (gs c : List Seg) : List Seg := segsLess gs (segsLess gs c)

/-! ## What a wave comes after -/

/-- Event `t` of wave `p` comes before. -/
def Heard.after (h : Heard) (p t : Nat) : Bool := t ≤ tget h.clock p 0

/-- What is heard of the bytes `c` only. -/
def Heard.within (h : Heard) (c : Option (List Seg)) : Option Heard :=
  match c, h.on with
  | none, _ => some h
  | some c, none => some { h with on := some c }
  | some c, some d => if segsIn d c = [] then none else some { h with on := some (segsIn d c) }

/-- Add what is heard. -/
def addHeard (hs : List Heard) (h : Heard) : List Heard :=
  if hs.any fun x => x.on == h.on then
    hs.map fun x => if x.on == h.on then { x with clock := h.clock.foldl (fun t y => tput t y.1 (max y.2 (tget t y.1 0))) x.clock } else x
  else hs ++ [h]
def joinHeard (hs ks : List Heard) : List Heard := ks.foldl addHeard hs

/-- The part of some bytes for which event `t` of wave `p` does not come before. -/
def unheard (hs : List Heard) (p t : Nat) (gs : List Seg) : List Seg :=
  hs.foldl (fun gs h => if h.after p t then (match h.on with | none => [] | some c => segsLess gs c) else gs) gs

/-- Event `t` of wave `p` comes before, on a byte; on the cells of a tile or a slot, which no object carries, where it comes before
on any byte (log entry 25). -/
def heardOf (hs : List Heard) (p t : Nat) (g : Option Seg) : Bool :=
  match g with
  | some g => (unheard hs p t [g]).isEmpty
  | none => hs.any fun h => h.after p t

/-- Launch of a wave that is resident or has ended. -/
def waveLaunch (wk : Nat) : Nat := wk / 32 / 2 ^ 36

/-- The launch of a wave has completed: what it did happens before what comes later (R381). -/
def State.launchEnded (s : State) (wk : Nat) : Bool := (s.launch (waveLaunch wk)).all fun l => l.st == .done

/-- Commands of a wave that it has not seen complete: each leaves a mark until a wait on its counter (R226). -/
def Wave.unseenCmds (w : Wave) : List Nat := w.haz.filterMap fun z => if z.reg = .p 7 then z.op else none

/-- Note that a wave has seen its own commands complete, those that carry no mark any more. -/
def State.noteSeen (s : State) (wk : Nat) : State :=
  match s.wave wk with
  | none => s
  | some w =>
      { s with cmdLog := s.cmdLog.map fun (x : Nat × CmdMem) =>
          (x.1, if x.2.wave = wk ∧ !thas x.2.known wk ∧ x.1 ∉ w.unseenCmds then { x.2 with known := tput x.2.known wk s.stamp } else x.2) }

/-- A wave has taken a command's completion record, an acquire of its writes (R226). -/
def State.noteTaken (s : State) (wk id : Nat) : State :=
  { s with stamp := s.stamp + 1, cmdLog := tmod s.cmdLog id fun c => { c with known := tput c.known wk (s.stamp + 1) } }

/-- The part of a command's bytes that a wave, by what it has heard, does not find complete (R226). -/
def State.cmdUnknown (s : State) (wk : Nat) (hs : List Heard) (unseen : List Nat) (id : Nat) (c : CmdMem) (gs : List Seg) : List Seg :=
  if s.launchEnded c.wave then []
  else if c.wave = wk then (if id ∈ unseen && !thas c.known wk then gs else [])
  else c.known.foldl (fun gs x => if x.1 = wk then [] else unheard hs x.1 x.2 gs) gs

/-! ## Releases and acquires -/

/-- What happens before a release of a wave that carries the bytes `c`. -/
def State.publish (s : State) (wk : Nat) (c : Option (List Seg)) : State × List Heard :=
  let s := ({ s with stamp := s.stamp + 1 } : State).noteSeen wk
  let hs := ((s.wave wk).map Wave.seen).getD []
  (s, addHeard (hs.filterMap fun h => h.within c) ⟨c, [(wk, s.stamp)]⟩)

/-- An acquire of a wave, which carries the bytes `c`: what is heard happens before its later events. -/
def State.learn (s : State) (wk : Nat) (c : Option (List Seg)) (hs : List Heard) : State :=
  s.modWave wk fun w => { w with seen := joinHeard w.seen (hs.filterMap fun h => h.within c) }

/-- The scope instance around wave `a` includes wave `b` (Table 14-2). -/
def State.scopeHas (s : State) (scope a b : Nat) : Bool :=
  match scope with
  | 0 => a == b
  | 1 => a / 32 == b / 32
  | 2 => a / 512 == b / 512
  | 3 => (s.team (a / 32)).map Team.die == (s.team (b / 32)).map Team.die
  | _ => true

/-- Number of an object: a flag word, an element of a ring, a tile, the STEPMK of a launch. -/
def objFlag (p : Place) : Nat :=
  4 * (match p with
    | .phys pa _ _ => pa
    | .glob va => 2 ^ 64 + va
    | .scr t o => 2 ^ 66 + t * 2 ^ 20 + o
    | .reg w n l b => 2 ^ 240 + ((w * 256 + n) * 32 + l) * 4 + b)
def objElem (block : Place) (k : Nat) : Nat := objFlag block * 2 ^ 66 + 4 * k + 1
def objTile (die ix gen : Nat) : Nat := 4 * ((die * 65536 + ix) * 65536 + gen) + 2
def objStep (launch : Nat) : Nat := 4 * launch + 3

/-- A release of a wave on an object (R220). -/
def State.releaseOn (s : State) (obj wk scope : Nat) (c : Option (List Seg)) : State :=
  let (s, hs) := s.publish wk c
  { s with syncs := tput s.syncs obj (((tget s.syncs obj []).filter fun r => r.wave != wk || r.scope != scope) ++ [⟨wk, scope, hs⟩]) }

/-- An acquire of a wave on an object: it hears the releases whose scope and its own include each other's wave (R220). -/
def State.acquireOn (s : State) (obj wk scope : Nat) (c : Option (List Seg)) : State :=
  (tget s.syncs obj []).foldl (fun s r =>
    if s.scopeHas r.scope r.wave wk && s.scopeHas scope wk r.wave then s.learn wk c r.seen else s) s

/-- Waves that meet: what happened before any of them happens before what comes after in each. -/
def State.meet (s : State) (wks : List Nat) : State :=
  let (s, hs) := wks.foldl (fun (x : State × List Heard) wk =>
    let (s, ks) := x.1.publish wk none
    (s, joinHeard x.2 ks)) (s, [])
  wks.foldl (fun s wk => s.learn wk none hs) s

/-- The ranges of some bindings, as places. -/
def bindSegs (bs : List BindEntry) : List Seg := bs.map fun b => ⟨.glob (b.start.toNat % 2 ^ 57), b.len⟩

/-! ## Fences (R221) -/

/-- Fences that come before the writes that a wave reads at some places. -/
def State.fencesAt (s : State) (wk : Nat) (gs : List Seg) : List Nat :=
  gs.flatMap fun g => (List.range g.len).flatMap fun k =>
    (match g.place with
      | .phys pa _ _ => tget s.memBy (pa + k) []
      | .scr t o => (tfind (((s.team t).map Team.writers).getD []) (o + k)).toList
      | _ => []).filterMap fun (x : Writer) => if x.wave = wk then none else x.fence

/-- A wave has read some places. -/
def State.noteRead (s : State) (wk : Nat) (gs : List Seg) : State :=
  let fs := s.fencesAt wk gs
  if fs.isEmpty then s
  else s.modWave wk fun w => { w with metFences := fs.foldl (fun t f => if f ∈ t then t else t ++ [f]) w.metFences }

/-- An operation of a wave has written some places. -/
def State.noteWrite (s : State) (wk id : Nat) (fence : Option Nat) (gs : List Seg) (handle : Bool := false) : State :=
  let s := { s with stamp := s.stamp + 1 }
  gs.foldl (fun s g => match g.place with
    | .phys pa _ _ => { s with memBy := (List.range g.len).foldl (fun m k =>
        tput m (pa + k) (((tget m (pa + k) []).filter fun x => x.wave != wk) ++ [⟨wk, id, s.stamp, fence, handle⟩])) s.memBy }
    | .scr t off => s.modTeam t fun tm => { tm with writers := (List.range g.len).foldl (fun m k =>
        tmod m (off + k) fun x => { x with fence := fence }) tm.writers }
    | _ => s) s

/-- A handle slot receives a handle by HSTM or by a transfer (R344, R349). -/
def State.slotStored (s : State) (pa : Nat) (h : HWord) : State := { s with hslots := tset s.hslots (pa / 16) h 0 }

/-- What was written to a slot counts no more: a transfer has filled it. -/
def State.slotFresh (s : State) (pa : Nat) : State :=
  { s with memBy := (List.range 16).foldl (fun m k => tdel m (pa / 16 * 16 + k)) s.memBy }

/-- A FENCE of a wave completes: it pairs with the fences that precede what the wave has read, and is noted itself. -/
def State.fenceOf (s : State) (wk scope : Nat) : State :=
  let met := ((s.wave wk).map Wave.metFences).getD []
  let s := met.foldl (fun s f => match tfind s.fences f with
    | some r => if s.scopeHas r.scope r.wave wk && s.scopeHas scope wk r.wave then s.learn wk none r.seen else s
    | none => s) s
  let (s, hs) := s.publish wk none
  ({ s with fences := tput s.fences s.stamp ⟨wk, scope, hs⟩ } : State).modWave wk fun w =>
    { w with lastFence := some s.stamp, metFences := [] }

end Sys2Proof.Machine
end

