-- ==== Sys2Proof/Machine/Float.lean ====
section
/-! DEFINITION. Floating-point values and their arithmetic: the formats of Table 8-1, exact values, the one
rounding of R130 to R133, and the correctly rounded functions of R149, computed as exact rationals and, for
the functions that are not rational, as intervals with outward rounding. -/

namespace Sys2Proof.Machine

/-- A floating-point format of Table 8-1: exponent and fraction widths and bias; `sat` is E4M3. -/
structure Fmt where
  w : Nat
  f : Nat
  b : Int
  sat : Bool := false
  deriving DecidableEq, Repr

def fp32 : Fmt := ⟨8, 23, 127, false⟩
def fp16 : Fmt := ⟨5, 10, 15, false⟩
def bf16 : Fmt := ⟨8, 7, 127, false⟩
def e4m3 : Fmt := ⟨4, 3, 7, true⟩
def fp64 : Fmt := ⟨11, 52, 1023, false⟩

/-- The format of a type code. -/
def ftyFmt : FTy → Fmt
  | .f32 => fp32
  | .f16 => fp16
  | .bf16 => bf16
  | .e4m3 => e4m3

/-- Bit of the sign. -/
def Fmt.signBit (t : Fmt) : Nat := 2 ^ (t.w + t.f)
/-- Infinity of positive sign (Table 8-1); E4M3 has none. -/
def Fmt.inf (t : Fmt) : Nat := (2 ^ t.w - 1) * 2 ^ t.f
/-- Largest finite value (Table 8-1). -/
def Fmt.maxFin (t : Fmt) : Nat := if t.sat then 2 ^ (t.w + t.f) - 2 else t.inf - 1
/-- Canonical NaN (Table 8-1). -/
def Fmt.nan (t : Fmt) : Nat := if t.sat then 2 ^ (t.w + t.f) - 1 else t.inf + 2 ^ (t.f - 1)
/-- A sign with a magnitude. -/
def Fmt.signed (t : Fmt) (s : Bool) (m : Nat) : Nat := if s then t.signBit + m else m

/-- The value of an encoding (R125): a finite one is (−1)^s m 2^e. -/
inductive FVal where
  | nan
  | inf (s : Bool)
  | fin (s : Bool) (m : Nat) (e : Int)
  deriving DecidableEq, Repr

/-- The value of an encoding (R125). -/
def Fmt.dec (t : Fmt) (x : Nat) : FVal :=
  let s := x / t.signBit % 2 == 1
  let e := x / 2 ^ t.f % 2 ^ t.w
  let m := x % 2 ^ t.f
  if t.sat && x % t.signBit == t.nan then .nan
  else if !t.sat && e == 2 ^ t.w - 1 then (if m = 0 then .inf s else .nan)
  else if e = 0 then .fin s m (1 - t.b - t.f)
  else .fin s (2 ^ t.f + m) (e - t.b - t.f)

def FVal.isNan : FVal → Bool | .nan => true | _ => false
def FVal.isInf : FVal → Bool | .inf _ => true | _ => false
def FVal.isFin : FVal → Bool | .fin _ _ _ => true | _ => false
def FVal.isZero : FVal → Bool | .fin _ 0 _ => true | _ => false
def FVal.sign : FVal → Bool | .nan => false | .inf s => s | .fin s _ _ => s
def FVal.neg : FVal → FVal | .nan => .nan | .inf s => .inf (!s) | .fin s m e => .fin (!s) m e
def FVal.abs : FVal → FVal | .nan => .nan | .inf _ => .inf false | .fin _ m e => .fin false m e

/-! ## Exact rationals -/

/-- The rational n / d · 2^e, with d above 0. -/
structure Frac where
  n : Int
  d : Nat := 1
  e : Int := 0
  deriving DecidableEq, Repr

def Frac.ofInt (x : Int) : Frac := { n := x }

/-- The exact value; 0 where there is none. -/
def FVal.frac : FVal → Frac
  | .fin s m e => { n := if s then -(m : Int) else m, e := e }
  | _ => { n := 0 }

def Frac.neg (a : Frac) : Frac := { a with n := -a.n }
def Frac.abs (a : Frac) : Frac := { a with n := a.n.natAbs }
def Frac.mul (a b : Frac) : Frac := ⟨a.n * b.n, a.d * b.d, a.e + b.e⟩
/-- The quotient; b is not 0. -/
def Frac.div (a b : Frac) : Frac :=
  ⟨if b.n < 0 then -(a.n * b.d) else a.n * b.d, a.d * b.n.natAbs, a.e - b.e⟩
/-- The exact sum. -/
def Frac.add (a b : Frac) : Frac :=
  if a.n = 0 then b else if b.n = 0 then a else
  let e := min a.e b.e
  if a.d = b.d then ⟨a.n * 2 ^ (a.e - e).toNat + b.n * 2 ^ (b.e - e).toNat, a.d, e⟩
  else ⟨a.n * b.d * 2 ^ (a.e - e).toNat + b.n * a.d * 2 ^ (b.e - e).toNat, a.d * b.d, e⟩
def Frac.sub (a b : Frac) : Frac := a.add b.neg
def Frac.lt (a b : Frac) : Bool := decide ((a.sub b).n < 0)
def Frac.le (a b : Frac) : Bool := decide ((a.sub b).n ≤ 0)
def Frac.eq (a b : Frac) : Bool := decide ((a.sub b).n = 0)

/-! ## Rounding (R130) -/

/-- Whether a magnitude that lies `rem / den` above an integer of parity `odd` is rounded up. -/
def roundsUp (r : Rnd) (s odd : Bool) (rem den : Nat) : Bool :=
  match r with
  | .rn => den < 2 * rem || (2 * rem == den && odd)
  | .rz => false
  | .ru => !s && rem != 0
  | .rd => s && rem != 0

/-- The overflow result (Table 8-3), of magnitude. -/
def Fmt.overflow (t : Fmt) (r : Rnd) (s : Bool) : Nat :=
  if t.sat then t.maxFin
  else match r with
    | .rn => t.inf
    | .rz => t.maxFin
    | .ru => if s then t.maxFin else t.inf
    | .rd => if s then t.inf else t.maxFin

/-- Round n / d · 2^e, n and d above 0, to a magnitude of the format (R130): `k` is the exponent of the
leading bit and `q` that of the last place. -/
def Fmt.roundMag (t : Fmt) (r : Rnd) (s : Bool) (n d : Nat) (e : Int) : Nat :=
  let k0 : Int := (Nat.log2 n : Int) - Nat.log2 d
  let ge : Bool := if 0 ≤ k0 then d * 2 ^ k0.toNat ≤ n else d ≤ n * 2 ^ (-k0).toNat
  let k : Int := (if ge then k0 else k0 - 1) + e
  let qmin : Int := 1 - t.b - t.f
  let emax : Int := 2 ^ t.w - t.b
  if emax < k then t.overflow r s
  else if k < qmin - 2 then (if roundsUp r s false 1 8 then 1 else 0)
  else
    let q := max (k - t.f) qmin
    let num := if q ≤ e then n * 2 ^ (e - q).toNat else n
    let den := if q ≤ e then d else d * 2 ^ (q - e).toNat
    let m := num / den
    let m' := if roundsUp r s (m % 2 == 1) (num % den) den then m + 1 else m
    let bits := (q - qmin).toNat * 2 ^ t.f + m'
    if t.maxFin < bits then t.overflow r s else bits

/-- Round a rational; an exact zero takes the sign `z`. -/
def Fmt.roundFrac (t : Fmt) (r : Rnd) (z : Bool) (x : Frac) : Nat :=
  if x.n = 0 then t.signed z 0
  else
    let s : Bool := decide (x.n < 0)
    t.signed s (t.roundMag r s x.n.natAbs x.d x.e)

/-- A value in another format (R133): a NaN is canonical, an infinity converted to E4M3 saturates. -/
def Fmt.convert (t : Fmt) (r : Rnd) (v : FVal) : Nat :=
  match v with
  | .nan => t.nan
  | .inf s => t.signed s (if t.sat then t.maxFin else t.inf)
  | .fin s m e => t.roundFrac r s { n := if s then -(m : Int) else m, e := e }

/-- Round to an integer (R133). -/
def Frac.toInt (r : Rnd) (x : Frac) : Int :=
  let s : Bool := decide (x.n < 0)
  let num := x.n.natAbs * 2 ^ x.e.toNat
  let den := x.d * 2 ^ (-x.e).toNat
  let m := num / den
  let m' : Int := if roundsUp r s (m % 2 == 1) (num % den) den then m + 1 else m
  if s then -m' else m'

/-! ## Sums and products -/

/-- The exact product; 0 × ∞ is a NaN. -/
def FVal.mul : FVal → FVal → FVal
  | .nan, _ => .nan
  | _, .nan => .nan
  | .inf s, .inf u => .inf (s != u)
  | .inf s, .fin u m _ => if m = 0 then .nan else .inf (s != u)
  | .fin u m _, .inf s => if m = 0 then .nan else .inf (s != u)
  | .fin s m e, .fin u n g => .fin (s != u) (m * n) (e + g)

/-- The exact sum of addends, rounded once to nearest (R131, R132). -/
def Fmt.sum (t : Fmt) (xs : List FVal) : Nat :=
  if xs.any FVal.isNan then t.nan
  else if xs.any (fun x => x == .inf false) && xs.any (fun x => x == .inf true) then t.nan
  else if xs.any (fun x => x == .inf false) then t.signed false t.inf
  else if xs.any (fun x => x == .inf true) then t.signed true t.inf
  else
    let z := xs.all fun x => x.isZero && x.sign
    t.roundFrac .rn z (xs.foldl (fun a x => a.add x.frac) { n := 0 })

/-- a + b, a − b, a × b and a × b + c, each rounded once (Table 9-2). -/
def Fmt.add (t : Fmt) (a b : Nat) : Nat := t.sum [t.dec a, t.dec b]
def Fmt.sub (t : Fmt) (a b : Nat) : Nat := t.sum [t.dec a, (t.dec b).neg]
def Fmt.mul (t : Fmt) (a b : Nat) : Nat := t.convert .rn ((t.dec a).mul (t.dec b))
def Fmt.fma (t : Fmt) (a b c : Nat) : Nat := t.sum [(t.dec a).mul (t.dec b), t.dec c]

/-- a / b (Table 9-4). -/
def Fmt.div (t : Fmt) (a b : Nat) : Nat :=
  let x := t.dec a
  let y := t.dec b
  let s := x.sign != y.sign
  match x, y with
  | .nan, _ => t.nan
  | _, .nan => t.nan
  | .inf _, .inf _ => t.nan
  | .inf _, .fin _ _ _ => t.signed s t.inf
  | .fin _ _ _, .inf _ => t.signed s 0
  | .fin _ m _, .fin _ n _ =>
      if n = 0 then (if m = 0 then t.nan else t.signed s t.inf)
      else t.roundFrac .rn s (x.frac.div y.frac)

/-- The integer square root, one binary digit of the result for each of the `k` pairs of digits of `n` that
remain. -/
def isqrtAux (n : Nat) : Nat → Nat → Nat
  | 0, r => r
  | k + 1, r =>
      let c := r + 2 ^ k
      isqrtAux n k (if c * c ≤ n then c else r)

/-- A rational with the same rounding as the square root of a positive finite value: the root to `p` places
with a sticky place below. -/
def sqrtFrac (m : Nat) (e : Int) : Frac :=
  let sh := 2 * (64 - min 64 (Nat.log2 m / 2)) + (e % 2).toNat + 64
  let n := m * 2 ^ sh
  let r := isqrtAux n (Nat.log2 n / 2 + 1) 0
  { n := 2 * r + (if r * r = n then 0 else 1), e := (e - sh) / 2 - 1 }

/-- √a (Table 9-4). -/
def Fmt.sqrt (t : Fmt) (a : Nat) : Nat :=
  match t.dec a with
  | .nan => t.nan
  | .inf s => if s then t.nan else t.signed false t.inf
  | .fin s m e =>
      if m = 0 then t.signed s 0
      else if s then t.nan
      else t.roundFrac .rn false (sqrtFrac m e)

/-- 1 / √a (Table 9-4): the reciprocal of a root taken to many more places than the format has. -/
def Fmt.rsqrt (t : Fmt) (a : Nat) : Nat :=
  match t.dec a with
  | .nan => t.nan
  | .inf s => if s then t.nan else t.signed false 0
  | .fin s m e =>
      if m = 0 then t.signed s t.inf
      else if s then t.nan
      else t.roundFrac .rn false ((Frac.ofInt 1).div (sqrtFrac m e))

/-! ## Selection and comparison -/

/-- The order of FMIN (R145): −0 lies below +0. -/
def Fmt.below (t : Fmt) (a b : Nat) : Bool :=
  match t.dec a, t.dec b with
  | .inf s, .inf u => s && !u
  | .inf s, _ => s
  | _, .inf u => !u
  | x, y => if x.isZero && y.isZero then x.sign && !y.sign else x.frac.lt y.frac

/-- Which operand FMIN, or FMAX, selects: 0 a, 1 b, none when both are NaN (R145). -/
def Fmt.selects (t : Fmt) (max_ : Bool) (a b : Nat) : Option Nat :=
  match (t.dec a).isNan, (t.dec b).isNan with
  | true, true => none
  | true, false => some 1
  | false, true => some 0
  | false, false => if (if max_ then t.below a b else t.below b a) then some 1 else some 0

/-- FMIN, FMAX (R145). -/
def Fmt.minMax (t : Fmt) (max_ : Bool) (a b : Nat) : Nat :=
  match t.selects max_ a b with
  | none => t.nan
  | some 0 => a
  | some _ => b

/-! ## Exactly rounded functions (R149)

An interval holds integers that bound a real value times 2^p. -/

structure Iv where
  lo : Int
  hi : Int
  deriving DecidableEq, Repr

/-- Shift right, rounding down and up. -/
def sdn (x : Int) (p : Nat) : Int := x / 2 ^ p
def sup (x : Int) (p : Nat) : Int := -((-x) / 2 ^ p)

def Iv.add (a b : Iv) : Iv := ⟨a.lo + b.lo, a.hi + b.hi⟩
def Iv.neg (a : Iv) : Iv := ⟨-a.hi, -a.lo⟩
def Iv.sub (a b : Iv) : Iv := a.add b.neg
def Iv.mul (p : Nat) (a b : Iv) : Iv :=
  let x := [a.lo * b.lo, a.lo * b.hi, a.hi * b.lo, a.hi * b.hi]
  ⟨sdn (x.foldl min (a.lo * b.lo)) p, sup (x.foldl max (a.lo * b.lo)) p⟩
/-- Divide by a positive integer. -/
def Iv.divNat (a : Iv) (n : Nat) : Iv := ⟨a.lo / n, -((-a.hi) / n)⟩
/-- Widen by an error of `x`. -/
def Iv.widen (a : Iv) (x : Int) : Iv := ⟨a.lo - x, a.hi + x⟩
/-- The quotient by an interval of positive numbers. -/
def Iv.div (p : Nat) (a b : Iv) : Iv :=
  let f (x y : Int) : Int := x * 2 ^ p / y
  let g (x y : Int) : Int := -((-(x * 2 ^ p)) / y)
  ⟨min (f a.lo b.lo) (f a.lo b.hi), max (g a.hi b.lo) (g a.hi b.hi)⟩
/-- Largest magnitude. -/
def Iv.mag (a : Iv) : Int := max a.lo.natAbs a.hi.natAbs
/-- The interval of a rational. -/
def Iv.ofFrac (p : Nat) (x : Frac) : Iv :=
  let e := x.e + p
  let num := x.n * 2 ^ e.toNat
  let den : Int := x.d * 2 ^ (-e).toNat
  ⟨num / den, -((-num) / den)⟩

/-- Σ t_k for the terms t_0 and t_{k+1} = t_k · z / c(k), `n` of them, and the last term. -/
def series (p : Nat) (z : Iv) (c : Nat → Nat) : Nat → Nat → Iv → Iv → Iv × Iv
  | 0, _, t, s => (s, t)
  | n + 1, k, t, s =>
      let t' := (t.mul p z).divNat (c k)
      series p z c n (k + 1) t' (s.add t')

/-- Σ z^(2k+1) / (2k+1) from the power z^(2k+1), `n` terms, with alternating signs when `alt`. -/
def oddSeries (p : Nat) (z2 : Iv) (alt : Bool) : Nat → Nat → Iv → Iv → Iv × Iv
  | 0, _, t, s => (s, t)
  | n + 1, k, t, s =>
      let term := t.divNat (2 * k + 1)
      oddSeries p z2 alt n (k + 1) (t.mul p z2) (s.add (if alt && k % 2 == 1 then term.neg else term))

/-- artanh z, and arctan z, for |z| up to 1/3. -/
def artanh (p : Nat) (z : Iv) : Iv :=
  let r := oddSeries p (z.mul p z) false (p / 3 + 4) 0 z ⟨0, 0⟩
  r.1.widen (2 * r.2.mag + 2)
def arctanInv (p k : Nat) : Iv :=
  let z := Iv.ofFrac p ((Frac.ofInt 1).div (Frac.ofInt k))
  let r := oddSeries p (z.mul p z) true (p / 4 + 4) 0 z ⟨0, 0⟩
  r.1.widen (2 * r.2.mag + 2)

/-- ln 2 = 2 artanh (1/3). -/
def ivLn2 (p : Nat) : Iv :=
  let a := artanh p (Iv.ofFrac p ((Frac.ofInt 1).div (Frac.ofInt 3)))
  a.add a
/-- π = 16 arctan (1/5) − 4 arctan (1/239). -/
def ivPi (p : Nat) : Iv :=
  let a := arctanInv p 5
  let b := arctanInv p 239
  ⟨16 * a.lo - 4 * b.hi, 16 * a.hi - 4 * b.lo⟩

/-- e^z for |z| up to 1. -/
def ivExp (p : Nat) (z : Iv) : Iv :=
  let one : Iv := ⟨2 ^ p, 2 ^ p⟩
  let r := series p z (fun k => k + 1) (p / 4 + 8) 0 one one
  r.1.widen (3 * r.2.mag + 3)

/-- sin z and cos z for |z| up to 1. -/
def ivSin (p : Nat) (z : Iv) : Iv :=
  let r := series p ((z.mul p z).neg) (fun k => (2 * k + 2) * (2 * k + 3)) (p / 8 + 8) 0 z z
  r.1.widen (3 * r.2.mag + 3)
def ivCos (p : Nat) (z : Iv) : Iv :=
  let one : Iv := ⟨2 ^ p, 2 ^ p⟩
  let r := series p ((z.mul p z).neg) (fun k => (2 * k + 1) * (2 * k + 2)) (p / 8 + 8) 0 one one
  r.1.widen (3 * r.2.mag + 3)

/-- A real value: an interval times 2^(k − p). -/
structure Real where
  iv : Iv
  k : Int := 0
  deriving DecidableEq, Repr

/-- e^x for a rational x of magnitude up to 2^10. -/
def rExp (p : Nat) (x : Frac) : Real :=
  let l := ivLn2 p
  let z := Iv.ofFrac p x
  let k := (z.lo + l.lo / 2) / l.lo
  ⟨ivExp p (z.sub ⟨min (k * l.lo) (k * l.hi), max (k * l.lo) (k * l.hi)⟩), k⟩

/-- 2^x for a rational x of magnitude up to 2^10. -/
def rExp2 (p : Nat) (x : Frac) : Real :=
  let k := x.toInt .rn
  ⟨ivExp p ((Iv.ofFrac p (x.sub (Frac.ofInt k))).mul p (ivLn2 p)), k⟩

/-- ln x for x = m 2^e, m above 0. -/
def rLog (p : Nat) (m : Nat) (e : Int) : Real :=
  let b := Nat.log2 m
  -- x = f 2^k with f in [2/3, 4/3]
  let up : Bool := 4 * 2 ^ b < 3 * m
  let k : Int := e + b + (if up then 1 else 0)
  let f : Frac := ⟨m, 1, e - k⟩
  let a := artanh p (Iv.ofFrac p ((f.sub (Frac.ofInt 1)).div (f.add (Frac.ofInt 1))))
  let l := ivLn2 p
  ⟨(a.add a).add ⟨min (k * l.lo) (k * l.hi), max (k * l.lo) (k * l.hi)⟩, 0⟩

/-- log2 x. -/
def rLog2 (p : Nat) (m : Nat) (e : Int) : Real := ⟨(rLog p m e).iv.div p (ivLn2 p), 0⟩

/-- sin x, or cos x when `c`, with x reduced exactly by multiples of π / 2. -/
def rSinCos (p : Nat) (c : Bool) (x : Frac) : Real :=
  let pi := ivPi p
  let z := Iv.ofFrac p x
  let j := (2 * z.lo + pi.lo / 2) / pi.lo
  let r := z.sub ⟨min (j * pi.lo) (j * pi.hi) / 2, -((-(max (j * pi.lo) (j * pi.hi))) / 2)⟩
  let q := ((if c then j + 1 else j) % 4).toNat
  let v := if q % 2 = 0 then ivSin p r else ivCos p r
  ⟨if q < 2 then v else v.neg, 0⟩

/-- Round a real value whose interval decides the rounding. -/
def Fmt.roundReal (t : Fmt) (p : Nat) (x : Real) : Option Nat :=
  let a := t.roundFrac .rn false ⟨x.iv.lo, 1, x.k - p⟩
  let b := t.roundFrac .rn false ⟨x.iv.hi, 1, x.k - p⟩
  if a = b then some a else none

/-- The correct rounding of a real value that is given to any precision: precisions rise until the interval
decides, which a value that is neither a number of the format nor a midpoint does. -/
def Fmt.decide (t : Fmt) (f : Nat → Real) : Nat :=
  match t.roundReal 448 (f 448) with
  | some x => x
  | none =>
      match t.roundReal 1024 (f 1024) with
      | some x => x
      | none => t.roundFrac .rn false ⟨(f 4096).iv.lo, 1, (f 4096).k - 4096⟩

/-- The functions of R149 with one operand. -/
inductive Fn where
  | sqrt | rcp | rsq | exp | exp2 | log | log2 | sin | cos | tanh | sigm
  deriving DecidableEq, Repr

/-- The FP32 value 1.0. -/
abbrev one32 : Nat := 0x3F800000

/-- The value of a function of R149 (Table 9-4). -/
def Fn.eval (f : Fn) (a : Nat) : Nat :=
  let t := fp32
  match f, t.dec a with
  | .sqrt, _ => t.sqrt a
  | .rcp, _ => t.div one32 a
  | .rsq, _ => t.rsqrt a
  | _, .nan => t.nan
  | .exp, .inf s | .exp2, .inf s => if s then 0 else t.inf
  | .log, .inf s | .log2, .inf s => if s then t.nan else t.inf
  | .sin, .inf _ | .cos, .inf _ => t.nan
  | .tanh, .inf s => t.signed s one32
  | .sigm, .inf s => if s then 0 else one32
  | .exp, .fin s m e =>
      if m = 0 then one32
      else if (Frac.ofInt 200).lt (FVal.fin s m e).frac.abs then (if s then 0 else t.inf)
      else t.decide fun p => rExp p (FVal.fin s m e).frac
  | .exp2, .fin s m e =>
      let x := (FVal.fin s m e).frac
      if (Frac.ofInt 200).lt x.abs then (if s then 0 else t.inf)
      else if (x.sub (Frac.ofInt (x.toInt .rz))).n = 0 then t.roundFrac .rn false ⟨1, 1, x.toInt .rz⟩
      else t.decide fun p => rExp2 p x
  | .log, .fin s m e =>
      if m = 0 then t.signed true t.inf
      else if s then t.nan
      else if a = one32 then 0
      else t.decide fun p => rLog p m e
  | .log2, .fin s m e =>
      if m = 0 then t.signed true t.inf
      else if s then t.nan
      else if m = 2 ^ Nat.log2 m then t.roundFrac .rn false (Frac.ofInt (e + Nat.log2 m))
      else t.decide fun p => rLog2 p m e
  | .sin, .fin s m e =>
      if m = 0 then a else t.decide fun p => rSinCos p false (FVal.fin s m e).frac
  | .cos, .fin s m e =>
      if m = 0 then one32 else t.decide fun p => rSinCos p true (FVal.fin s m e).frac
  | .tanh, .fin s m e =>
      let x := (FVal.fin s m e).frac
      if m = 0 then a
      else if (Frac.ofInt 32).lt x.abs then t.signed s one32
      else t.decide fun p =>
        let y := rExp p (x.abs.mul (Frac.ofInt (-2)))
        let v : Iv := ⟨sdn y.iv.lo (-y.k).toNat, sup y.iv.hi (-y.k).toNat⟩
        let o : Iv := ⟨2 ^ p, 2 ^ p⟩
        let q := (o.sub v).div p (o.add v)
        ⟨if s then q.neg else q, 0⟩
  | .sigm, .fin s m e =>
      let x := (FVal.fin s m e).frac
      if m = 0 then 0x3F000000
      else if (Frac.ofInt 200).lt x.abs then (if s then 0 else one32)
      else t.decide fun p =>
        -- e^(−|x|) is at most 1; the value is e / (1 + e) for a negative x, 1 / (1 + e) for a positive one
        let y := rExp p x.abs.neg
        let v : Iv := ⟨sdn y.iv.lo (-y.k).toNat, sup y.iv.hi (-y.k).toNat⟩
        let o : Iv := ⟨2 ^ p, 2 ^ p⟩
        if s then ⟨y.iv.div p (o.add v), y.k⟩ else ⟨o.div p (o.add v), 0⟩

end Sys2Proof.Machine
end

