-- ==== Sys2Proof/Machine/Flags.lean ====
section
/-! DEFINITION. The conditions that write predicates: integer compares (R103), floating-point compares (R146,
R152), the class word of FCLASS (R147) and the votes of R118. The machine has no status flags (R127). -/

namespace Sys2Proof

open Sys2Proof.Machine

/-- A 32-bit value read as TYPE (R101). -/
def Ty.int (t : Ty) (x : Word) : Int :=
  match t with
  | .s32 => x.toInt
  | .u32 => (x.toNat : Int)

/-- Smallest and largest value of TYPE. -/
def Ty.min : Ty → Int | .s32 => -2147483648 | .u32 => 0
def Ty.max : Ty → Int | .s32 => 2147483647 | .u32 => 4294967295

/-- Clamp an exact integer to TYPE's range (R101, R105, R133). -/
def Ty.clamp (t : Ty) (x : Int) : Word :=
  BitVec.ofInt 32 (if x < Ty.min t then Ty.min t else if Ty.max t < x then Ty.max t else x)

/-- The condition of ISETP (R103). -/
def ICmp.holds (c : ICmp) (a b : Int) : Bool :=
  match c with
  | .eq => a == b
  | .ne => a != b
  | .lt => a < b
  | .le => a ≤ b
  | .gt => b < a
  | .ge => b ≤ a

/-- The pair is ordered (R146). -/
def ordered (t : Fmt) (a b : Nat) : Bool := !(t.dec a).isNan && !(t.dec b).isNan

/-- Compare two ordered values: negative, zero or positive; −0 and +0 are equal. -/
def fcompare (t : Fmt) (a b : Nat) : Int :=
  match t.dec a, t.dec b with
  | .inf s, .inf u => if s = u then 0 else if s then -1 else 1
  | .inf s, _ => if s then -1 else 1
  | _, .inf u => if u then 1 else -1
  | x, y => (x.frac.sub y.frac).n

/-- The condition of FSETP (R146). -/
def FCmp.holds (c : FCmp) (t : Fmt) (a b : Nat) : Bool :=
  let o := ordered t a b
  match c with
  | .eq => o && fcompare t a b == 0
  | .ne => o && fcompare t a b != 0
  | .lt => o && fcompare t a b < 0
  | .le => o && fcompare t a b ≤ 0
  | .gt => o && 0 < fcompare t a b
  | .ge => o && 0 ≤ fcompare t a b
  | .num => o
  | .nan => !o

/-- Ordered and not the condition: what the second destination receives (R146). -/
def FCmp.fails (c : FCmp) (t : Fmt) (a b : Nat) : Bool := ordered t a b && !c.holds t a b

/-- The low and the high half of a lane. -/
def loHalf (x : Nat) : Nat := x % 65536
def hiHalf (x : Nat) : Nat := x / 65536 % 65536

/-- A condition over the halves that HALF selects (R152). -/
def Half.allOf (h : Half) (p : Nat → Nat → Bool) (a b : Nat) : Bool :=
  match h with
  | .both => p (loHalf a) (loHalf b) && p (hiHalf a) (hiHalf b)
  | .lo => p (loHalf a) (loHalf b)
  | .hi => p (hiHalf a) (hiHalf b)

/-- The class word of FCLASS (R147). -/
def fclassWord (a : Nat) : Word :=
  match fp32.dec a with
  | .nan => 256
  | .inf s => if s then 1 else 128
  | .fin s m _ =>
      if m = 0 then (if s then 8 else 16)
      else if m < 2 ^ 23 then (if s then 4 else 32)
      else (if s then 2 else 64)

/-- Bit of LUT that three predicate or data bits select (R101, R107). -/
def lutBit (lut : BitVec 8) (a b c : Bool) : Bool := lut.getLsbD (a.toNat + 2 * b.toNat + 4 * c.toNat)

end Sys2Proof
end

