-- ==== Sys2Proof/Machine/Operands.lean ====
section
/-! DEFINITION. How an instruction reads: the issuing path, its guard and executing lanes (R13, R68, R96),
every operand kind (R73, R95-R99), poison (R67, R68), early reads (R57, R61), and the two permutations that
sys.item and GPERM read (R330, R335). -/

namespace Sys2Proof.Machine

/-! ## Permutations -/

/-- The round function of R330. -/
def feistelF (h x k : Nat) : Nat := ((x ^^^ k) * 0x9E3779B9) % 2 ^ 32 / 2 ^ (32 - h)

/-- One pass of the four rounds (R330). -/
def feistelPass (h seed v : Nat) : Nat :=
  let r := [0, 1, 2, 3].foldl (fun (x : Nat × Nat) i =>
    (x.2, x.1 ^^^ feistelF h x.2 (seed / 2 ^ (16 * i) % 2 ^ h))) (v / 2 ^ h, v % 2 ^ h)
  r.1 * 2 ^ h + r.2

/-- Passes until the value lies below N. -/
def feistelWalk (n h seed : Nat) : Nat → Nat → Nat
  | 0, v => v
  | k + 1, v =>
      let v' := feistelPass h seed v
      if v' < n then v' else feistelWalk n h seed k v'

/-- Half the width: the least h of at least 1 with 4^h ≥ N (R330). -/
def halfWidth (n : Nat) : Nat := ((List.range 17).find? fun h => 1 ≤ h && n ≤ 4 ^ h).getD 16

/-- π(r) under the generator GEN (R330, R335). -/
def permute (gen n seed a c r : Nat) : Nat :=
  if gen = 1 then (a * r + c) % n else feistelWalk n (halfWidth n) seed (4 * n + 4) r

/-! ## The issuing path -/

/-- A value as an instruction reads it. -/
structure Rd where
  val : DWord
  pois : Bool := false
  org : Word := 0
  deriving DecidableEq, Repr

/-- The path that issues, the instruction and what it reads from: `s` is the state at issue, with the
counter decrements of this cycle applied (R59). -/
structure Ctx where
  s : State
  wk : Nat
  slot : Nat
  w : Wave
  p : Path
  i : Instr
  h : Ctl
  deriving DecidableEq, Repr

/-- The hazard makes a read in this cycle undefined (R57, R61). -/
def Hazard.live (z : Hazard) (now : Nat) : Bool :=
  match z.readyAt with
  | some t => now < t
  | none => true

/-- Key of a register in `Wave.unset`. -/
def OneReg.setKey : OneReg → Nat
  | .v n => n
  | .p k => 256 + k
  | .s n => 512 + n

/-- A read of a register lane that R57, R61, R64 or R297 calls undefined. -/
def Wave.undef (w : Wave) (now : Nat) (r : OneReg) (l : Nat) : Bool :=
  w.haz.any (fun z => z.reg == r && z.lanes.getLsbD l && z.live now) || (tget w.unset (OneReg.setKey r) 0).getLsbD l

/-- Key of the free value that an undefined read of a register lane gives (R57). -/
def OneReg.key : OneReg → Nat → Nat
  | .v n, l => 2 ^ 40 + 32 * n + l
  | .s n, _ => 2 ^ 41 + n
  | .p k, l => 2 ^ 42 + 32 * k + l

/-- Lane `l` of vN. -/
def Ctx.rdV (c : Ctx) (n l : Nat) : Rd :=
  if c.w.undef c.s.now (.v n) l then { val := (c.s.free 32 (OneReg.key (.v n) l)).setWidth 64 }
  else
    let x := tget c.w.regs.v (32 * n + l) 0
    { val := x.setWidth 64, pois := (tget c.w.regs.vP n 0).getLsbD l, org := x }

/-- sN, all 64 bits. -/
def Ctx.rdS (c : Ctx) (n : Nat) : Rd :=
  if c.w.undef c.s.now (.s n) 0 then { val := c.s.free 64 (OneReg.key (.s n) 0) }
  else
    let x := tget c.w.regs.s n 0
    { val := x, pois := c.w.regs.sP.getLsbD n, org := x.setWidth 32 }

/-- pK in lane `l`; p7 reads true and never carries poison (R14, R67). -/
def Ctx.rdP (c : Ctx) (k l : Nat) : Rd :=
  if k = 7 then { val := 1 }
  else if c.w.undef c.s.now (.p k) l then { val := (c.s.free 1 (OneReg.key (.p k) l)).setWidth 64 }
  else
    { val := if (tget c.w.regs.p k 0).getLsbD l then 1 else 0
      pois := (tget c.w.regs.pP k 0).getLsbD l
      org := tget c.w.regs.pO k 0 }

/-- A predicate operand with its negation (R99). -/
def Ctx.rdPS (c : Ctx) (a : PSrc) (l : Nat) : Rd :=
  let r := c.rdP a.ix l
  if a.neg then { r with val := if r.val = 0 then 1 else 0 } else r

/-- hN. -/
def Ctx.rdH (c : Ctx) (n : Nat) : HWord := tget c.w.regs.h n 0

/-- The header of the wave's launch. -/
def Ctx.hdr (c : Ctx) : LaunchRec := c.s.hdr c.w
/-- The wave's team. -/
def Ctx.team (c : Ctx) : Team := c.s.teamOf c.w
/-- The core of the wave. -/
def Ctx.ck (c : Ctx) : Nat := coreKey c.w.die c.w.core
/-- The stage descriptor of the wave's team. -/
def Ctx.stage (c : Ctx) : Stage := c.hdr.stages.getD (stageOf c.hdr c.team.lti) ⟨0, 0, 1, 0⟩

/-- Rank of a lane of a wave in an estimating launch (R329). -/
def State.rank (s : State) (w : Wave) (l : Nat) : Nat :=
  let h := s.hdr w
  let t := s.teamOf w
  (t.cluster * h.n + teamInStage h t.lti) * (h.stages.getD 0 ⟨0, 0, 1, 0⟩).threads + 32 * w.ix + l

/-- sys.item of a lane (R329, Table 6-6). -/
def State.item (s : State) (w : Wave) (l : Nat) : Nat :=
  match (s.launch w.launch).bind Launch.est with
  | none => 0
  | some e =>
      let r := s.rank w l
      if r < e.n then permute e.gen e.n e.seed.toNat e.a.toNat e.c.toNat r else 0

/-- The system registers of Table 6-6. -/
def Ctx.sys (c : Ctx) (n l : Nat) : DWord :=
  let h := c.hdr
  let t := c.team
  match n with
  | 0x00 => BitVec.ofNat 64 l
  | 0x01 => BitVec.ofNat 64 c.w.ix
  | 0x02 => BitVec.ofNat 64 (32 * c.w.ix + l)
  | 0x03 => BitVec.ofNat 64 (teamInStage h t.lti)
  | 0x04 => BitVec.ofNat 64 (stageOf h t.lti)
  | 0x05 => BitVec.ofNat 64 t.cluster
  | 0x06 => BitVec.ofNat 64 (c.s.item c.w l)
  | 0x07 => BitVec.ofNat 64 (((c.s.launch c.w.launch).map Launch.d).getD 0)
  | 0x08 => BitVec.ofNat 64 c.stage.threads
  | 0x09 => BitVec.ofNat 64 h.n
  | 0x0A => BitVec.ofNat 64 h.s
  | 0x0B => BitVec.ofNat 64 h.g
  | 0x0C => BitVec.ofNat 64 h.v
  | 0x0D => BitVec.ofNat 64 (4096 * c.stage.gran)
  | 0x0E => c.s.clock c.ck
  | _ => 0

/-- A 32-bit operand in lane `l` (R96). -/
def Ctx.rd (c : Ctx) (a : Src) (l : Nat) : Rd :=
  match a with
  | .v n => c.rdV n l
  | .s n => let r := c.rdS n; { r with val := (r.val.setWidth 32).setWidth 64 }
  | .sys n => { val := ((c.sys n l).setWidth 32).setWidth 64 }
  | .imm x => { val := x.setWidth 64 }

/-- A register pair vN, vN+1 (R98). -/
def Ctx.rdPair (c : Ctx) (n l : Nat) : Rd :=
  let a := c.rdV n l
  let b := c.rdV (n + 1) l
  { val := a.val + b.val <<< 32, pois := a.pois || b.pois, org := if a.pois then a.org else b.org }

/-- A 64-bit operand in lane `l` (R98); an immediate is sign-extended (Table 7-1). -/
def Ctx.rd64 (c : Ctx) (a : Src) (l : Nat) : Rd :=
  match a with
  | .v n => c.rdPair n l
  | .s n => c.rdS n
  | .sys n => { val := c.sys n l }
  | .imm x => { val := x.signExtend 64 }

/-- The guard in lane `l` (R13). -/
def Ctx.guard (c : Ctx) (l : Nat) : Rd := c.rdPS ⟨c.h.pix, c.h.neg⟩ l

/-- The executing lanes: active lanes whose guard is true, or poisoned (R68, R96). -/
def Ctx.x (c : Ctx) : Mask := maskOf fun l => c.p.mask.getLsbD l && ((c.guard l).pois || (c.guard l).val = 1)

/-- Some active lane executes. -/
def Ctx.any (c : Ctx) : Bool := c.x != 0

/-- The first poisoned input in order, the guard last (R68): what a lane's destinations receive. -/
def Ctx.lane (c : Ctx) (ins : List Rd) (val : DWord) (l : Nat) : Rd :=
  match (ins ++ [c.guard l]).find? Rd.pois with
  | some r => { val := r.org.setWidth 64, pois := true, org := r.org }
  | none => { val := val }

/-- The whole-wave reading of a uniform result: the lowest executing lane, with the first poisoned guard of
any executing lane (R68, R97). -/
def Ctx.uni (c : Ctx) (ins : List Rd) (val : DWord) : Rd :=
  match (ins ++ (lanes c.x).map c.guard).find? Rd.pois with
  | some r => { val := r.org.setWidth 64, pois := true, org := r.org }
  | none => { val := val }

/-! ## Results -/

/-- A result in a vector register: lane `l` of the executing lanes receives `f l`. -/
def Ctx.toV (c : Ctx) (n : Nat) (f : Nat → Rd) : RegWrite :=
  let ls := lanes c.x
  let ps := ls.filter fun l => (f l).pois
  { reg := .v n, mask := c.x
    vals := ls.map fun l => (l, (f l).val)
    pois := maskOf fun l => l ∈ ps
    orig := ps.map fun l => (l, (f l).org) }

/-- A result in a uniform register, written when at least one lane executes (R97). -/
def Ctx.toS (c : Ctx) (n : Nat) (r : Rd) : RegWrite :=
  { reg := .s n, mask := if c.any then 1 else 0
    vals := [(0, r.val)]
    pois := if r.pois then 1 else 0
    orig := if r.pois then [(0, r.org)] else [] }

/-- A result in a predicate: lane `l` of the executing lanes receives bit 0 of `f l`. -/
def Ctx.toP (c : Ctx) (k : Nat) (f : Nat → Rd) : RegWrite := { c.toV 0 f with reg := .p k }

/-- The poison that the guard gives a vector-shaped destination in the executing lanes where it is poisoned (R68). -/
def Ctx.guardTag (c : Ctx) (r : OneReg) : RegWrite :=
  let m := maskOf fun l => c.x.getLsbD l && (c.guard l).pois
  let o (l : Nat) : Word := (c.guard l).org
  { reg := r, mask := m, vals := (lanes m).map fun l => (l, (o l).setWidth 64), pois := m, orig := (lanes m).map fun l => (l, o l) }

/-- A 32-bit lane-wise result (R96, R97): `ins` reads the operands, `f` computes from their values. -/
def Ctx.res (c : Ctx) (d : Dst) (ops : List Src) (f : List DWord → Word) : RegWrite :=
  let ins (l : Nat) : List Rd := ops.map fun a => c.rd a l
  match d with
  | .v n => c.toV n fun l => c.lane (ins l) ((f ((ins l).map Rd.val)).setWidth 64) l
  | .s n =>
      let l := lowest c.x
      c.toS n (c.uni (ins l) ((f ((ins l).map Rd.val)).setWidth 64))

/-- A 64-bit lane-wise result (R98): a pair of vector registers, or a uniform register. -/
def Ctx.res64 (c : Ctx) (d : Dst) (ins : Nat → List Rd) (f : List DWord → DWord) : List RegWrite :=
  match d with
  | .v n =>
      [ c.toV n fun l => let r := c.lane (ins l) (f ((ins l).map Rd.val)) l
                         if r.pois then r else { r with val := (r.val.setWidth 32).setWidth 64 },
        c.toV (n + 1) fun l => let r := c.lane (ins l) (f ((ins l).map Rd.val)) l
                               if r.pois then r else { r with val := r.val >>> 32 } ]
  | .s n =>
      let l := lowest c.x
      [c.toS n (c.uni (ins l) (f ((ins l).map Rd.val)))]

/-! ## Memory operands (R74) -/

/-- The address of a lane: a uniform or a vector base, an index register read as an unsigned 32-bit value
and the sign-extended offset, modulo 2^64. -/
def Ctx.addr (c : Ctx) (m : Addr) (l : Nat) : Rd :=
  let b := if m.am < 2 then c.rdS m.a else c.rdPair m.a l
  let x : Rd := if m.am % 2 = 1 then c.rdV m.x l else { val := 0 }
  { val := b.val + x.val + m.off.signExtend 64
    pois := b.pois || x.pois
    org := if b.pois then b.org else x.org }

/-- sA + offset (R74). -/
def Ctx.sOff (c : Ctx) (a : Nat) (off : BitVec 16) : DWord := (c.rdS a).val + off.signExtend 64

end Sys2Proof.Machine
end

