-- ==== Sys2Proof/Machine/Ops.lean ====
section
/-! DEFINITION. The operations every instruction shares: paths (R24-R33, R47, R56), counters and hazards
(R15, R57-R61), register results with poison (R67), the trace stream (R404-R406), the fault queue
(R154, R155, R178), the hardware's own accesses to a wave's block (R162), taking a fault, its delivery and
the return from a handler (R396-R399, R459), relaxation abandonment (R312), and the issue of a form. -/

namespace Sys2Proof.Machine

/-! ## Instruction addresses and paths -/

/-- The instruction after an address (R47). -/
def nextPc (pc : DWord) : DWord :=
  if pc.toNat % 8 < 4 then pc + 1 else BitVec.ofNat 64 (pc.toNat / 64 * 64 + 64)

/-- The form of an instruction address (R47). -/
def pcForm (pc : DWord) : Bool := pc.toNat / 8 % 8 == 0 && pc.toNat % 8 ≤ 4

/-- An address with the high half of another: the code region of a launch (R51, R108). -/
def inRegion (pc : DWord) (low : Word) : DWord := BitVec.ofNat 64 (pc.toNat / 2 ^ 32 * 2 ^ 32 + low.toNat)

def Wave.slot (w : Wave) (k : Nat) : Option Path := if k = 0 then w.slot0 else w.slot1
def Wave.setSlot (w : Wave) (k : Nat) (p : Option Path) : Wave :=
  if k = 0 then { w with slot0 := p } else { w with slot1 := p }

/-- Path-table index of a live path (R33). -/
def Wave.pathIx (w : Wave) (k : Nat) : Nat := 2 * w.stack.length + k

/-- The address after the path's instruction, with the pinned loop's state there (R116). -/
def Path.succ (p : Path) : DWord × Option LoopSt :=
  match p.loop with
  | none => (nextPc p.pc, none)
  | some l =>
      if p.pc = l.last then
        (if 1 < l.rem then (l.head, some { l with rem := l.rem - 1 }) else (nextPc p.pc, none))
      else (nextPc p.pc, some l)

/-- The path at another address: it has just arrived there. -/
def Path.at (p : Path) (pc : DWord) : Path :=
  { p with pc := pc, rep := none, loop := none, arr := true, refetch := false, miss := false, blk := none, fence := none }

/-- What an issue with a stall count leaves: the hold of R56 and one STEP used up (R401). -/
def Path.issued (p : Path) (stall : Nat) : Path :=
  { p with hold := some (max 1 stall), wait := .none, blk := none, fence := none, refetch := false, miss := false,
           oneStep := false, pass := false }

/-- The path goes on to the next instruction, or repeats (R115). -/
def Path.advance (p : Path) : Path :=
  match p.rep with
  | some (n + 2) => { p with rep := some (n + 1), arr := true }
  | _ => { (p.at p.succ.1) with loop := p.succ.2 }

/-- A stack entry, or a path slot, in the format of Table 3-2. -/
def Path.bytes (p : Path) : List Byte :=
  leBytes 8 p.pc.toNat ++ leBytes 4 p.mask.toNat ++
    [BitVec.ofNat 8 (p.depth + 64 * p.jw.toNat + 128 * p.res.toNat), 0, 0, 0]
/-- An empty path slot is written as zero. -/
def slotBytes : Option Path → List Byte
  | some p => p.bytes
  | none => List.replicate 16 0
/-- A path slot read back (Table 3-2); an empty mask is an empty slot. -/
def pathOf (bs : List Byte) : Option Path :=
  let x := leNat bs
  if field x 95 64 = 0 then none
  else some { pc := BitVec.ofNat 64 (field x 63 0), mask := BitVec.ofNat 32 (field x 95 64)
              depth := field x 101 96, jw := field x 102 102 == 1, res := field x 103 103 == 1 }

/-! ## Counters and hazards -/

/-- cK. -/
def Wave.ctr (w : Wave) (k : Nat) : Nat := tget w.c k 0
/-- Raise or lower a counter; 7 names none. -/
def Wave.ctrUp (w : Wave) (k : Nat) : Wave := if k < 6 then { w with c := tset w.c k (w.ctr k + 1) 0 } else w
def Wave.ctrDown (w : Wave) (k : Nat) : Wave := if k < 6 then { w with c := tset w.c k (w.ctr k - 1) 0 } else w

/-- Apply the counter decrements that are due (R59, R60). -/
def Wave.settle (w : Wave) (now : Nat) : Wave :=
  (w.due.filter fun d => d.2 ≤ now).foldl (fun w d => w.ctrDown d.1)
    { w with due := w.due.filter fun d => now < d.2 }

/-- The wait on a mask of counters is satisfied. -/
def Wave.waitOk (w : Wave) (mask : Nat) : Bool := (List.range 6).all fun k => mask / 2 ^ k % 2 == 0 || w.ctr k == 0

/-- A register lane whose final value is undefined, because it was overwritten before its wait (R61). -/
def Hazard.spoil (z : Hazard) (free : Nat → BitVec 64) (g : Regs) : Regs :=
  (Machine.lanes z.lanes).foldl (fun g l =>
    match z.reg with
    | .v n => { g with v := tset g.v (32 * n + l) ((free (OneReg.key z.reg l)).setWidth 32) 0 }
    | .s n => { g with s := tset g.s n (free (OneReg.key z.reg l)) 0 }
    | .p k => { g with p := tset g.p k ((tget g.p k 0 &&& ~~~ laneBit l)
                  ||| (if (free (OneReg.key z.reg l)).getLsbD 0 then laneBit l else 0)) 0 }) g

/-- What a satisfied wait ends: the hazards of its counters, and fixed-class results whose latency is over
(R57, R61). -/
def Wave.waited (w : Wave) (now mask : Nat) (free : Nat → BitVec 64) : Wave :=
  let ends (z : Hazard) : Bool := z.ctrs.any fun k => mask / 2 ^ k % 2 == 1
  let past (z : Hazard) : Bool := match z.readyAt with | some t => t ≤ now | none => false
  { w with regs := (w.haz.filter fun z => ends z && z.clobbered).foldl (fun g z => z.spoil free g) w.regs
           haz := w.haz.filter fun z => !ends z && !past z }

/-- Every hazard of a variable-class result ends, as at a FENCE (R61, R205). -/
def Wave.waitedAll (w : Wave) (free : Nat → BitVec 64) : Wave :=
  { w with regs := (w.haz.filter fun z => z.readyAt.isNone && z.clobbered).foldl (fun g z => z.spoil free g) w.regs
           haz := w.haz.filter fun z => z.readyAt.isSome }

/-- Pending operations of a wave. -/
def State.opsOf (s : State) (wk : Nat) : List (Nat × Op) := s.ops.filter fun o => o.2.wave == wk

/-- The stall reason of a wait on counters: what they still have pending (R256), a transactional access that met a retry
response included (R222, Table 3-4). -/
def State.waitReason (s : State) (wk mask : Nat) : Nat :=
  let on := (s.opsOf wk).filter fun o => o.2.ctr < 6 && mask / 2 ^ o.2.ctr % 2 == 1
  let mat (i : Instr) : Bool := match i with
    | .mma _ _ _ _ _ | .mmah _ _ _ _ _ _ | .mmai _ _ _ _ _ | .mzero _ _ _ | .mld _ _ _ _ _ | .mst _ _ _ _ _ => true
    | .accalloc _ try_ _ _ => !try_
    | _ => false
  let eng (i : Instr) : Bool := match i with
    | .cpy _ _ _ _ | .cpyr _ _ _ _ _ | .qnt _ _ _ _ | .wbld _ _ _ _ _ _ | .weirget _ _ _ _ _ | .gadd _ _ _
    | .gtest _ _ => true
    | _ => false
  let tx (o : Op) : Mask := (o.u.getD 0 0).setWidth 32
  let retried (o : Op) : Bool := match o.instr with
    | .ld .. | .ldNf .. | .st .. | .acq .. | .rel .. => o.retry &&& tx o != 0
    | _ => false
  if on.isEmpty then 1
  else if on.all fun o => retried o.2 then 9
  else if on.all fun o => mat o.2.instr then 11
  else if on.all fun o => eng o.2.instr then 13
  else 1

/-! ## Register results -/

/-- The poison bits and origins of a vector-shaped file after a write (R67). -/
def lanePois (old written pois : Mask) : Mask := (old &&& ~~~ written) ||| (pois &&& written)

/-- Write a register result: a clean lane clears its poison bit, a poisoned lane holds its origin (R67); a
write to p7 has no effect (R14); a uniform write replaces all 64 bits (R79). A predicate holds one origin: a clean write
of its lowest poisoned lane leaves the origin as it is while other lanes stay poisoned (log entry 9). -/
def RegWrite.apply (r : RegWrite) (g : Regs) : Regs :=
  match r.reg with
  | .v n =>
      { g with
        v := (lanes r.mask).foldl (fun v l => tset v (32 * n + l) ((tget r.vals l 0).setWidth 32) 0) g.v
        vP := tset g.vP n (lanePois (tget g.vP n 0) r.mask r.pois) 0 }
  | .s n =>
      if r.mask.getLsbD 0 then
        { g with
          s := tset g.s n (tget r.vals 0 0) 0
          sP := if r.pois.getLsbD 0 then g.sP ||| (1#64 <<< n) else g.sP &&& ~~~ (1#64 <<< n) }
      else g
  | .p k =>
      if k = 7 then g
      else
        let one := maskOf fun l => r.mask.getLsbD l && !r.pois.getLsbD l && (tget r.vals l 0).getLsbD 0
        let pp := lanePois (tget g.pP k 0) r.mask r.pois
        { g with
          p := tset g.p k ((tget g.p k 0 &&& ~~~ r.mask) ||| one) 0
          pP := tset g.pP k pp 0
          pO := if pp ≠ 0 ∧ r.pois.getLsbD (lowest pp) ∧ r.mask.getLsbD (lowest pp)
                then tset g.pO k (tget r.orig (lowest pp) 0) 0 else g.pO }

/-- The hazards that a result leaves: `ready` the cycle from which it reads correctly, or the operation. -/
def RegWrite.haz (r : RegWrite) (ready op : Option Nat) (ctrs : List Nat) (i : Instr) (pc : DWord) : Hazard :=
  { reg := r.reg, lanes := r.mask, readyAt := ready, op := op, ctrs := ctrs, opc := i.opc, pc := pc }

/-- An overwritten fixed-class hazard is dropped; a pending variable-class one is spoilt (R57, R61). -/
def Hazard.under (z : Hazard) (r : RegWrite) : Option Hazard :=
  if z.reg = r.reg ∧ z.lanes &&& r.mask ≠ 0 then
    match z.readyAt with
    | some _ => let left := z.lanes &&& ~~~ r.mask
                if left = 0 then none else some { z with lanes := left }
    | none => some { z with clobbered := true }
  else some z

/-- A relaxation body has written some results in this evaluation (R297). -/
def Wave.sets (w : Wave) (rs : List RegWrite) : Tab Mask :=
  if w.unset.isEmpty then []
  else rs.foldl (fun t r => tmod t (OneReg.setKey r.reg) fun m => m &&& ~~~ r.mask) w.unset

/-- Write the results of a fixed-class form, readable from its latency on (R57). -/
def Ctx.put (c : Ctx) (rs : List RegWrite) (s : State) : State :=
  s.modWave c.wk fun w =>
    { w with
      regs := rs.foldl (fun g r => r.apply g) w.regs
      unset := w.sets rs
      haz := rs.foldl (fun h r => h.filterMap fun z => z.under r) w.haz ++
        (rs.filter fun r => r.mask ≠ 0 ∧ r.reg ≠ .p 7).map fun r => r.haz (some (s.now + c.i.latClass.cycles)) none [] c.i c.p.pc }

/-- The counters that a CTR field names: one, or none. -/
def ctrList (ctr : Nat) : List Nat := if ctr < 6 then [ctr] else []

/-- What the issue of operation `id` does to earlier results: those that it overwrites are dropped or spoilt, and a wait on
its counter ends those of the same form that named none (R61). -/
def Wave.overwrite (w : Wave) (id opc ctr : Nat) (rs : List RegWrite) : Wave :=
  { w with haz := w.haz.filterMap fun z =>
      if z.op = some id then some z
      else (rs.foldl (fun z r => z.bind fun z => z.under r) (some z)).map fun z =>
        if z.opc = opc ∧ z.op.any (· < id) ∧ z.ctrs = [] then { z with ctrs := ctrList ctr } else z }

/-- The destinations of operation `op` are pending (R61). -/
def Ctx.owns (c : Ctx) (op : Nat) (rs : List RegWrite) (s : State) : State :=
  s.modWave c.wk fun w =>
    { w with
      unset := w.sets rs
      haz := w.haz ++ (rs.filter fun r => r.mask ≠ 0 ∧ r.reg ≠ .p 7).map fun r =>
        r.haz none (some op) (ctrList c.h.ctr) c.i c.p.pc }

/-- Note the destinations of a variable-class form as pending (R61). -/
def Ctx.pend (c : Ctx) (op : Nat) (rs : List RegWrite) (s : State) : State :=
  c.owns op rs (s.modWave c.wk fun w => w.overwrite op c.i.opc c.h.ctr rs)

/-! ## Trace (R404-R406, Tables 28-7, 28-8) -/

/-- Records the ring holds, when the stream is on. -/
def Die.trCap (d : Die) : Option Nat :=
  let k := field d.trace.ctl.toNat 5 1
  if d.trace.ctl.getLsbD 0 ∧ 10 ≤ k ∧ k ≤ 24 then some (2 ^ k) else none

/-- A 32-byte record (Table 28-7). -/
def traceBytes (ty : Nat) (clock : DWord) (team wave path cluster : Nat) (pc : DWord) (mask : Mask) (aux : Nat) : List Byte :=
  leBytes 8 (ty + clock.toNat % 2 ^ 48 * 2 ^ 16)
    ++ leBytes 8 (team * 2 ^ 15 + wave * 2 ^ 19 + path * 2 ^ 24 + cluster * 2 ^ 32)
    ++ leBytes 8 pc.toNat ++ leBytes 4 mask.toNat ++ leBytes 4 aux

/-- Write one record, or drop and count it when the ring is full. -/
def State.traceWrite (s : State) (die : Nat) (sync : Bool) (bs : List Byte) : State :=
  let d := s.die die
  match d.trCap with
  | none => s
  | some cap =>
      if (d.trace.head - d.trace.tail).toNat = cap then
        s.modDie die fun d => { d with trace := { d.trace with dropped := d.trace.dropped + 1 } }
      else
        let s := s.physWrite (field d.trace.base.toNat 51 6 * 64 + 32 * (d.trace.head.toNat % cap)) bs
        s.modDie die fun d => { d with trace := { d.trace with
          head := d.trace.head + 1, sinceSync := d.trace.sinceSync + (!sync).toNat } }

/-- A record of a wave (R405). -/
def State.traceRec (s : State) (wk ty path : Nat) (pc : DWord) (mask : Mask) (aux : Nat) : State :=
  match s.wave wk with
  | none => s
  | some w =>
      let t := s.teamOf w
      s.traceWrite w.die (ty ≤ 1)
        (traceBytes ty (s.clock (coreKey w.die w.core)) t.lti w.ix path t.cluster pc mask (aux % 2 ^ 32))

/-- The SYNC group of a wave (R406). -/
def State.syncGroup (s : State) (wk : Nat) : State :=
  match s.wave wk with
  | none => s
  | some w =>
      let ps := [0, 1].filterMap fun k => (w.slot k).map fun p => (k, p)
      let s := s.traceRec wk 0 0 0 0 (ps.length + 256 * w.stack.length)
      ps.foldl (fun s (x : Nat × Path) => s.traceRec wk 1 (w.pathIx x.1) x.2.pc x.2.mask 0) s

/-- When room has returned after a full ring: the OVERFLOW record, and a SYNC group owed to each traced
wave of the die (R404). -/
def State.traceRoom (s : State) (die : Nat) : State :=
  let d := s.die die
  match d.trCap with
  | none => s
  | some cap =>
      if d.trace.dropped = 0 ∨ (d.trace.head - d.trace.tail).toNat = cap then s
      else
        let s := s.traceWrite die false (traceBytes 8 0 0 0 0 0 0 0 d.trace.dropped)
        let ws := (s.waves.filter fun x => x.2.die == die && x.2.trace).map (·.1)
        s.modDie die fun d => { d with trace := { d.trace with dropped := 0, resync := ws } }

/-- A trace record of a traced wave. -/
def State.trace (s : State) (wk ty path : Nat) (pc : DWord) (mask : Mask) (aux : Nat) : State :=
  match s.wave wk with
  | none => s
  | some w =>
      if !w.trace || (s.die w.die).trCap.isNone then s
      else
        let s := s.traceRoom w.die
        let s := if wk ∈ (s.die w.die).trace.resync then
            (s.syncGroup wk).modDie w.die fun d => { d with trace := { d.trace with resync := d.trace.resync.filter (· ≠ wk) } }
          else s
        s.traceRec wk ty path pc mask aux

/-! ## The fault queue (R154, R155, R178) -/

/-- An entry's 32 bytes (Table 10-2). -/
def FqEntry.bytes (e : FqEntry) (seq : Nat) : List Byte :=
  leBytes 8 (1 + e.team * 2 ^ 19 + e.core * 2 ^ 23 + e.wslot * 2 ^ 30 + e.path * 2 ^ 36 + e.kind * 2 ^ 44
      + e.cause * 2 ^ 48 + e.asid * 2 ^ 52)
    ++ leBytes 2 e.gen.toNat ++ leBytes 2 seq ++ leBytes 4 e.mask.toNat ++ leBytes 8 e.pc.toNat ++ leBytes 8 e.va.toNat

/-- Entries may be written and the ring has room. -/
def Die.fqRoom (d : Die) : Bool := d.fqbase.getLsbD 0 && (d.fqhead - d.fqtail).toNat < Config.faultRing

/-- Write the oldest waiting entry while there is room. -/
def State.fqFlush (s : State) (die : Nat) : Nat → State
  | 0 => s
  | n + 1 =>
      let d := s.die die
      match d.fq.findIdx? fun e => e.seq.isNone with
      | none => s
      | some ix =>
          if !d.fqRoom then s
          else
            match d.fq[ix]? with
            | none => s
            | some e =>
                let q := d.fqhead
                let s := s.physWrite (field d.fqbase.toNat 51 15 * 2 ^ 15 + 32 * (q.toNat % 1024)) (e.bytes q.toNat)
                let s := s.modDie die fun d => { d with fqhead := q + 1, fq := d.fq.set ix { e with seq := some q } }
                (s.event (.fault die q)).fqFlush die n

/-- Add an entry; it is written at once when there is room. -/
def State.fqAdd (s : State) (die : Nat) (e : FqEntry) : State :=
  let s := s.modDie die fun d => { d with fq := d.fq ++ [e] }
  s.fqFlush die (s.die die).fq.length

/-- Path-table index of the path that the lowest of some lanes belongs to, in a slot or spilled (R33); where no path has the lane
any more, of the path in `slot`. -/
def Wave.pathBy (w : Wave) (m : Mask) (slot : Nat) : Nat :=
  let has (p : Path) : Bool := m != 0 && p.mask.getLsbD (lowest m)
  if w.slot0.any has then w.pathIx 0
  else if w.slot1.any has then w.pathIx 1
  else match w.stack.findIdx? fun x => has x.path with
    | none => w.pathIx slot
    | some k => 128 + 2 * (w.stack.length - 1 - k) + ((w.stack[k]?).map Spilled.slot).getD 0

/-- Park a wave on an entry for an operation (R154, R155). PATH names the path of the entry's lanes, in its slot or spilled. -/
def State.park (s : State) (wk op slot : Nat) (pc va : DWord) (mask : Mask) (cause kind : Nat) : State :=
  match s.wave wk with
  | none => s
  | some w =>
      let t := s.teamOf w
      let a := (s.hdr w).asid
      let s := s.modWave wk fun w => { w with parked := w.parked ++ [op] }
      s.fqAdd w.die
        { va := va, pc := pc, mask := mask, gen := s.gen a, asid := a, cause := cause, kind := kind
          path := w.pathBy mask slot, wslot := w.wslot, core := w.core, team := t.lti
          wave := wk, op := some op }

/-! ## The hardware's accesses to a wave's block (R162) -/

/-- What an access of the hardware meets. -/
inductive HwAcc where
  | done (s : State)
  /-- a precise code, and the address -/
  | code (c : Nat) (va : DWord)
  | parked (s : State)
  /-- an earlier access of the wave comes first -/
  | wait

/-- The virtual segments of `n` bytes at offset `off` of a wave's block, split at pages. -/
def State.blockSegs (s : State) (w : Wave) (off n : Nat) : List Seg :=
  let va := waveBlock (s.hdr w) (s.lwi w) + off
  let a := min n (4096 - va % 4096)
  let b := min (n - a) 4096
  ([⟨.glob (va % 2 ^ 57), a⟩, ⟨.glob ((va + a) % 2 ^ 57), b⟩, ⟨.glob ((va + a + b) % 2 ^ 57), n - a - b⟩] : List Seg).filter
    fun g => g.len ≠ 0

/-- A non-resident or write-protected page of a hardware access parks the wave with an entry of its own; the
access is made anew when the entry is completed. In a body the region is to restart (R313). -/
def State.hwPark (s : State) (wk slot : Nat) (pc : DWord) (mask : Mask) (va code : Nat) (store : Bool) : State :=
  let id := s.opSeq
  let rs := match (s.wave wk).bind Wave.region with
    | some rk => tmod s.regions rk fun r => { r with restart := true }
    | none => s.regions
  ({ s with opSeq := id + 1, regions := rs }).park wk id slot pc (BitVec.ofNat 64 va) mask (if code = fWriteProtect then 1 else 0)
    (if store then 1 else 0)

/-- An earlier access of the wave that the hardware's access follows: one that names one of the same bytes, or, towards
device pages, one that R166 puts first (R162, R182). -/
def State.hwHeld (s : State) (wk : Nat) (vs ps : List Seg) : Bool :=
  (s.opsOf wk).any fun x => (lanes x.2.todo).any fun k =>
    let gs := tget x.2.segs k []
    segsMeet gs vs || segsMeet gs ps || (segType ps == 3 && gs != [])
      || (2 ≤ segType ps && (2 ≤ segType gs || gs.any fun g => g.place.isGlob))

/-- Store pieces of bytes into a wave's block as stores of the wave, in the order of its accesses: all of them, or none. -/
def State.hwWriteAll (s : State) (wk slot : Nat) (pc : DWord) (mask : Mask) (ps : List (Nat × List Byte)) : HwAcc :=
  match s.wave wk with
  | none => .done s
  | some w =>
      let gs := ps.flatMap fun p => s.blockSegs w p.1 p.2.length
      match s.translateSegs w .store gs with
      | .ok xs =>
          if s.hwHeld wk gs xs || s.retried w.team xs then .wait
          else .done (((s.cacheSegs w gs).reachSegs xs).writeSegs (coreKey w.die w.core) wk 0 xs (ps.flatMap (·.2)))
      | .error c =>
          let va := s.badVa w .store gs
          if c = fRetry then .wait
          else if c < fNotResident then .code c (BitVec.ofNat 64 va)
          else .parked (s.hwPark wk slot pc mask va c true)

def State.hwWrite (s : State) (wk slot : Nat) (pc : DWord) (mask : Mask) (off : Nat) (bs : List Byte) : HwAcc :=
  s.hwWriteAll wk slot pc mask [(off, bs)]

/-- Load bytes of a wave's block; none where a page does not translate. -/
def State.hwPeek (s : State) (wk off n : Nat) : Option (List Byte) :=
  match s.wave wk with
  | none => none
  | some w =>
      match s.translateSegs w .load (s.blockSegs w off n) with
      | .ok ps => some (s.readSegs (coreKey w.die w.core) ps)
      | .error _ => none

/-! ## Relaxation abandonment (R312) -/

/-- Give a wave's path a pending wait at RLXBEG (R293). -/
def State.waitBegin (s : State) (wk : Nat) (p : Path) (instr : Instr) : State :=
  let id := s.opSeq
  let o : Op := { wave := wk, slot := 0, pc := p.pc, instr := instr, ctr := 7, mask := p.mask, at_ := s.now, walked := false }
  let s := { s with opSeq := id + 1, ops := tput s.ops id o }
  s.modWave wk fun w => { w with slot0 := some { p with wait := .op id, blk := none }, slot1 := none }

/-- Remove an operation and lower its counter, as when its results are discarded. -/
def State.discardOp (s : State) (id : Nat) : State :=
  match s.op id with
  | none => s
  | some o =>
      (s.delOp id).modWave o.wave fun w =>
        { (w.ctrDown o.ctr) with
          haz := w.haz.filter fun z => z.op ≠ some id
          hBusy := w.hBusy.filter fun b => b.2 ≠ id
          parked := w.parked.filter (· ≠ id) }

/-- The region is discarded: nothing commits, and what the body instructions in flight would have written is discarded. The
wave that faulted is left at its RLXBEG, with its state registers holding x(0); every other participant waits at its
own (R312). -/
def State.abandon (s : State) (rk : Nat) (faulting : Option Nat) : State :=
  match tfind s.regions rk with
  | none => s
  | some r =>
      let s := { s with regions := tdel s.regions rk }
      let regs := r.cfg.ranges.flatMap fun g => (List.range (g.last + 1 - g.first)).map fun k => g.first + k
      r.parts.foldl (fun s q =>
        let s := s.modWave q.wave fun w =>
          { w with region := none, unset := []
                   rlxRegs := { w.rlxRegs with code := 0, settled := 0, resid := 0, passes := r.pass }
                   stack := q.stack }
        let beg : Path := { q.start with pc := q.begPc, hold := none, wait := .none, arr := true }
        let ends := ((s.opsOf q.wave).filter fun o => match o.2.instr with | .rlxend _ => true | _ => false).map (·.1)
        let s := ends.foldl (fun s id => s.delOp id) s
        let ids := ((s.opsOf q.wave).filter fun o => o.2.steps ≠ []).map (·.1)
        let s := ids.foldl (fun s id => s.discardOp id) s
        if faulting = some q.wave then
          s.modWave q.wave fun w =>
            { w with
              slot0 := some beg, slot1 := none
              haz := w.haz.filterMap fun z => match z.reg with
                | .v n => if n ∈ regs then (if z.lanes &&& ~~~ q.start.mask = 0 then none else some { z with lanes := z.lanes &&& ~~~ q.start.mask }) else some z
                | _ => some z
              regs := { w.regs with
                v := (regs.zip r.x0).foldl (fun v x =>
                  (lanes q.start.mask).foldl (fun v l => tset v (32 * x.1 + l) x.2 0) v) w.regs.v
                vP := regs.foldl (fun vP n => tset vP n (tget vP n 0 &&& ~~~ q.start.mask) 0) w.regs.vP } }
        else
          s.waitBegin q.wave beg (.rlxbeg q.begCtl)) s

/-- The live region of a wave. -/
def State.regionOf (s : State) (w : Wave) : Option Region := w.region.bind fun rk => tfind s.regions rk

/-! ## Taking a fault -/

/-- The wave's faults are delivered to its handler (R396). -/
def TrapSt.handles (t : TrapSt) : Bool := t.tvec != 0 && !t.inHandler

/-- A launch halts from a cycle on; an earlier halt stands (R370, R424). -/
def State.haltFrom (s : State) (lk t : Nat) : State :=
  s.modLaunch lk fun l => if l.halt.isSome ∨ l.st = .done then l else { l with halt := some { since := t } }

/-- A fault under FACT DUMP that is not resumed halts the launch from the next cycle, and is the dump's fault unless a wave of a
lower logical index takes one in the same cycle (R369). -/
def State.dumpHalt (s : State) (wk : Nat) (w : Wave) (f : FaultRec) : State :=
  let s := s.haltFrom w.launch (s.now + 1)
  let first : Bool := match ((s.launch w.launch).bind Launch.halt).bind HaltSt.dump with
    | none => true
    | some (k, g) => f.at_ == g.at_ && (s.wave k).any fun v => s.lwi w < s.lwi v
  if first then s.modLaunch w.launch fun l =>
    { l with halt := some { (l.halt.getD {}) with dump := some (wk, f) }, faultCode := f.code }
  else s

/-- TAKE A PRECISE FAULT (R395-R397): the fault becomes pending with the counters, the loop state and the
path index as they stand, and the wave issues nothing further. A fault under FACT DUMP that no handler takes halts the launch from the
next cycle (R369). A live region is abandoned at the end of the cycle, by
`State.settleRegions` (R312). The record is written and the handler entered, or the fault action applied, by
`State.deliver`. A wave holds one pending fault. -/
def State.takeFault (s : State) (wk : Nat) (f : FaultRec) : State :=
  match s.wave wk with
  | none => s
  | some w =>
      if w.trap.pend.isSome then s
      else
        let f : FaultRec := { f with
          ctrs := w.c, rlx := w.region.isSome, path := if f.path = 0 then w.pathIx f.slot else f.path, made := w.barDone
          loops := [w.slot0.bind Path.loop, w.slot1.bind Path.loop], at_ := s.now
          stops := [w.slot0.any (·.stopped), w.slot1.any (·.stopped)] }
        let s := s.modWave wk fun v => { v with trap := { v.trap with pend := some f } }
        if (s.hdr w).fact = 2 ∧ !w.trap.handles then s.dumpHalt wk w f else s

/-- Regions in which participants took faults in this cycle: the fault of the wave of the lowest logical index stands, the
others are as if they had not been taken, and the region is abandoned (R312). -/
def State.settleRegions (s : State) : State :=
  s.regions.foldl (fun s x =>
    let hit := x.2.parts.filterMap fun q => (s.wave q.wave).bind fun w => if w.trap.pend.isSome then some (s.lwi w, q.wave) else none
    match hit with
    | [] => s
    | y :: t =>
        let first := t.foldl (fun b x => if x.1 < b.1 then x else b) y
        let s := hit.foldl (fun s x => if x.2 = first.2 then s else s.modWave x.2 fun w => { w with trap := { w.trap with pend := none } }) s
        s.abandon x.1 (some first.2)) s

/-- The issuing instruction takes a precise fault: it has no effect (R395). -/
def Ctx.fault (c : Ctx) (code : Nat) (mask : Mask := 0) (addr : DWord := 0) (extra : DWord := 0) (origin : DWord := 0) : State :=
  c.s.takeFault c.wk { code := code, pc := c.p.pc, addr := addr, mask := mask, extra := extra, origin := origin, slot := c.slot }

/-- An extra word with a cause in bits 63-57 and a value below (Table 28-11). -/
def causeWord (cause low : Nat) : DWord := BitVec.ofNat 64 (cause * 2 ^ 57 + low % 2 ^ 57)

/-! ## Branch targets (R54, R179) -/

/-- The physical address and key of a code line, or none where its page cannot be fetched (R179). -/
def State.codePa (s : State) (w : Wave) (addr : DWord) : Option (Nat × Nat) :=
  if !canonical addr ∨ !isGlobal addr then none
  else match s.translate w.die (s.hdr w).asid (addr.toNat / 64 * 64 % 2 ^ 57) .fetch with
    | .ok pa _ key x => if x then some (pa, key) else none
    | .code _ => none

/-- The fetch of a code line waits: its translation, or the line itself where the polder does not hold it, gets a retry response
(R222). -/
def State.codeHeld (s : State) (w : Wave) (addr : DWord) : Bool :=
  canonical addr && isGlobal addr && (match s.translate w.die (s.hdr w).asid (addr.toNat / 64 * 64 % 2 ^ 57) .fetch with
    | .code c => c == fRetry
    | .ok pa _ _ _ => s.pinnedAway w.team (pa / 128) &&
        ((tfind s.icache (coreKey w.die w.core / 4)).bind fun b => tfind b (pa / 128)).isNone)

/-- Key of a polder: four cores of a die. -/
def polderOf (w : Wave) : Nat := coreKey w.die w.core / 4

/-- A line that was written while the wave's launch was resident: what the launch executes from it is undefined (R51). -/
def State.soiledLine (s : State) (w : Wave) (pa : Nat) : Bool := (tget s.soiled (pa / 64) []).contains w.launch

/-- The bytes of a line, free ones where R51 calls them undefined. -/
def State.codeBytes (s : State) (w : Wave) (pa : Nat) (bs : List Byte) : List Byte :=
  if s.soiledLine w pa then (List.range 64).map fun k => s.free 8 (2 ^ 66 + pa + k) else bs

/-- A line's 64 bytes, from the polder's instruction cache where it holds the block (R393). -/
def State.codeLine (s : State) (w : Wave) (pa key : Nat) : List Byte :=
  s.codeBytes w pa (match (tfind s.icache (polderOf w)).bind fun b => tfind b (pa / 128) with
    | some blk => (blk.drop (pa % 128)).take 64
    | none => s.l2Read key pa 64)

/-- What the check of a target finds: nothing, a code with its extra word. The TGT bit is read from the line word as it stands: the
spec does not say that a target's line is tested for parity or format at the branch (DESIGN CHOICE, log entry 11). The code
`fRetry` says that the read waits (R222). -/
def State.targetBad (s : State) (w : Wave) (pc target : DWord) : Option (Nat × DWord) :=
  if !pcForm target ∨ target.toNat / 2 ^ 32 ≠ pc.toNat / 2 ^ 32 then some (fIllegalTarget, target)
  else if s.codeHeld w target then some (fRetry, target)
  else match s.codePa w target with
    | none => some (fFetchFault, target)
    | some (pa, key) =>
        let word := leNat ((s.codeLine w pa key).drop 60)
        if word / 2 ^ (12 + target.toNat % 8) % 2 = 1 then none else some (fIllegalTarget, target)

/-! ## Delivery and return (R396-R399) -/

/-- Lanes of a wave that have not retired. -/
def Wave.lanesLeft (w : Wave) : Mask := w.live &&& ~~~ w.retired

/-- The trap record (Table 28-2), with the spare bytes after it, which are zero (R162). -/
def State.trapRecord (s : State) (w : Wave) (f : FaultRec) : List Byte :=
  let rec16 (k : Nat) : List Byte :=
    match w.slot k with
    | none => List.replicate 16 0
    | some p =>
        match p.rep, p.loop with
        | some n, l => leBytes 4 n ++ leBytes 4 1 ++ leBytes 4 ((l.map fun l => l.head.toNat % 2 ^ 32).getD 0)
            ++ leBytes 4 ((l.map fun l => l.last.toNat % 2 ^ 32).getD 0)
        | none, some l => leBytes 4 l.rem ++ leBytes 4 2 ++ leBytes 4 (l.head.toNat % 2 ^ 32) ++ leBytes 4 (l.last.toNat % 2 ^ 32)
        | none, none => List.replicate 16 0
  leBytes 4 f.code ++ leBytes 4 (4 * f.rlx.toNat) ++ leBytes 8 f.pc.toNat ++ leBytes 8 f.addr.toNat
    ++ leBytes 4 f.mask.toNat ++ leBytes 4 f.path ++ leBytes 8 f.extra.toNat ++ leBytes 8 f.origin.toNat
    ++ slotBytes w.slot0 ++ slotBytes w.slot1 ++ leBytes 4 w.stack.length ++ leBytes 4 w.done.toNat
    ++ ((List.range 6).map fun k => BitVec.ofNat 8 (tget f.ctrs k 0)) ++ [0, 0]
    ++ rec16 0 ++ rec16 1
    ++ leBytes 8 ((waveBlock (s.hdr w) (s.lwi w) + 0x400) % 2 ^ 57)
    ++ leBytes 8 (s.clock (coreKey w.die w.core)).toNat
    ++ ((List.range 32).flatMap fun l => leBytes 8 (tget w.olds l 0).toNat)
    ++ List.replicate 0x70 0

/-- The launch is aborted under a status; its waves are killed by `State.reap` (R396, R401, R37). -/
def State.abort (s : State) (lk status detail : Nat) : State :=
  s.modLaunch lk fun l => if l.aborted.isSome then l else { l with aborted := some status, faultCode := detail }

/-- The index by which a TRAP record names the path of a fault: a live path's as it stands, after an abandoned region the path
at RLXBEG. A spilled path is never named (R405): the record gives the slot it was spilled from. -/
def Wave.faultPath (w : Wave) (f : FaultRec) : Nat :=
  if f.rlx then w.pathIx 0 else if f.path < 128 then f.path else w.pathIx (f.path % 2)

/-- The launch's fault action (R396). `written` says whether the wave's record is written. -/
def State.faultAction (s : State) (wk : Nat) (f : FaultRec) (written : Bool) : State :=
  match s.wave wk with
  | none => s
  | some w =>
      match (s.hdr w).fact with
      | 1 => (s.modWave wk fun w => { w with trap := { w.trap with pend := none } }).abort w.launch 12 f.code
      | 2 => (s.modWave wk fun w => { w with trap := { w.trap with pend := none, faulted := some written, own := f.code } }).dumpHalt wk w f
      | _ =>
          let s := s.trace wk 4 (w.faultPath f) f.pc f.mask f.code
          (s.modWave wk fun w =>
            { w with trap := { w.trap with pend := none, faulted := some written, own := f.code
                                           handled := if w.trap.inHandler || w.trap.faulted.isSome then w.trap.handled else some f } }).event
            (.faulted wk written)

/-- The wave enters its handler (R397 step 3). -/
def State.enterHandler (s : State) (wk : Nat) (f : FaultRec) : State :=
  let s := s.trace wk 4 (((s.wave wk).map fun w => w.faultPath f).getD 0) f.pc f.mask f.code
  s.modWave wk fun w =>
    { w with
      slot0 := some { pc := w.trap.tvec, mask := w.lanesLeft }
      slot1 := none
      trap := { w.trap with inHandler := true, pend := none, handled := some f, floor := w.stack.length } }

/-- The launch of a wave is halted (R370, R401). -/
def State.halted (s : State) (w : Wave) : Bool := ((s.launch w.launch).bind Launch.halt).any fun h => h.since ≤ s.now

/-- DELIVERY OF A PENDING FAULT (R396, R397): once the counters are zero and the wave is not parked, the
record is written at offset 0x2400 of the wave's block and the handler at sys.tvec is entered; with no
handler, or in it, the launch's fault action applies. A region is abandoned first (R312), and a halted launch delivers nothing
(R369, R370). -/
def State.deliver (s : State) (wk : Nat) : State :=
  match s.wave wk with
  | none => s
  | some w0 =>
      let w := w0.settle s.now
      match w.trap.pend with
      | none => s
      | some f =>
          let fact := (s.hdr w).fact
          let handler : Bool := w.trap.handles
          if w.region.isSome then s
          else if !handler ∧ (fact ≠ 0 ∨ w.trap.inHandler) then s.faultAction wk f w.trap.inHandler
          else if s.halted w ∨ !w.waitOk 63 ∨ w.parked ≠ [] then s
          else
            let s0 := s
            let s := s.setWave wk w
            match s.hwWrite wk f.slot f.pc f.mask 0x2400 (s.trapRecord w f) with
            | .parked s => s
            | .wait => s
            | .code _ _ => s.faultAction wk f false
            | .done s =>
                if !handler then s.faultAction wk f true
                else match s.targetBad w w.trap.tvec w.trap.tvec with
                  | some (c, _) => if c = fRetry then s0 else s.faultAction wk f true
                  | none => s.enterHandler wk f

/-- The recorded fault as the record's bytes name it, which a handler may have rewritten (R399, Table 28-2). -/
def FaultRec.ofRecord (f : FaultRec) (bs : List Byte) : FaultRec :=
  let n (o k : Nat) : Nat := leNat ((bs.drop o).take k)
  { f with code := n 0 2, pc := BitVec.ofNat 64 (n 8 8), addr := BitVec.ofNat 64 (n 0x10 8), mask := BitVec.ofNat 32 (n 0x18 4)
           path := n 0x1C 1, extra := BitVec.ofNat 64 (n 0x20 8), origin := BitVec.ofNat 64 (n 0x28 8) }

/-- The restored paths stand as R24 to R30 let paths stand: a lone path at depth 0 with an empty stack, or two disjoint
siblings of one depth, one more than the stack's, of which one carries the resident flag and one does not wait. -/
def pathsStand (a b : Option Path) (stack : Nat) : Bool :=
  match a, b with
  | some a, some b => (a.mask &&& b.mask) == 0 && a.depth == b.depth && a.depth == stack + 1 && a.res != b.res && !(a.jw && b.jw)
  | some a, none | none, some a => a.depth == 0 && stack == 0 && !a.jw
  | none, none => false

/-- The state that a record restores (R399), from its bytes: paths, loops, done mask and old values. `ret`
is the path index that resumes at the recorded instruction. Lanes that the handler retired are gone (R32). The
loop state of a REP inside a pinned loop is the one held at the fault. -/
def Wave.restore (w : Wave) (bs : List Byte) (f : FaultRec) : Wave :=
  let n (o k : Nat) : Nat := leNat ((bs.drop o).take k)
  let skip : Bool := n 4 1 / 2 % 2 == 1
  let rlx : Bool := n 4 1 / 4 % 2 == 1
  let hi := f.pc.toNat / 2 ^ 32 * 2 ^ 32
  let ix := n 0x1C 1
  let skips : Bool := skip && !rlx && !f.late
  let past (p : Path) : Path := { (p.at p.succ.1) with loop := p.succ.2, arr := false }
  let path (k : Nat) : Option Path :=
    (pathOf ((bs.drop (0x30 + 16 * k)).take 16)).map fun p =>
      let o := 0x60 + 16 * k
      let kind := n (o + 4) 4
      let lp : LoopSt := { rem := n o 4, head := BitVec.ofNat 64 (hi + n (o + 8) 4), last := BitVec.ofNat 64 (hi + n (o + 12) 4) }
      let p := { p with mask := p.mask &&& ~~~ w.retired, arr := false, stopped := f.stops.getD k false
                        rep := if kind = 1 then some (n o 4) else none
                        loop := if kind = 2 then some lp else if kind = 1 then (f.loops.getD k none) else none }
      if skips ∧ ix < 128 ∧ ix % 2 = k then past p else p
  let stack := w.stack.drop (w.stack.length - min w.stack.length (n 0x50 4))
  let done : Mask := BitVec.ofNat 32 (n 0x54 4)
  { w with
    slot0 := path 0, slot1 := path 1
    stack := if skips ∧ 128 ≤ ix then
        stack.zipIdx.map fun x => if stack.length - 1 - x.2 = (ix - 128) / 2 then { x.1 with path := past x.1.path } else x.1
      else stack
    done := done
    barDone := if done = 0 then f.made else some (f.pc, [])
    olds := (List.range 32).foldl (fun t l => tset t l (BitVec.ofNat 64 (n (0x90 + 8 * l) 8)) 0) w.olds
    c := [], due := []
    trap := { w.trap with inHandler := false, pend := none, handled := none, faulted := none, own := 0, going := false,
                             broken := !pathsStand (path 0) (path 1) stack.length ||
                               !stack.all (fun x => (x.path.mask &&& w.retired) == 0) ||
                               !([path 0, path 1].all fun p => p.all fun p => (p.mask &&& ~~~ w.live) == 0 && p.mask != 0) } }

/-- RETURN FROM A HANDLER (R399), and the resumption of a wave that FACT TRAP stopped (R396): with ACT set
the fault action applies to the recorded fault; otherwise the record is checked and restored. The target of
a bad program counter is reported as an ILLEGAL_TARGET of `pc`, to which the fault action applies. Paths that break R24 to R30 are
restored as they are written, and mark the wave: R399 calls its later behaviour undefined. -/
def State.returnFrom (s : State) (wk slot : Nat) (pc : DWord) (bs : List Byte) : State :=
  match s.wave wk with
  | none => s
  | some w =>
      let f := w.trap.handled.getD { code := 0, pc := pc }
      if leNat ((bs.drop 4).take 1) % 2 = 1 then s.faultAction wk (f.ofRecord bs) true
      else
        let ps := [0, 1].filterMap fun k => pathOf ((bs.drop (0x30 + 16 * k)).take 16)
        match ps.find? fun p => !pcForm p.pc with
        | some p =>
            let g : FaultRec := { code := fIllegalTarget, pc := pc, extra := p.pc, slot := slot }
            if w.trap.inHandler then s.takeFault wk g else s.faultAction wk g true
        | none =>
            let w' := w.restore bs f
            let k := leNat ((bs.drop 0x1C).take 1) % 2
            let s := s.setWave wk w'
            match w'.slot k with
            | some p => s.trace wk 6 (w'.pathIx k) p.pc p.mask 0
            | none => s

/-! ## Issue -/

/-- The path that is to issue an instruction, read from the state: counter decrements of this cycle are
applied, and a satisfied wait mask ends the hazards of its counters. -/
def State.ctx (s : State) (i : Instr) : Option Ctx :=
  match s.cur, i.ctl with
  | some (wk, slot), some h =>
      match s.wave wk with
      | none => none
      | some w0 =>
          let w1 := w0.settle s.now
          let w := if w1.waitOk h.wait then w1.waited s.now h.wait (fun k => s.free 64 (2 ^ 43 + k)) else w1
          match w.slot slot with
          | none => none
          | some p => some ⟨s.setWave wk w, wk, slot, w, p, i, h⟩
  | _, _ => none

/-- The path does not issue; `r` is the stall reason of this cycle (R35). -/
def State.block (s : State) (r : Nat) : State :=
  match s.cur with
  | none => s
  | some (wk, k) => s.modWave wk fun w => w.setSlot k ((w.slot k).map fun p => { p with blk := some r })

/-- Registers that a lane of the form reads: in order, with the guard last (R68). -/
def RegRef.ones : RegRef → List OneReg
  | .v n c => (List.range c).map fun k => .v (n + k)
  | .s n c => (List.range c).map fun k => .s (n + k)
  | .p n => [.p n]
  | .h _ => []

/-- One register as the form reads it in a lane. -/
def Ctx.rdOne (c : Ctx) (r : OneReg) (l : Nat) : Rd :=
  match r with
  | .v n => c.rdV n l
  | .s n => c.rdS n
  | .p k => c.rdP k l

/-- The first poisoned input of a lane in the order of R68. -/
def Ctx.poisonIn (c : Ctx) (l : Nat) : Option Word :=
  (((c.i.reads.flatMap RegRef.ones).map fun r => c.rdOne r l) ++ [c.guard l]).find? Rd.pois |>.map Rd.org

/-- The origin of a poison fault: bits 56-32 of the consumer's address over the 32 origin bits (R69). -/
def originWord (pc : DWord) (org : Word) : DWord := BitVec.ofNat 64 (pc.toNat % 2 ^ 57 / 2 ^ 32 * 2 ^ 32 + org.toNat)
def Ctx.originOf (c : Ctx) (org : Word) : DWord := originWord c.p.pc org

/-- The registers of a list of ranges, in order (R87, R294, R317). -/
def regsOfRanges (rs : List RegRange) : List Nat := rs.flatMap fun r => (List.range (r.last + 1 - r.first)).map fun k => r.first + k

/-- Registers that a form reads besides those its word names: the state registers at RLXBEG and RLXEND (R294, R310),
and the further components that RLXSEED stores (R321). -/
def Ctx.moreReads (c : Ctx) : List OneReg :=
  let ns := regsOfRanges c.w.rlx.ranges
  match c.i with
  | .rlxbeg _ | .rlxend _ => ns.map OneReg.v
  | .rlxseed _ src _ => (List.range (ns.length - 1)).map fun k => .v (src + k + 1)
  | _ => []

/-- The guard of a form that does not read it (R110, R120, R423). -/
def Instr.skipsGuard (i : Instr) : Bool := match i with | .join _ | .waitc _ _ | .eret _ => true | _ => false

/-- The registers among `rd` that this form may not read yet, and among `wr` that it may not overwrite yet, each with the cause
of Table 4-5 and the producer (R65). -/
def Ctx.stallsOn (c : Ctx) (rd wr : List OneReg) : List (OneReg × Nat × DWord) :=
  let on (r : OneReg) : Mask := match r with | .s _ => (if c.any then 1 else 0) | _ => c.x
  let onG (r : OneReg) : Mask := if r = .p c.h.pix then c.p.mask else on r
  let bad (z : Hazard) : Option Nat :=
    if z.live c.s.now && rd.any (fun r => r == z.reg && (onG r &&& z.lanes) != 0) then
      (if c.w.pair.isSome && z.readyAt.any (fun _ => true) && z.pc.toNat / 64 == c.p.pc.toNat / 64 && nextPc z.pc == c.p.pc then some 2
       else if z.readyAt.isSome then some 0
       else if c.w.pair.isSome && nextPc z.pc == c.p.pc then some 2 else some 1)
    else if z.readyAt.isNone && wr.any (fun r => r == z.reg && (on r &&& z.lanes) != 0) then some 3
    else none
  c.w.haz.filterMap fun z => (bad z).map fun b => (z.reg, b, z.pc)

/-- A producer whose result this form may not read yet, or may not overwrite yet, with the cause of Table
4-5 (R65). The element registers of ENQ and DEQ beyond the first are checked when the ring's element size is known. -/
def Ctx.shortStall (c : Ctx) : Option (Nat × DWord) :=
  let rd := (c.i.reads.flatMap RegRef.ones) ++ c.moreReads ++ (if c.h.pix = 7 ∨ Instr.skipsGuard c.i then [] else [.p c.h.pix])
  let wr := match c.i with
    | .v2p _ _ (.s n) => ((List.range 7).filter fun k => (c.rdS n).pois || (c.rdS n).val.getLsbD k).map OneReg.p
    | i => i.writes.flatMap RegRef.ones
  (c.stallsOn rd wr).head?.map (·.2)

/-- The element registers beyond the first from vN that a ring form may not read, or overwrite, when it issues (R65). -/
def Ctx.ringEarly (c : Ctx) (n : Nat) (reads : Bool) : List (OneReg × Nat × DWord) :=
  let rs := (List.range 3).map fun k => OneReg.v (n + k + 1)
  if !c.hdr.scb then [] else if reads then c.stallsOn rs [] else c.stallsOn [] rs

/-- The cause of Table 21-5 under which a form is forbidden in a body, whatever it reaches (R311). -/
def rlxCause (i : Instr) : Option Nat :=
  let o := i.opc
  if (0x18A ≤ o ∧ o ≤ 0x195) then some 0
  else match i with
  | .atom .. | .red .. => some 1
  | .txbegin .. | .txend .. | .txabort .. | .txstat .. => some 2
  | .rlxend _ => none
  | .span .. | .exit .. | .call .. | .ret .. => some 6
  | .pgreq .. => some 8
  | .launch .. | .stepmk .. | .treeset .. | .treesetCanon .. | .cred .. | .sysw .. | .eret .. | .halt .. => some 9
  | _ =>
      if 0x2F0 ≤ o ∧ o ≤ 0x30F then some 3
      else if (0x240 ≤ o ∧ o ≤ 0x2BF) ∨ (0x2E0 ≤ o ∧ o ≤ 0x2EF) then some 4
      else if 0x2C0 ≤ o ∧ o ≤ 0x2DF then some 5
      else match i with
        | .vote .. | .shfl .. | .elect .. => some 7
        | i => if i.writes.any (fun r => match r with | .s _ _ => true | _ => false) then some 7 else none

/-- What stands in the way of an issue. -/
inductive Gate where
  | go
  /-- the form does not issue; the stall reason -/
  | hold (reason : Nat)
  | fault (code : Nat) (mask : Mask) (extra origin : DWord)
  /-- forbidden in a transaction (R193) -/
  | doom
  deriving DecidableEq, Repr

/-- The executing lanes that are in a transaction. -/
def Ctx.txLanes (c : Ctx) : Mask := maskOf fun l => c.x.getLsbD l && (tget c.w.tx l {}).active

/-- The extra word of RLX_FORBIDDEN: cause, pass and lowest step (Table 28-11). -/
def Ctx.rlxWord (c : Ctx) (cause step : Nat) : DWord :=
  let pass := ((c.s.regionOf c.w).map Region.pass).getD 0
  BitVec.ofNat 64 (cause * 2 ^ 57 + pass * 2 ^ 32 + step)

/-- The stage descriptor of a wave's team. -/
def State.stageFor (s : State) (w : Wave) : Stage :=
  (s.hdr w).stages.getD (stageOf (s.hdr w) (s.teamOf w).lti) ⟨0, 0, 1, 0⟩

/-- P, the participant threads of a region of a wave's team (R291). -/
def State.rlxP (s : State) (w : Wave) (cluster : Bool) : Nat := (s.stageFor w).threads * (if cluster then (s.hdr w).n else 1)

/-- The participant thread number q of a lane (R291). -/
def State.rlxQ (s : State) (w : Wave) (cluster : Bool) (l : Nat) : Nat :=
  (if cluster then teamInStage (s.hdr w) (s.teamOf w).lti * (s.stageFor w).threads else 0) + 32 * w.ix + l

/-- k, the steps of a thread, for T steps of P threads (R292). -/
def stepsPer (t p : Nat) : Nat := (t + p - 1) / max p 1

/-- The step that a lane evaluates in evaluation `e` of a pass (R292). -/
def State.stepAt (s : State) (r : Region) (w : Wave) (e l : Nat) : Option Nat :=
  let k := stepsPer r.tSteps (s.rlxP w r.cfg.cluster)
  let t := k * s.rlxQ w r.cfg.cluster l + e
  if e < k ∧ t < r.tSteps then some t else none

/-- The step that a lane evaluates now (R292). -/
def Ctx.stepOf (c : Ctx) (l : Nat) : Option Nat :=
  match c.s.regionOf c.w with
  | none => none
  | some r => c.s.stepAt r c.w (((r.parts.find? fun x => x.wave = c.wk).map Participant.eval).getD 0) l

/-- The lowest step of some lanes. -/
def Ctx.lowStep (c : Ctx) (m : Mask) : Nat := ((lanes m).filterMap c.stepOf).foldl min 65535

/-- What holds a word back before it issues, with the stall reason: its wait mask (R16), a handle register with a pending
write (R360), and the counter's limit (R60). -/
def Ctx.holdReason (c : Ctx) : Option Nat :=
  if !c.w.waitOk c.h.wait then some (c.s.waitReason c.wk c.h.wait)
  else if (c.i.writes ++ c.i.reads).any (fun r => match r with
      | .h n => c.w.hBusy.any fun b => b.1 == n
      | _ => false) then some 13
  else if c.h.ctr < 6 ∧ 63 ≤ c.w.ctr c.h.ctr then some 1
  else none

/-- The executing lanes in which a form is a consumer of poison (Table 4-7): every one, or, of a load, those that make a
transactional access. RLXBEG and RLXEND look at poison themselves (R315), and so do HLD and HST, after what R364 puts first. Table 4-7 names the counts of REP and LOOP; their
guard counts too (log entry 9). -/
def Ctx.consumers (c : Ctx) : Mask :=
  match c.i with
  | .rlxbeg _ | .rlxend _ | .hld .. | .hst .. => 0
  | .ld .. | .ldNf .. => maskOf fun l => c.txLanes.getLsbD l && !(tget c.w.tx l {}).doomed
  | i => if i.consumes then c.x else 0

/-- The conditions of an issue, in order: what holds the word back, the scoreboard (R65), a relaxation body (R311), a
transaction (R193) and the consumers of poison (R69). -/
def Ctx.gate (c : Ctx) : Gate :=
  match c.holdReason with
  | some r => .hold r
  | none =>
      match (if c.hdr.scb then c.shortStall else none) with
      | some (cause, pc) => .fault fStallShort 0 (causeWord cause pc.toNat) 0
      | none =>
          match (if c.w.region.isSome then rlxCause c.i else none) with
          | some cause => .fault fRlxForbidden c.p.mask (c.rlxWord cause (c.lowStep c.p.mask)) 0
          | none =>
              if c.i.txForbidden && c.txLanes != 0 then .doom
              else
                let bad := maskOf fun l => c.consumers.getLsbD l && (c.poisonIn l).isSome
                if bad = 0 then .go
                else .fault fPoisonConsumed bad 0 (c.originOf ((c.poisonIn (lowest bad)).getD 0))

/-- What the issue of a form, with its operation `id`, does to the wave's span: a span-ending form ends it (R39, R114). -/
def Wave.spanStep (w : Wave) (i : Instr) (id : Nat) : Wave :=
  { w with
    span := { w.span with
      isOpen := w.span.isOpen && !i.endsSpan
      ender := if i.endsSpan ∧ w.span.isOpen then some id else none }
    barDone := if i.endsSpan then none else w.barDone }

/-- The common effect of an issue on the wave: the counter rises, and falls in the next cycle for a fixed
class or a guard false in every lane (R15, R60); a span-ending form ends the span (R39, R114). -/
def Ctx.count (c : Ctx) (s : State) : State :=
  s.modWave c.wk fun w =>
    { ((w.ctrUp c.h.ctr).spanStep c.i c.s.opSeq) with
      due := if c.h.ctr < 6 ∧ (c.i.latClass ≠ .v ∨ !c.any) then w.due ++ [(c.h.ctr, s.now + 1)] else w.due
      issuedNow := true, fresh := false }

/-- THE ISSUE OF A FORM THAT HOLDS ITS PATH AND MAY YET TAKE A FAULT AT ITS INSTRUCTION (R163): its operation is pending,
its counter has risen and its destinations are pending; what the issue does besides is owed until `State.settleOp`. -/
def Ctx.holdOn (c : Ctx) (o : Op) (rs : List RegWrite) (s : State) : State :=
  let id := s.opSeq
  let o := { o with holding := true, owed := true, dests := rs }
  let s := c.owns id rs { s with opSeq := id + 1, ops := tput s.ops id o }
  s.modWave c.wk fun w =>
    let w := { (w.ctrUp o.ctr) with
      issuedNow := true, fresh := false
      span := { w.span with ender := if w.span.ender = some id then none else w.span.ender } }
    w.setSlot c.slot ((w.slot c.slot).map fun p => { p.issued c.h.stall with wait := .op id })

/-- What the issue of an operation owed its wave happens: no fault at the instruction stands in the way any more. -/
def State.settleOp (s : State) (id : Nat) : State :=
  match s.op id with
  | none => s
  | some o =>
      if !o.owed then s
      else
        (s.modOp id fun o => { o with owed := false }).modWave o.wave fun w =>
          (w.overwrite id o.instr.opc o.ctr o.dests).spanStep o.instr id

/-- The issuing path goes on to the next instruction under the form's stall count (R56). -/
def Ctx.move (c : Ctx) (s : State) : State :=
  s.modWave c.wk fun w => w.setSlot c.slot ((w.slot c.slot).map fun p => (p.advance).issued c.h.stall)

/-- The issue of a form that goes on at the next instruction. -/
def Ctx.finish (c : Ctx) (s : State) : State := c.move (c.count s)

/-- The issue of a variable-class form that is complete at once: its counter falls in the next cycle (R60). -/
def Ctx.finishNow (c : Ctx) (s : State) : State :=
  (c.finish s).modWave c.wk fun w =>
    { w with due := if c.h.ctr < 6 ∧ c.i.latClass = .v ∧ c.any then w.due ++ [(c.h.ctr, s.now + 1)] else w.due }

/-- A form forbidden in a transaction dooms its executing lanes and has no other effect (R193). -/
def Ctx.doomAll (c : Ctx) (cause : Nat) (s : State) : State :=
  s.modWave c.wk fun w => { w with tx := (lanes c.txLanes).foldl (fun t l =>
    tmod t l fun x => if x.doomed then x else { x with doomed := true, cause := cause }) w.tx }

/-- A POISON_CONSUMED fault of an atomic leaves the done mask clear, and a restart reissues it in every lane (R69, R190). -/
def Ctx.unmarked (c : Ctx) (code : Nat) : Ctx :=
  match c.i with
  | .atom .. | .red .. => if code = fPoisonConsumed then { c with s := c.s.modWave c.wk fun w => { w with done := 0 } } else c
  | _ => c

/-- THE ISSUE OF A FORM: nothing when no path is to issue it, a stall noted when it cannot issue, its fault,
or its effect. -/
def issueO (i : Instr) (body : Ctx → Host.Outcome State Fault Refusal) (s : State) : Host.Outcome State Fault Refusal :=
  match s.ctx i with
  | none => .next s
  | some c =>
      match c.gate with
      | .go => body c
      | .hold r => .next (s.block r)
      | .fault code mask extra origin => .next ((c.unmarked code).fault code mask 0 extra origin)
      | .doom =>
          .next (c.finishNow (c.doomAll (match i with | .txbegin _ _ => 6 | _ => 5) c.s))

/-- The issue of a form whose effect is a next state. -/
def issue (i : Instr) (body : Ctx → State) (s : State) : Host.Outcome State Fault Refusal :=
  issueO i (fun c => .next (body c)) s

/-- What a poisoning word writes: a poison tag with its own address as origin to every destination, in each lane whose
guard is true (R66). -/
def Ctx.tagAll (c : Ctx) (dsts : List OneReg) : List RegWrite :=
  let org : Word := c.p.pc.setWidth 32
  let tag : Rd := { val := org.setWidth 64, pois := true, org := org }
  dsts.map fun d => match d with
    | .v n => c.toV n fun _ => tag
    | .s n => c.toS n tag
    | .p k => c.toP k fun _ => tag

/-- THE ISSUE OF A POISONING WORD (R66, R78): it honours its wait mask, stall count and counter, writes its tags, and takes
no fault. The spec names no latency class for such a word: its tags read correctly as results of class I2 do (DESIGN CHOICE, log
entry 9). -/
def issuePoison (h : Ctl) (dsts : List OneReg) (s : State) : Host.Outcome State Fault Refusal :=
  match s.ctx (.nop h) with
  | none => .next s
  | some c =>
      match c.holdReason with
      | some r => .next (s.block r)
      | none => .next (c.finish (c.put (c.tagAll dsts) c.s))

end Sys2Proof.Machine
end

