-- ==== Sys2Proof/Machine/Results.lean ====
section
/-! DEFINITION. How a form delivers its results: fixed-class results with the tangents of a relaxation body
(R141, R298, R328), and pending operations of the variable class (R60, R61). -/

namespace Sys2Proof.Machine

/-! ## Tangents -/

/-- A rational value of a tangent rule; none where a value is not finite or an operation is not defined. -/
abbrev TanVal := Option Frac

/-- An FP32 value in a rule. -/
def tv (x : Nat) : TanVal := if (fp32.dec x).isFin then some (fp32.dec x).frac else none

def TanVal.add (a b : TanVal) : TanVal := a.bind fun x => b.map fun y => x.add y
def TanVal.sub (a b : TanVal) : TanVal := a.bind fun x => b.map fun y => x.sub y
def TanVal.mul (a b : TanVal) : TanVal := a.bind fun x => b.map fun y => x.mul y
def TanVal.neg (a : TanVal) : TanVal := a.map Frac.neg
/-- Division by zero is not defined. -/
def TanVal.div (a b : TanVal) : TanVal := a.bind fun x => b.bind fun y => if y.n = 0 then none else some (x.div y)

/-- The value of a rule, rounded once; the canonical NaN where it has none (R141). -/
def TanVal.out (a : TanVal) : Word :=
  match a with
  | none => BitVec.ofNat 32 fp32.nan
  | some x => BitVec.ofNat 32 (fp32.roundFrac .rn false x)

/-- A rational times a real that is no rational multiple of it, rounded once. -/
def TanVal.outReal (a : TanVal) (f : Nat → Real) : Word :=
  match a with
  | none => BitVec.ofNat 32 fp32.nan
  | some x =>
      if x.n = 0 then 0
      else BitVec.ofNat 32 (fp32.decide fun p =>
        let r := f p
        let y := Iv.ofFrac p x
        ⟨r.iv.mul p y, r.k⟩)

/-- ln 2 as a real. -/
def realLn2 (p : Nat) : Real := ⟨ivLn2 p, 0⟩
/-- 1 / ln 2 as a real. -/
def realLog2e (p : Nat) : Real := ⟨Iv.div p ⟨2 ^ p, 2 ^ p⟩ (ivLn2 p), 0⟩

/-- Component `k` of the tangent of vN in lane `l`; of an undefined value it is undefined (R297). -/
def Ctx.tanV (c : Ctx) (r : Region) (n l k : Nat) : Nat :=
  if c.w.undef c.s.now (.v n) l then (c.s.free 32 (2 ^ 44 + (256 * l + n) * 8 + k)).toNat
  else (tget (tget r.tans c.wk []) ((256 * l + n) * 8 + k) 0).toNat

/-- Of an operand: uniform values carry no tangent and read as +0 (R298). -/
def Ctx.tan (c : Ctx) (r : Region) (a : Src) (l k : Nat) : Nat :=
  match a with
  | .v n => c.tanV r n l k
  | _ => 0

/-- The rule of a form of Table 9-4. -/
def fnTan (f : Fn) (a d ta : Nat) : Word :=
  let x := tv a
  let y := tv d
  let t := tv ta
  let one : TanVal := some (Frac.ofInt 1)
  let two : TanVal := some (Frac.ofInt 2)
  match f with
  | .sqrt => (t.div (two.mul y)).out
  | .rcp => ((y.mul y).mul t).neg.out
  | .rsq => ((y.mul t).neg.div (two.mul x)).out
  | .exp => (y.mul t).out
  | .exp2 => (y.mul t).outReal realLn2
  | .log => (t.div x).out
  | .log2 => (t.div x).outReal realLog2e
  | .sin =>
      match x with
      | some x0 => if x0.n = 0 then t.out else t.outReal fun p => rSinCos p true x0
      | none => TanVal.out none
  | .cos =>
      match x with
      | some x0 => if x0.n = 0 then TanVal.out (t.map fun _ => Frac.ofInt 0) else t.neg.outReal fun p => rSinCos p false x0
      | none => TanVal.out none
  | .tanh => ((one.sub (y.mul y)).mul t).out
  | .sigm => ((y.mul (one.sub y)).mul t).out

/-- The tangent that the form gives its vector destinations in lane `l` (Table 22-6), each rule
under R141: where its value is not finite, the canonical NaN. FMIN, FMAX, MOV and SEL copy a tangent (Table 9-2, R298); forms not
listed give +0. -/
def Ctx.tanRule (c : Ctx) (r : Region) (l k : Nat) : Word :=
  let v (a : Src) : Nat := (c.rd a l).val.toNat
  let t (a : Src) : TanVal := tv (c.tan r a l k)
  let fn (f : Fn) (a : Src) : Word := fnTan f (v a) (f.eval (v a)) (c.tan r a l k)
  let pick (mx : Bool) (a b : Src) : Word :=
    match fp32.selects mx (v a) (v b) with
    | some 0 => BitVec.ofNat 32 (c.tan r a l k)
    | some _ => BitVec.ofNat 32 (c.tan r b l k)
    | none => BitVec.ofNat 32 fp32.nan
  match c.i with
  | .fadd _ _ a b => ((t a).add (t b)).out
  | .fsub _ _ a b => ((t a).sub (t b)).out
  | .fmul _ _ a b => (((t a).mul (tv (v b))).add ((tv (v a)).mul (t b))).out
  | .ffma _ _ a b d => ((((t a).mul (tv (v b))).add ((tv (v a)).mul (t b))).add (t d)).out
  | .fmin _ _ a b => pick false a b
  | .fmax _ _ a b => pick true a b
  | .fscale _ _ a n => TanVal.out ((t a).map fun x => { x with e := x.e + (((c.rd n l).val.setWidth 32).toInt : Int) })
  | .fcvt _ _ .f32 .f32 _ a => (t a).out
  | .fdiv _ _ a b => (((t a).sub ((tv (fp32.div (v a) (v b))).mul (t b))).div (tv (v b))).out
  | .fsqrt _ _ a => fn .sqrt a
  | .frcp _ _ a => fn .rcp a
  | .frsq _ _ a => fn .rsq a
  | .fexp _ _ a => fn .exp a
  | .fexp2 _ _ a => fn .exp2 a
  | .flog _ _ a => fn .log a
  | .flog2 _ _ a => fn .log2 a
  | .fsin _ _ a => fn .sin a
  | .fcos _ _ a => fn .cos a
  | .ftanh _ _ a => fn .tanh a
  | .fsigm _ _ a => fn .sigm a
  | .fdot4 _ _ _ _ d => (t d).out
  | .mov _ _ a | .movi _ false _ a => BitVec.ofNat 32 (c.tan r a l k)
  | .sel _ _ a b p => if (c.rdPS p l).val = 1 then BitVec.ofNat 32 (c.tan r a l k) else BitVec.ofNat 32 (c.tan r b l k)
  | _ => 0

/-- Register and lane of a tangent's key. -/
def tanReg (k : Nat) : OneReg := .v (k / 8 % 256)
def tanLane (k : Nat) : Nat := k / 2048

/-- Write tangents of a wave of a region. A register that a pending result was to write when it was overwritten has an
undefined value, and an undefined tangent (R61, R297). -/
def State.setTans (s : State) (wk : Nat) (es : List (Nat × Word)) : State :=
  match (s.wave wk).bind fun w => w.region.map fun rk => (rk, w) with
  | none => s
  | some (rk, w) =>
      if es.isEmpty then s
      else
        let spoilt (k : Nat) : Bool := w.haz.any fun z => z.clobbered && z.reg == tanReg k && z.lanes.getLsbD (tanLane k)
        let val (e : Nat × Word) : Word := if spoilt e.1 then s.free 32 (2 ^ 45 + e.1) else e.2
        { s with regions := tmod s.regions rk fun r =>
            { r with tans := tput r.tans wk (es.foldl (fun t e => tset t e.1 (val e) 0) (tget r.tans wk [])) } }

/-- Components of a tangent: one in diagonal mode, C in dense mode (R141, R298). -/
def Region.comps (r : Region) : Nat := if r.cfg.dense then r.c else 1

/-- The tangents that the form gives its vector destinations in its executing lanes; none outside a region. -/
def Ctx.tanEntries (c : Ctx) : List (Nat × Word) :=
  match c.s.regionOf c.w with
  | some r =>
      let ns := (c.i.writes.flatMap RegRef.ones).filterMap fun x => match x with | .v n => some n | _ => none
      if ns.isEmpty then []
      else (lanes c.x).flatMap fun l => (List.range r.comps).flatMap fun k =>
        let x := c.tanRule r l k
        ns.map fun n => ((256 * l + n) * 8 + k, x)
  | none => []

/-- Set the tangents of the form's vector destinations. -/
def Ctx.tangents (c : Ctx) (s : State) : State := s.setTans c.wk c.tanEntries

/-- THE ISSUE OF A FIXED-CLASS FORM with its results. -/
def Ctx.fixed (c : Ctx) (rs : List RegWrite) : State := c.finish (c.tangents (c.put rs c.s))

/-! ## Pending operations -/

/-- Forms that release the bytes bound to an object (Table 12-10). -/
def Instr.releases (i : Instr) : Bool := match i with | .rel .. | .enq .. | .hstm .. | .hdrop .. | .hxfer .. => true | _ => false

/-- The pending operation of the issuing form, with what it captures at issue. -/
def Ctx.op (c : Ctx) : Op :=
  { wave := c.wk, slot := c.slot, pc := c.p.pc, instr := c.i, ctr := c.h.ctr, mask := c.x, todo := c.x
    at_ := c.s.now, stamp := c.w.oprStamp, opr := c.w.oprSeen, hb := c.w.seen, fence := c.w.lastFence, unseen := c.w.unseenCmds
    steps := if c.w.region.isSome then (lanes c.x).map fun l => (l, (c.stepOf l).getD 65535) else []
    before := (lanes c.x).filterMap fun l => (c.stepOf l).bind fun t =>
      (c.s.regionOf c.w).map fun r => (l, (tget r.evals t {}).held.length)
    binds := if Instr.releases c.i then c.team.binds else []
    tans := c.tanEntries }

/-- Add a pending operation under the next number. -/
def State.addOp (s : State) (o : Op) : State := { s with opSeq := s.opSeq + 1, ops := tput s.ops s.opSeq o }

/-- THE ISSUE OF A VARIABLE-CLASS FORM whose results are known at issue: they are written at completion (R61). With
no executing lane it only counts (R15). -/
def Ctx.variable (c : Ctx) (rs : List RegWrite) (s : State) : State :=
  if !c.any then c.finish s
  else c.finish (c.pend s.opSeq rs (s.addOp { c.op with writes := rs, finished := true }))

end Sys2Proof.Machine
end

