-- ==== Sys2Proof/Machine/Span.lean ====
section
/-! DEFINITION. Restart spans: the working set (R87), the checkpoint that a SPAN takes and its image in memory
(R89, R90, Table 6-5), and the divergence stack's push and pop (R25, R27-R29). -/

namespace Sys2Proof.Machine

/-- The working set in force; at wave start, v0 to v(min(V, 32) - 1) (R87). -/
def State.workSet (s : State) (w : Wave) : List Nat :=
  if w.ws.isEmpty then List.range (min (s.hdr w).v 32) else regsOfRanges w.ws

/-- The 128 bytes of a vector register. -/
def Regs.vBytes (g : Regs) (n : Nat) : List Byte := (List.range 32).flatMap fun l => leBytes 4 (tget g.v (32 * n + l) 0).toNat

/-- The checkpoint area as Table 6-5 lays it out, in the wave's block. The four bytes between its rows at 0x12C0 and 0x12E0 are
written as zero; the spec does not say what the 128 bytes and the poison word of an entry beyond the working set hold: the model
leaves the bytes unwritten and writes the word as zero (DESIGN CHOICE, log entry 18). -/
def Ckpt.image (k : Ckpt) : List (Nat × List Byte) :=
  let ns := regsOfRanges k.ws
  let word (x : Mask) : List Byte := leBytes 4 x.toNat
  [ (0x400, ns.flatMap fun n => k.regs.vBytes n),
    (0x1400,
      ((List.range 32).flatMap fun e => word (match ns[e]? with | some n => tget k.regs.vP n 0 | none => 0))
      ++ ((List.range 64).flatMap fun n => leBytes 8 (tget k.regs.s n 0).toNat)
      ++ leBytes 8 k.regs.sP.toNat
      ++ ((List.range 7).flatMap fun n => word (tget k.regs.p n 0))
      ++ ((List.range 7).flatMap fun n => word (tget k.regs.pP n 0))
      ++ ((List.range 7).flatMap fun n => leBytes 4 (tget k.regs.pO n 0).toNat)
      ++ leBytes 4 0
      ++ slotBytes k.slot0 ++ slotBytes k.slot1
      ++ leBytes 4 k.stack.length
      ++ ((List.range 4).flatMap fun j => match k.pairs[j]? with
          | some r => [BitVec.ofNat 8 r.first, BitVec.ofNat 8 r.last]
          | none => [0xFF, 0])) ]

/-- Write a checkpoint's image again, after a late result. Where a page of the area does not translate, the wave parks and the
image is written when the entry is completed; where a line is pinned by another team, at a later tick (R222). -/
def State.ckptFlush (s : State) (wk : Nat) : State :=
  match s.wave wk with
  | none => s
  | some w =>
      match w.span.ckpt with
      | none => s
      | some k =>
          let ps := k.image
          let gs := ps.flatMap fun p => s.blockSegs w p.1 p.2.length
          let mark (b : Bool) (s : State) : State := s.modWave wk fun w => { w with span := { w.span with stale := b } }
          match s.translateSegs w .store gs with
          | .ok xs => if s.retried w.team xs then mark true s else mark false ((s.reachSegs xs).writeSegs (coreKey w.die w.core) wk 0 xs (ps.flatMap (·.2)))
          | .error c =>
              if c = fRetry then mark true s
              else if c < fNotResident then mark false s
              else mark true (s.hwPark wk 0 (((w.slot 0).map Path.pc).getD 0) w.live (s.badVa w .store gs) c true)

/-- A register result of an operation issued before the span head reaches the checkpoint, and its image in memory (R89). -/
def State.ckptMod (s : State) (wk id : Nat) (f : Regs → Regs) : State :=
  match (s.wave wk).bind fun w => w.span.ckpt with
  | none => s
  | some k =>
      if k.opsBefore ≤ id then s
      else
        let s := s.modWave wk fun w => { w with span := { w.span with ckpt := some { k with regs := f k.regs } } }
        if ((s.wave wk).map fun w => w.span.stale).getD false then s else s.ckptFlush wk

def State.ckptLate (s : State) (wk id : Nat) (rs : List RegWrite) : State :=
  if rs.isEmpty then s else s.ckptMod wk id fun g => rs.foldl (fun g r => r.apply g) g

/-- The same for what a store has written through the register window (R89, R94). -/
def State.ckptWindow (s : State) (id : Nat) : List Seg → List Byte → State
  | [], _ => s
  | g :: gs, bs =>
      let s := match g.place with
        | .reg wk n l b => s.ckptMod wk id fun r => ((bs.take g.len).zipIdx).foldl (fun (r : Regs) (x : Byte × Nat) => r.setByte n l (b + x.2) x.1) r
        | _ => s
      s.ckptWindow id gs (bs.drop g.len)

/-- The image of a checkpoint in memory is what the hardware wrote, as far as its pages translate (R90). -/
def State.ckptIntact (s : State) (wk : Nat) (k : Ckpt) : Bool :=
  ((s.wave wk).map fun w => w.span.stale).getD false || k.image.all fun p => match s.hwPeek wk p.1 p.2.length with
    | some bs => bs == p.2
    | none => true

/-! ## The divergence stack -/

/-- The resident flag of a path that returns to a depth: the other member of that frame is on top of the stack
and carries the opposite flag; at depth 0 the flag is clear (R24, R29). -/
def outerRes (depth : Nat) (stack : List Spilled) : Bool :=
  match depth, stack with
  | 0, _ => false
  | _, x :: _ => !x.path.res
  | _, [] => false

/-- The entry in memory of a spilled path (Table 3-2). -/
def Spilled.image (x : Spilled) : List Byte := { x.path with pc := x.pc }.bytes

/-- The entry on top of the stack in memory is what the hardware wrote, as far as its page translates (R28). -/
def State.stackIntact (s : State) (wk : Nat) (stack : List Spilled) : Bool :=
  match stack with
  | [] => true
  | x :: t => match s.hwPeek wk (16 * t.length) 16 with
    | some bs => bs == x.image
    | none => true

/-- The stack of a wave has an entry that a pop may reach: in a handler, one above those that the record counts (R395). -/
def Wave.poppable (w : Wave) : Bool := (if w.trap.inHandler then w.trap.floor else 0) < w.stack.length

/-- Pop the top entry into an empty slot, when there is one (R29, R32). -/
def Wave.pop (w : Wave) : Wave :=
  match w.stack with
  | [] => w
  | x :: t =>
      if !w.poppable then w
      else if w.slot0.isNone then { w with slot0 := some x.path, stack := t }
      else if w.slot1.isNone then { w with slot1 := some x.path, stack := t }
      else w

/-- The later of two holds (R62). -/
def laterHold (a b : Option Nat) : Option Nat :=
  match a, b with
  | none, x => x
  | x, none => x
  | some m, some n => some (max m n)

/-- The merge of two siblings at JOIN, `p` and `o` with the resident flag in one of them (R29, R62). -/
def mergePaths (p o : Path) (stack : List Spilled) : Path :=
  let r := if p.res then p else o
  { (r.at (nextPc r.pc)) with
    mask := p.mask ||| o.mask, depth := p.depth - 1, jw := false
    res := outerRes (p.depth - 1) stack
    hold := laterHold p.hold o.hold
    stopped := p.stopped || o.stopped, passed := 0 }

/-- The sibling of a path that ended at EXIT goes on alone (R32). -/
def Path.alone (o : Path) (stack : List Spilled) : Path :=
  let o := { o with depth := o.depth - 1, res := outerRes (o.depth - 1) stack }
  if o.jw then { (o.at (nextPc o.pc)) with jw := false } else o

end Sys2Proof.Machine
end

