-- ==== Sys2Proof/Machine/Tree.lean ====
section
/-! DEFINITION. Collective reduction: the canonical tree (R394), the topology tables of TREESET (R417, R418), and the
combination of CRED (R420). -/

namespace Sys2Proof.Machine

/-- The combination under OP and TYPE (R420). -/
def credCombine (op : COp) (ty : CTy) (a b : Word) : Word :=
  match ty with
  | .f32 =>
      match op with
      | .min => BitVec.ofNat 32 (fp32.minMax false a.toNat b.toNat)
      | .max => BitVec.ofNat 32 (fp32.minMax true a.toNat b.toNat)
      | _ => BitVec.ofNat 32 (fp32.add a.toNat b.toNat)
  | _ =>
      let lt : Bool := if ty = .s32 then a.slt b else a.ult b
      match op with
      | .add => a + b
      | .min => if lt then a else b
      | .max => if lt then b else a
      | .and => a &&& b
      | .or => a ||| b
      | .xor => a ^^^ b

/-- One level of the canonical tree: neighbours are combined, an odd last node is carried (R394). -/
def canonLevel (f : Word → Word → Word) : List Word → List Word
  | a :: b :: t => f a b :: canonLevel f t
  | t => t

/-- The root of the canonical tree, by levels (R394). -/
def canonRoot (f : Word → Word → Word) : Nat → List Word → Option Word
  | _, [] => none
  | _, [a] => some a
  | 0, a :: _ => some a
  | n + 1, as => canonRoot f n (canonLevel f as)

/-- Children of a node, ascending. -/
def topoKids (ns : List TopoNode) (i : Nat) : List Nat :=
  (ns.zipIdx.filter fun (x : TopoNode × Nat) => x.2 != i && x.1.parent == i).map (·.2)

/-- The value of the root of a topology table: a node without a present child is absent, one with a single present
child carries its value (R417, R419). -/
def topoRoot (f : Word → Word → Word) (ns : List TopoNode) (leaves : Tab Word) : Option Word :=
  tfind ((List.range ns.length).reverse.foldl (fun (t : Tab Word) i =>
    match ns[i]? with
    | none => t
    | some n =>
        if n.leaf then (match tfind leaves n.thread with | some x => tput t i x | none => t)
        else match (topoKids ns i).filterMap fun k => tfind t k with
          | [] => t
          | x :: xs => tput t i (xs.foldl f x)) []) 0

/-- The root of an instance under a team's topology; zero when no leaf is present (R419). -/
def credRoot (op : COp) (ty : CTy) (topo : Option (List TopoNode)) (leaves : Tab Word) : Word :=
  let f := credCombine op ty
  (match topo with
    | none => canonRoot f 11 (leaves.map fun (x : Nat × Word) => x.2)
    | some ns => topoRoot f ns leaves).getD 0

/-! ## Topology tables -/

/-- An entry word (R417). -/
def topoNode (e : Word) : TopoNode :=
  { parent := field e.toNat 31 21, leaf := field e.toNat 20 20 == 1, thread := field e.toNat 9 0 }

/-- The parent of a node, within the table. -/
def topoUp (ns : List TopoNode) (i : Nat) : Option Nat := (ns[i]?).bind fun n => if n.parent < ns.length then some n.parent else none

/-- The chain of parents from a node returns to it. -/
def topoCycle (ns : List TopoNode) (i : Nat) : Nat → Nat → Bool
  | 0, _ => false
  | n + 1, j => match topoUp ns j with
    | none => false
    | some p => p == i || topoCycle ns i n p

/-- The first node, ascending, at which a test holds. -/
def topoFirst (ns : List TopoNode) (bad : Nat → TopoNode → Bool) : Option Nat := (ns.zipIdx.find? fun (x : TopoNode × Nat) => bad x.2 x.1).map (·.2)

/-- What the checks of Table 29-6 find: cause, node and thread. -/
def topoCheck (m : Nat) (hd : Word) (es : List Word) : Option (Nat × Nat × Nat) :=
  let k := field hd.toNat 11 0
  let ns := es.map topoNode
  if k = 0 ∨ 2047 < k ∨ field hd.toNat 31 12 ≠ 0 then some (0, 0, 0)
  else match es.zipIdx.find? fun (x : Word × Nat) => field x.1.toNat 19 10 != 0 || (field x.1.toNat 20 20 == 0 && field x.1.toNat 9 0 != 0) with
  | some x => some (0, x.2, 0)
  | none => match topoFirst ns fun i n => if i = 0 then n.parent != 0x7FF else n.parent == 0x7FF with
  | some i => some (1, i, 0)
  | none => match topoFirst ns fun i n => n.parent == i with
  | some i => some (2, i, 0)
  | none => match topoFirst ns fun i _ => topoCycle ns i ns.length i with
  | some i => some (3, i, 0)
  | none => match topoFirst ns fun i n => i != 0 && i < n.parent with
  | some i => some (4, i, 0)
  | none =>
      let twice (i : Nat) (n : TopoNode) : Bool := (ns.zipIdx.any fun (x : TopoNode × Nat) => x.2 < i && x.1.leaf && x.1.thread == n.thread)
      match topoFirst ns fun i n => n.leaf && (m ≤ n.thread || twice i n) with
      | some i => some (5, i, ((ns[i]?).map TopoNode.thread).getD 0)
      | none => match (List.range m).find? fun t => !ns.any fun n => n.leaf && n.thread == t with
      | some t => some (5, k, t)
      | none => match topoFirst ns fun i n => n.leaf != (topoKids ns i).isEmpty with
      | some i => some (6, i, 0)
      | none => none

end Sys2Proof.Machine
end

