-- ==== Sys2Proof/Machine/Life.lean ====
section
/-! DEFINITION. What happens to the shared objects when operations complete and waves end: completion of an
operation (R57, R60), named barriers (R36-R38, R206-R208), basin tiles and handles (R343-R350, R359),
accumulator grants (R244), ranks of the Gauge unit (R339), region membership (R293), team records (R410), and
the retirement, kill and abort that use them. -/

namespace Sys2Proof

/-- CLUSTER scope or wider. -/
def Scope.wide (s : Scope) : Bool := 2 ≤ s.code

end Sys2Proof

namespace Sys2Proof.Machine

/-! ## What an operation accesses -/

/-- Executing lanes that were in a transaction at issue. -/
def Op.tx (o : Op) : Mask := (o.u.getD 0 0).setWidth 32

/-- Kind of a lane's access (Table 10-2, Table 11-2). -/
def Op.acc (o : Op) (l : Nat) : Acc2 :=
  match o.instr with
  | .gcfg .. => .load
  | .hstm .. => .store
  | .ld .. | .ldNf .. | .acq .. | .tdef .. => if o.tx.getLsbD l then .txLoad else .load
  | .st .. | .rel .. | .rlxseed .. => if o.tx.getLsbD l then .txStore else .store
  | _ => .atomic

/-- Launch of an operation's wave. -/
def Op.launch (o : Op) : Nat := o.wave / 32 / 2 ^ 36

/-- Bytes of a lane's access. -/
def Op.width (o : Op) : Nat :=
  match o.instr with
  | .rlxseed .. => 4 * ((o.data.head?.map (·.2.length)).getD 1)
  | .ld _ _ _ w _ _ | .ldNf _ _ _ w _ _ _ | .st _ _ w _ _ => w.bytes
  | .atom _ _ _ _ w _ _ _ | .red _ _ _ _ w _ _ => w.bytes
  | .enq .. | .deq .. | .hldmRing .. | .gcfg .. => 64
  | .hstm .. | .hldm .. => 16
  | _ => 4

def Op.isLoad (o : Op) : Bool := match o.instr with | .ld .. | .ldNf .. | .acq .. | .gcfg .. => true | _ => false
def Op.isRing (o : Op) : Bool := match o.instr with | .enq .. | .deq .. | .hldmRing .. => true | _ => false
/-- HLDM of a slot, and of a ring. -/
def Op.isHldm (o : Op) : Bool := match o.instr with | .hldm .. => true | _ => false
def Op.isHldmRing (o : Op) : Bool := match o.instr with | .hldmRing .. => true | _ => false
def Op.isNf (o : Op) : Bool := match o.instr with | .ldNf .. => true | _ => false
/-- An access of a relaxation body. -/
def Op.inBody (o : Op) : Bool := !o.steps.isEmpty

def Op.isTdef (o : Op) : Bool := match o.instr with | .tdef .. => true | _ => false

/-- Forms that hold their path until further checks are made: rings (R199), TDEF (R262), HLDM (R349) and body
accesses (R308, R311). -/
def Op.keeps (o : Op) : Bool := o.isRing || o.isTdef || o.isHldm || o.inBody

/-- A TKDONE whose entry is FREE and whose successors are not all decremented: u = [0, sI, successors left] (R254). -/
def Op.tkBegun (o : Op) : Bool := match o.instr with | .tkdone .. => 2 < o.u.length | _ => false

/-- The operations that access memory. -/
def Op.isMem (o : Op) : Bool :=
  match o.instr with
  | .ld .. | .ldNf .. | .st .. | .acq .. | .rel .. | .rlxseed .. | .atom .. | .red .. | .enq .. | .deq ..
  | .gcfg .. | .hstm .. | .hldm .. | .hldmRing .. => true
  | _ => false

def Op.writesMem (o : Op) : Bool := o.isMem && !o.isLoad

/-- Places of a lane. -/
def Op.seg (o : Op) (l : Nat) : List Seg := tget o.segs l []
def Op.addr (o : Op) (l : Nat) : DWord := tget o.addrs l 0
/-- The accesses of a lane, in order: RLXSEED stores one word for each component (R321). -/
def Op.pieces (o : Op) (l : Nat) : List (DWord × Nat) :=
  match o.instr with
  | .rlxseed .. => (List.range (o.width / 4)).map fun k => (o.addr l + BitVec.ofNat 64 (4 * k), 4)
  | _ => [(o.addr l, o.width)]

/-- The checks above translation of a lane's accesses, and their places; else the code that stands highest in Table 11-2,
with its address. -/
def State.opPlaces (s : State) (w : Wave) (o : Op) (l : Nat) : Except (Nat × DWord) (List Seg) :=
  (o.pieces l).foldl (fun (r : Except (Nat × DWord) (List Seg)) p => match r, s.aperture w l p.1 p.2 (o.acc l) with
    | .error x, .error e => .error (if e < x.1 then (e, p.1) else x)
    | .error x, .ok _ => .error x
    | .ok gs, .ok g => .ok (gs ++ g)
    | .ok _, .error e => .error (e, p.1)) (.ok [])

/-- Every place of the lane is translated. -/
def Op.ready (o : Op) (l : Nat) : Bool := (o.seg l).all fun g => !g.place.isGlob

/-- SCOPE of a form that has one. -/
def Op.scope (o : Op) : Scope :=
  match o.instr with
  | .atom _ _ _ sc _ _ _ _ | .red _ _ _ sc _ _ _ => sc
  | .acq _ sc _ _ | .rel _ sc _ _ => sc
  | .enq .. | .deq .. | .hstm .. | .hldm .. | .hldmRing .. => .module
  | _ => .wave

/-! ## Completion of an operation -/

/-- The path waits on the operation. -/
def Path.waitsOn (p : Path) (id : Nat) : Bool := p.wait == .op id

/-- A path of the wave, in a slot or spilled, waits on the operation. -/
def Wave.heldBy (w : Wave) (id : Nat) : Bool :=
  w.slot0.any (·.waitsOn id) || w.slot1.any (·.waitsOn id) || w.stack.any (·.path.waitsOn id)

/-- End the wait of a path on an operation; with `go` the path goes on past its instruction. -/
def Path.release (p : Path) (id : Nat) (go : Bool) : Path :=
  if p.waitsOn id then
    let p := { p with wait := .none }
    if go then { p.advance with hold := p.hold } else p
  else p

def State.releasePath (s : State) (wk id : Nat) (go : Bool) : State :=
  s.modWave wk fun w =>
    { w with slot0 := w.slot0.map (·.release id go), slot1 := w.slot1.map (·.release id go)
             stack := w.stack.map fun x => { x with path := x.path.release id go } }

/-- An earlier operation of the same form that names no counter is pending: it completes first, for a wait on this one's
counter ends the wait for its destinations too (R61). -/
def State.behind (s : State) (id : Nat) (o : Op) : Bool :=
  o.ctr < 6 && !o.instr.isCommand && o.instr.writes != [] &&
    (s.opsOf o.wave).any fun x => x.1 < id && x.2.ctr == 7 && x.2.instr.opc == o.instr.opc

/-- An operation completes: it writes its register results, its counter falls, and a path that it holds is
released. A result that was pending at the span head goes into the checkpoint too (R89). Behind an earlier operation of its
form it has only finished. -/
def State.opDone (s : State) (id : Nat) (go : Bool) : State :=
  match s.op id with
  | none => s
  | some o =>
      if s.behind id o then
        ((s.settleOp id).modOp id fun o => { o with finished := true, holding := false, todo := 0 }).releasePath o.wave id go
      else
      let s := (s.settleOp id).modWave o.wave fun w =>
        { (w.ctrDown o.ctr) with
          regs := o.writes.foldl (fun g r => r.apply g) w.regs
          hBusy := w.hBusy.filter fun b => b.2 ≠ id
          parked := w.parked.filter (· ≠ id) }
      (((s.setTans o.wave o.tans).ckptLate o.wave id o.writes).releasePath o.wave id go).delOp id

/-- Add a register result to what an operation writes at completion. -/
def State.opWrite (s : State) (id : Nat) (r : List RegWrite) : State := s.modOp id fun o => { o with writes := o.writes ++ r }

/-- No fault at the instruction stands in an operation's way any more: its path goes on (R163). -/
def State.goOn (s : State) (id : Nat) : State :=
  match s.op id with
  | none => s
  | some o =>
      if o.holding then ((s.modOp id fun o => { o with holding := false }).settleOp id).releasePath o.wave id true else s

/-- Path-table index of the path that issued an operation (R33). -/
def State.opPath (s : State) (o : Op) : Nat := ((s.wave o.wave).map fun w => w.pathBy o.mask o.slot).getD 0

/-- An operation that holds its path takes a precise fault at its instruction: its counter is as before the
issue, and it has no effect. -/
def State.opFault (s : State) (id code : Nat) (mask : Mask) (addr extra : DWord) (origin : DWord := 0) : State :=
  match s.op id with
  | none => s
  | some o =>
      let ix := s.opPath o
      let s := (s.releasePath o.wave id false).discardOp id
      s.takeFault o.wave
        { code := code, pc := o.pc, addr := addr, mask := mask, extra := extra, origin := origin, slot := ix % 2, path := ix }

/-- An operation meets a precise code after its issue (R458): its counter falls and the wave takes the fault
where its paths stand; the destinations of the lanes that have not performed keep their values. -/
def State.opLateFault (s : State) (id code : Nat) (mask : Mask) (addr extra : DWord) : State :=
  match s.op id with
  | none => s
  | some o =>
      let ix := s.opPath o
      let s := (((s.settleOp id).releasePath o.wave id false).delOp id).modWave o.wave fun w =>
        { (w.ctrDown o.ctr) with hBusy := w.hBusy.filter fun b => b.2 ≠ id, parked := w.parked.filter (· ≠ id) }
      s.takeFault o.wave { code := code, pc := o.pc, addr := addr, mask := mask, extra := extra, slot := ix % 2, path := ix, late := true }

/-- A result of one value in every lane of a mask. -/
def laneConst (r : OneReg) (m : Mask) (x : DWord) : RegWrite :=
  { reg := r, mask := m, vals := (lanes m).map fun l => (l, x) }

/-- The registers of a load: `bytes l` are the bytes that lane `l` received (R184). -/
def loadRegs (d : Nat) (w : Width) (sign : Bool) (m : Mask) (bytes : Nat → List Byte) : List RegWrite :=
  let word (l k : Nat) : DWord :=
    let x := leNat (((bytes l).drop (4 * k)).take 4)
    match w with
    | .w8 => if sign then (((BitVec.ofNat 8 x).signExtend 32).setWidth 64) else BitVec.ofNat 64 x
    | .w16 => if sign then (((BitVec.ofNat 16 x).signExtend 32).setWidth 64) else BitVec.ofNat 64 x
    | _ => BitVec.ofNat 64 x
  (List.range w.regs).map fun k => { reg := .v (d + k), mask := m, vals := (lanes m).map fun l => (l, word l k) }

/-! ## Named barriers (R36-R38, R206-R208) -/

def State.barrier (s : State) (tk b : Nat) : Barrier := ((s.team tk).map fun t => tget t.barriers b {}).getD {}
def State.modBar (s : State) (tk b : Nat) (f : Barrier → Barrier) : State :=
  s.modTeam tk fun t => { t with barriers := tput t.barriers b (f (tget t.barriers b {})) }

/-- The barrier that a waiting operation names: u = [phase, held, barrier]. -/
def Op.barOn (o : Op) (tk b : Nat) : Bool :=
  o.wave / 32 == tk && (match o.instr with
    | .bara _ n | .barw _ n _ | .baraw _ n _ => n == b
    | _ => false)

/-- The barrier that a barrier form waits at. -/
def Op.barNo (o : Op) : Option Nat :=
  match o.instr with
  | .bara _ n | .barw _ n _ | .baraw _ n _ => some n
  | _ => none

/-- pB of a barrier form. -/
def Op.pB (o : Op) : Nat := match o.instr with | .barw _ _ p | .baraw _ _ p => p | _ => 7

/-- Bytes that a barrier carries for a team: its own scratchpad, and what it has bound to the barrier (R200, R203). -/
def Team.barCarry (t : Team) (tk b : Nat) : List Seg :=
  ⟨.scr tk 0, 2 ^ 19⟩ :: bindSegs (t.binds.filter fun x => x.kind == 0 && x.obj == BitVec.ofNat 128 b)
def State.barCarry (s : State) (tk b : Nat) : List Seg := ((s.team tk).map fun t => t.barCarry tk b).getD []

/-- An arrival by BARA or BARAW, or at EXIT, is a release; a wake with normal status is the acquire (Table 12-10). -/
def State.barTell (s : State) (tk b ix : Nat) : State :=
  let (s, hs) := s.publish (waveKey tk ix) (some (s.barCarry tk b))
  s.modBar tk b fun x => { x with coming := joinHeard x.coming hs }
def State.barHear (s : State) (wk b : Nat) : State :=
  s.learn wk (some (s.barCarry (wk / 32) b)) (s.barrier (wk / 32) b).passed

/-- Wake a waiter with a status: 1 broken, 0 normal (R208). -/
def State.barWake (s : State) (id : Nat) (broken : Bool) : State :=
  match s.op id with
  | none => s
  | some o =>
      let s := match broken, o.barNo with
        | false, some b => s.barHear o.wave b
        | _, _ => s
      (s.opWrite id [laneConst (.p o.pB) o.mask (if broken then 1 else 0)]).opDone id true

/-- Every enrolled wave has exited (R206). -/
def Barrier.allExited (b : Barrier) (exited : List Nat) : Bool := b.enrolled != [] && b.enrolled.all fun i => i ∈ exited

/-- Complete the phases that are complete: waiters wake with normal status, arrivals that were held are made
in the new phase (R206, R208). -/
def State.barSettle (s : State) (tk b : Nat) : Nat → State
  | 0 => s
  | n + 1 =>
      let x := s.barrier tk b
      let exited := ((s.team tk).map Team.exited).getD []
      if x.broken || x.enrolled.isEmpty || !x.enrolled.all (fun i => i ∈ x.arrived) then s
      else
        let ph := (x.phase + 1) % 65536
        let on := s.ops.filter fun o => o.2.barOn tk b
        let s := s.modBar tk b fun x => { x with
          phase := ph, arrived := x.enrolled.filter (fun i => i ∈ exited), passed := joinHeard x.passed x.coming, coming := [] }
        let wake := on.filter fun o => o.2.u.getD 0 0 = BitVec.ofNat 64 x.phase ∧ o.2.u.getD 1 0 = 0
        let s := wake.foldl (fun s o => s.barWake o.1 false) s
        let held := on.filter fun o => o.2.u.getD 1 0 = 1
        let s := held.foldl (fun s o =>
          let ix := o.2.wave % 32
          let s := s.modBar tk b fun x => { x with arrived := if ix ∈ x.arrived then x.arrived else x.arrived ++ [ix] }
          let s := match o.2.instr with | .barw .. => s | _ => s.barTell tk b ix
          match o.2.instr with
          | .bara _ _ => (s.modBar tk b fun x => { x with pending := tput x.pending ix ph }).opDone o.1 true
          | _ => s.modOp o.1 fun o => { o with u := [BitVec.ofNat 64 ph, 0] ++ o.u.drop 2 }) s
        if x.allExited exited then s else s.barSettle tk b n

/-- An arrival of wave `ix` (R206); at a broken barrier it has no effect (R37). `tell` says that it is a release. -/
def State.barArrive (s : State) (tk b ix : Nat) (tell : Bool) : State :=
  if (s.barrier tk b).broken then s
  else ((if tell then s.barTell tk b ix else s).modBar tk b fun x => { x with arrived := if ix ∈ x.arrived then x.arrived else x.arrived ++ [ix] }).barSettle tk b 34

/-- A wave that was taken off in a wait at the barrier is to find it broken: the wait is marked by 2 in the place of `held`. -/
def Wave.barGone (w : Wave) (b : Nat) : Wave :=
  if w.madeBar = some b then { w with barDone := w.barDone.map fun x => (x.1, x.2.take 1 ++ [2]) } else w

/-- Break a barrier: every waiter wakes with broken status, also one that a pre-emption has taken off (R400), and a held arrival
has no effect (R37). -/
def State.barBreak (s : State) (tk b : Nat) : State :=
  let s := s.modBar tk b fun x => { x with broken := true }
  let s := { s with waves := s.waves.map fun (x : Nat × Wave) => if x.2.team = tk then (x.1, x.2.barGone b) else x }
  (s.ops.filter fun (o : Nat × Op) => o.2.barOn tk b).foldl (fun s o => s.barWake o.1 true) s

/-- The breaks of a cycle follow its arrivals and exits (R38). -/
def State.applyBreaks (s : State) : State :=
  s.breaks.foldl (fun s x => s.barBreak x.1 x.2) { s with breaks := [] }

/-- Barriers in which a wave is enrolled. -/
def State.enrolledIn (s : State) (tk ix : Nat) : List Nat :=
  (((s.team tk).map Team.barriers).getD []).filterMap fun x => if ix ∈ x.2.enrolled then some x.1 else none

/-! ## Release and acquire (R203) -/

/-- Ranges that a team has bound to an object. -/
def Team.bound (t : Team) (kind : Nat) (obj : HWord) : List BindEntry := t.binds.filter fun b => b.kind == kind && b.obj == obj

/-- Ranges that the team had bound to an object when the operation issued (R203). -/
def Op.bound (o : Op) (kind : Nat) (obj : HWord) : List BindEntry := o.binds.filter fun b => b.kind == kind && b.obj == obj

/-- Physical lines under some bound ranges, of whatever memory type (R203, R222). -/
def State.boundLines (s : State) (w : Wave) (bs : List BindEntry) : List Nat :=
  bs.flatMap fun b =>
    let a := b.start.toNat % 2 ^ 57
    (List.range ((a % 128 + b.len + 127) / 128)).filterMap fun k =>
      match s.translate w.die (s.hdr w).asid ((a / 128 + k) * 128 % 2 ^ 57) .load with
      | .ok pa _ _ _ => some (pa / 128)
      | .code _ => none

/-- The scope checker of the wave's die is on (R408). -/
def State.sck (s : State) (w : Wave) : Bool := (s.die w.die).trace.ctl.getLsbD 8

/-- Note the last release of some lines (R408). -/
def State.noteRelease (s : State) (w : Wave) (ls : List Nat) (sc : Nat) : State :=
  if !s.sck w then s else { s with rels := ls.foldl (fun t l => tput t l ⟨sc, w.team, waveKey w.team w.ix⟩) s.rels }

/-- The lines that a scope includes: host memory belongs to .SYSTEM only (R227). -/
def Scope.has (sc : Scope) (line : Nat) : Bool := sc == .system || !hostLine line

/-- The scope at which a form acts now: .MODULE for a narrow form of a team that has ended, or that is switched out, whose pins
are widened (R223). -/
def State.scopeNow (s : State) (w : Wave) (sc : Scope) : Scope := if !sc.wide && s.teamOver w.team then .module else sc

/-- A RELEASE at a scope over some lines (R203, R222, R223): wide, the lines are written back from the core and the
team's pins end; narrow, the lines are pinned. -/
def State.release (s : State) (w : Wave) (sc : Scope) (ls : List Nat) : State :=
  let ck := coreKey w.die w.core
  let sc := s.scopeNow w sc
  let ls := ls.filter fun l => Scope.has sc l
  if sc.wide then (ls.foldl (fun s l => s.evictLine ck l) s).unpinTeam w.team sc.code
  else ls.foldl (fun s l => s.pinFresh w.team ck l) s

/-- AN ACQUIRE at a scope (R203): wide, the core uses no older copy of the bound lines. -/
def State.acquire (s : State) (w : Wave) (sc : Scope) (ls : List Nat) : State :=
  let sc := s.scopeNow w sc
  if sc.wide then (ls.filter fun l => Scope.has sc l).foldl (fun s l => s.evictLine (coreKey w.die w.core) l) s else s

/-- Lines that a wave's team has bound to a barrier. -/
def State.barLines (s : State) (w : Wave) (b : Nat) : List Nat := s.boundLines w ((s.teamOf w).bound 0 (BitVec.ofNat 128 b))

/-- An arrival of a wave is held: a store of it to scratchpad, or to bytes bound to the barrier, has not performed (R203,
R208), or another team has pinned a line that the arrival is to pin (R222). -/
def State.barHeld (s : State) (wk : Nat) (w : Wave) (lines : List Nat) : Bool :=
  ((s.opsOf wk).any fun o => o.2.writesMem && (lanes o.2.todo).any fun l =>
    !o.2.ready l || (o.2.seg l).any fun g => match g.place with
      | .scr _ _ => true
      | .phys pa _ _ => pa / 128 ∈ lines
      | _ => false)
  || lines.any fun l => s.pinnedAway w.team l

/-! ## Basin tiles and handles -/

def hKind (h : HWord) : Nat := field h.toNat 127 126
def hAsid (h : HWord) : Nat := field h.toNat 123 112
def hModule (h : HWord) : BitVec 48 := BitVec.ofNat 48 (field h.toNat 111 64)
def hDie (h : HWord) : Nat := field h.toNat 63 61
def hGen (h : HWord) : Nat := field h.toNat 47 32
def hIndex (h : HWord) : Nat := field h.toNat 31 16
/-- Size in bytes. -/
def hSize (h : HWord) : Nat := 64 * field h.toNat 14 0
/-- The handle names a tile of this module. -/
def hLocal (h : HWord) : Bool := hModule h == Config.moduleId

/-- The tile that a handle names, whatever its kind. -/
def tileObj (h : HWord) : HWord := BitVec.ofNat 128 (h.toNat % 2 ^ 126)

/-- A handle of this module (Table 25-3). -/
def mkHandle (kind asid die gen index size : Nat) : HWord :=
  BitVec.ofNat 128 (kind * 2 ^ 126 + asid * 2 ^ 112 + Config.moduleId.toNat * 2 ^ 64 + die * 2 ^ 61 + gen * 2 ^ 32
    + index * 2 ^ 16 + size / 64)

def State.tile (s : State) (die ix : Nat) : Tile := tget (s.die die).tiles ix {}
def State.modTile (s : State) (die ix : Nat) (f : Tile → Tile) : State :=
  s.modDie die fun d => { d with tiles := tput d.tiles ix (f (tget d.tiles ix {})) }

/-- The handle is stale: its generation differs, or its entry is FREE (Table 24-6). -/
def State.stale (s : State) (h : HWord) : Bool :=
  let t := s.tile (hDie h) (hIndex h)
  t.st == 0 || t.gen != hGen h

/-- Pages of a tile's storage (R343). -/
def tilePages (size : Nat) : Nat := (size + 4095) / 4096

/-- A sealed or abandoned tile without see handles returns to FREE (R346). -/
def State.tileFree (s : State) (die ix : Nat) : State :=
  let t := s.tile die ix
  if 2 ≤ t.st ∧ t.sees = 0 then
    (s.modTile die ix fun t => { gen := (t.gen + 1) % 65536 }).modDie die fun d =>
      { d with poolUsed := d.poolUsed - tilePages t.size }
  else s

/-- A load through a handle that is parked on a tile. -/
def Op.parkedOn (o : Op) (die ix : Nat) : Bool :=
  match o.instr with
  | .hld .. => o.holding && hLocal (o.record.getD 0) && hDie (o.record.getD 0) == die && hIndex (o.record.getD 0) == ix
  | _ => false

/-- The bytes of a tile that a lane of an HLD reads. -/
def Tile.read (t : Tile) (o n : Nat) : List Byte := memRead t.bytes o n

/-- Lines that a wave's team has bound to a tile. -/
def State.tileLines (s : State) (w : Wave) (h : HWord) : List Nat := s.boundLines w ((s.teamOf w).bound 3 (tileObj h))

/-- A load through a see handle acquires at module scope (R225). -/
def State.tileAcquire (s : State) (wk : Nat) (h : HWord) : State :=
  match s.wave wk with
  | some w =>
      if hKind h = 2 then
        (s.acquire w .module (s.tileLines w h)).acquireOn (objTile (hDie h) (hIndex h) (hGen h)) wk 4
          (some (bindSegs ((s.teamOf w).bound 3 (tileObj h))))
      else s
  | none => s

/-- An HLD reads its lanes' bytes of a tile and completes. -/
def State.hldRead (s : State) (id : Nat) (t : Tile) : State :=
  match s.op id with
  | none => s
  | some o =>
      match o.instr with
      | .hld _ sign w d _ _ _ =>
          let bytes (l : Nat) : List Byte := t.read (tget o.addrs l 0).toNat w.bytes
          let s := s.tileAcquire o.wave (o.record.getD 0)
          let s := s.opWrite id (loadRegs d w sign o.todo bytes)
          (s.modWave o.wave fun w => { w with done := 0 }).opDone id true
      | _ => s

/-- Parked loads wake: they read a sealed tile, and take BASIN_ABANDONED on an abandoned one (R346, R347). -/
def State.unparkTile (s : State) (die ix : Nat) : State :=
  let t := s.tile die ix
  (s.ops.filter fun o => o.2.parkedOn die ix).foldl (fun s o =>
    if t.st = 2 then s.hldRead o.1 t
    else if t.st = 3 then s.opFault o.1 fBasinAbandoned o.2.mask 0 ((o.2.record.getD 0).setWidth 64)
    else s) s

/-- A see handle is created, or dies (Table 24-5). -/
def State.seeUp (s : State) (h : HWord) : State :=
  if !hLocal h || s.stale h then s else s.modTile (hDie h) (hIndex h) fun t => { t with sees := t.sees + 1 }
def State.seeDown (s : State) (h : HWord) : State :=
  if !hLocal h || s.stale h then s
  else (s.modTile (hDie h) (hIndex h) fun t => { t with sees := t.sees - 1 }).tileFree (hDie h) (hIndex h)

/-- The fill handle is dropped, or dies undropped (Table 24-5). -/
def State.fillEnd (s : State) (h : HWord) (dropped : Bool) : State :=
  if !hLocal h || s.stale h || (s.tile (hDie h) (hIndex h)).st != 1 then s
  else
    let s := s.modTile (hDie h) (hIndex h) fun t => { t with st := if dropped then 2 else 3, fill := .lost }
    (s.unparkTile (hDie h) (hIndex h)).tileFree (hDie h) (hIndex h)

/-- A handle ends: `dropped` tells a drop of a fill handle from its death. -/
def State.handleEnd (s : State) (h : HWord) (dropped : Bool) : State :=
  match hKind h with
  | 1 => s.fillEnd h dropped
  | 2 => s.seeDown h
  | _ => s

/-- The see count is at its limit (R350). -/
def State.seeFull (s : State) (h : HWord) : Bool :=
  hKind h == 2 && hLocal h && !s.stale h && 2 ^ 32 - 1 ≤ (s.tile (hDie h) (hIndex h)).sees

/-- Set a handle register. -/
def State.setHandle (s : State) (wk n : Nat) (h : HWord) : State :=
  s.modWave wk fun w => { w with regs := { w.regs with h := tset w.regs.h n h 0 } }

/-- Note where a fill handle of this module lives (R343). -/
def State.fillAt (s : State) (h : HWord) (loc : FillLoc) : State :=
  if hKind h = 1 ∧ hLocal h ∧ !s.stale h then s.modTile (hDie h) (hIndex h) fun t => { t with fill := loc } else s

/-- A handle arrives in a register; in one of a wave that has ended it dies (R350). -/
def State.giveHandle (s : State) (wk n : Nat) (h : HWord) : State :=
  if (s.wave wk).isNone then s.handleEnd h false else (s.setHandle wk n h).fillAt h (.reg wk n)

/-- The handle register that a basin form writes or sends. -/
def Op.handleReg (o : Op) : Nat :=
  match o.instr with
  | .hstm _ _ _ a | .hldm _ a _ _ _ | .hldmRing _ a _ _ _ | .hxfer _ _ a _ _ | .hdrop _ a => a
  | _ => 0

/-! ## Accumulator tiles (R244, R264) -/

/-- The rank of a team: queue order of its launch, over all home dies (log entry 31), cluster, logical team index (R244). -/
def State.teamRank (s : State) (tk : Nat) : Nat :=
  match s.team tk with
  | none => 0
  | some t => (((s.launch t.launch).map Launch.order).getD 0) * 2 ^ 40 + t.cluster * 16 + t.lti

def State.acc (s : State) (ck n : Nat) : Acc := tget (s.core ck).accs n {}
def State.modAcc (s : State) (ck n : Nat) (f : Acc → Acc) : State :=
  s.modCore ck fun c => { c with accs := tput c.accs n (f (tget c.accs n {})) }

/-- Grant a tile to a team: its cells hold undefined values (R235). -/
def State.accGive (s : State) (ck n tk : Nat) : State :=
  let s := { s with opSeq := s.opSeq + 1 }
  s.modAcc ck n fun a => { a with holder := some tk, seed := some (s.opSeq - 1), cells := [], writers := [], freeing := false }

/-- pS of an ACCALLOC. -/
def Op.accPs (o : Op) : Nat := match o.instr with | .accalloc _ _ ps _ => ps | _ => 7

/-- A request ends with a status; its writes hold the poison of its guard, which stays (R68, R260). -/
def State.accAnswer (s : State) (id : Nat) (ok : Bool) : State :=
  match s.op id with
  | none => s
  | some o =>
      (s.modOp id fun x => { x with writes := laneConst (.p o.accPs) o.mask (if ok then 1 else 0) :: x.writes }).opDone id false

/-- Teams that a team waits for (R244). -/
def State.waitsFor (s : State) (ck tk : Nat) : List Nat :=
  [0, 1, 2, 3].filterMap fun n =>
    let a := s.acc ck n
    if !a.freeing && a.waiters.any (fun id => ((s.op id).map fun o => o.wave / 32) == some tk) then a.holder else none

/-- Teams reached along wait-for edges. -/
def State.accReach (s : State) (ck : Nat) : Nat → List Nat → List Nat
  | 0, ts => ts
  | n + 1, ts =>
      s.accReach ck n ((ts.flatMap fun t => s.waitsFor ck t).foldl (fun l t => if t ∈ l then l else l ++ [t]) ts)

/-- Fail requests until no cycle of the wait-for graph is left: each time, one of the highest-ranked team in a
cycle (R244). -/
def State.breakCycles (s : State) (ck : Nat) : Nat → State
  | 0 => s
  | f + 1 =>
      let reqs := [0, 1, 2, 3].flatMap fun n => (s.acc ck n).waiters.filterMap fun id => (s.op id).map fun o => (n, id, o.wave / 32)
      let on := reqs.filter fun r => !(s.acc ck r.1).freeing && (s.acc ck r.1).holder.any fun h => r.2.2 ∈ s.accReach ck 8 [h]
      match on.foldl (fun (b : Option (Nat × Nat × Nat)) x => match b with
          | none => some x
          | some y => if s.teamRank y.2.2 < s.teamRank x.2.2 then some x else some y) none with
      | none => s
      | some (n, id, _) =>
          ((s.modAcc ck n fun a => { a with waiters := a.waiters.filter (· ≠ id) }).accAnswer id false).breakCycles ck f

/-- A command that is pending names the tile. -/
def Op.namesAcc (o : Op) (n : Nat) : Bool :=
  match o.instr with
  | .mma _ _ a _ _ | .mmah _ _ _ a _ _ | .mmai _ _ a _ _ | .mzero _ _ a | .mld _ _ a _ _ | .mst _ _ a _ _ => a == n
  | _ => false

/-- A tile without a holder goes to the waiting request of the lowest-ranked team; an edge to the new holder may close a
cycle (R244). -/
def State.accNext (s : State) (ck n : Nat) : State :=
  let ws := (s.acc ck n).waiters.filterMap fun id => (s.op id).map fun o => (s.teamRank (o.wave / 32), id, o.wave / 32)
  match ws.foldl (fun (b : Option (Nat × Nat × Nat)) x => match b with
      | none => some x
      | some y => if x.1 < y.1 then some x else some y) none with
  | none => s
  | some (_, _, tk) =>
      let mine := (s.acc ck n).waiters.filter fun id => ((s.op id).map fun o => o.wave / 32) == some tk
      let s := (s.accGive ck n tk).modAcc ck n fun a => { a with waiters := a.waiters.filter fun id => id ∉ mine }
      (mine.foldl (fun s id => s.accAnswer id true) s).breakCycles ck 16

/-- A team gives a tile up: at once, or when every command of it that names the tile has completed (R265); a command whose
record waits for queue room has (R257). -/
def State.accFree (s : State) (ck n tk : Nat) : State :=
  if (s.acc ck n).holder ≠ some tk then s
  else if s.ops.any fun o => o.2.wave / 32 == tk && o.2.namesAcc n && !o.2.finished then
    s.modAcc ck n fun a => { a with freeing := true }
  else
    (s.modAcc ck n fun a => { a with holder := none, seed := none, cells := [], writers := [], freeing := false }).accNext ck n

/-- A tile whose release was waiting for commands is released when none is left. -/
def State.accSettle (s : State) (ck : Nat) : State :=
  [0, 1, 2, 3].foldl (fun s n =>
    let a := s.acc ck n
    match a.freeing, a.holder with
    | true, some tk => s.accFree ck n tk
    | _, _ => s) s

/-! ## Ranks of the Gauge unit (R339) -/

/-- The Gauge unit of a wave's die serves its launch. -/
def State.gaugeServes (s : State) (w : Wave) : Bool := (s.die w.die).gauge.launch == some w.launch

/-- Lanes of a wave whose GADD has issued and is pending. -/
def State.gaddLanes (s : State) (wk : Nat) : Mask :=
  (s.opsOf wk).foldl (fun m o => match o.2.instr with
    | .gadd .. => m ||| o.2.mask
    | _ => m) 0

/-- The open ranks of some lanes close without a sample. At retirement a lane whose GADD has issued keeps its rank open, for
that GADD closes it; a thread that is killed closes it (R339). -/
def State.gaugeClose (s : State) (w : Wave) (m : Mask) (killed : Bool) : State :=
  match (s.launch w.launch).bind Launch.est with
  | none => s
  | some e =>
      if !s.gaugeServes w then s
      else
        let m := if killed then m else m &&& ~~~ s.gaddLanes (waveKey w.team w.ix)
        s.modDie w.die fun d =>
          let rs := ((lanes m).map fun l => s.rank w l).filter fun r => r < e.n ∧ r ∉ d.gauge.taken ∧ r ∉ d.gauge.closed
          { d with gauge := { d.gauge with closed := d.gauge.closed ++ rs } }

/-! ## Regions whose membership breaks (R293, R312) -/

/-- The participant waves of the region that a wave's configuration names (R291). -/
def State.rlxTeams (s : State) (w : Wave) (cluster : Bool) : List Nat :=
  let t := s.teamOf w
  let h := s.hdr w
  if cluster then (List.range h.n).map fun j => teamKey t.launch t.cluster (stageOf h t.lti * h.n + j) else [w.team]

/-- Waves that wait at RLXBEG for a region in which a wave takes part take RLX_MEMBER. -/
def State.rlxMemberGone (s : State) (wk : Nat) (w : Wave) : State :=
  let s := match w.region with | some rk => s.abandon rk (some wk) | none => s
  let waiting := s.ops.filter fun o => match o.2.instr with
    | .rlxbeg _ => o.2.wave != wk && (match s.wave o.2.wave with
        | some v => (s.rlxTeams v v.rlx.cluster).contains w.team
        | none => false)
    | _ => false
  waiting.foldl (fun s o => s.opFault o.1 fRlxMember 0 0 0) s

/-! ## Team records (R410) -/

/-- Address of a team's record. -/
def State.teamRecAddr (s : State) (w : Wave) : DWord :=
  let h := s.hdr w
  let t := s.teamOf w
  BitVec.ofNat 64 (h.sb.toNat + 512 * h.g * stackA h + 0x900 * (t.cluster * 16 + t.lti))

/-- Write part of a team's record; a page that does not translate leaves it unwritten, and the code is given. -/
def State.recWrite (s : State) (w : Wave) (off : Nat) (bs : List Byte) : Except Nat State :=
  s.asidWrite w.die (s.hdr w).asid (s.teamRecAddr w + BitVec.ofNat 64 off) bs

/-- A record that could not be written is owed: where its page keeps it back, with an entry of the fault queue; where its line is
pinned, without one (R410, R222). -/
def State.owe (s : State) (lk wk : Nat) (w : Wave) (addr : DWord) (bs : List Byte) (code : Nat) : State :=
  let id := s.opSeq
  let s := ({ s with opSeq := id + 1 } : State).modLaunch lk fun l => { l with owes := l.owes ++ [⟨w.die, addr, bs, id⟩] }
  if code = fRetry then s
  else
    let a := (s.hdr w).asid
    s.fqAdd w.die
      { va := BitVec.ofNat 64 (addr.toNat % 2 ^ 57), pc := 0, mask := 0, gen := s.gen a, asid := a
        cause := if code = fWriteProtect then 1 else 0, kind := 1, path := 0, wslot := w.wslot, core := w.core, team := (s.teamOf w).lti
        wave := wk, op := some id }

/-- Write part of the record of a wave's team, or owe it. -/
def State.recOwe (s : State) (wk : Nat) (w : Wave) (off : Nat) (bs : List Byte) : State :=
  match s.recWrite w off bs with
  | .ok s => s
  | .error c => if c < fNotResident then s else s.owe w.launch wk w (s.teamRecAddr w + BitVec.ofNat 64 off) bs c

/-- An owed record is tried again once its entry is completed: it is written, or stays owed, with a new entry where its page is
still not resident (R157, R410). -/
def State.oweTry (s : State) (lk : Nat) (l : Launch) (r : OwedRec) : State :=
  match (s.die r.die).fq.find? fun e => e.op == some r.entry with
  | some _ => s
  | none =>
      let less (s : State) : State := s.modLaunch lk fun l => { l with owes := l.owes.erase r }
      match s.asidWrite r.die l.hdr.asid r.addr r.bytes with
      | .ok t => less t
      | .error c =>
          if c = fRetry then s
          else if c < fNotResident then less s
          else
            let id := s.opSeq
            let e : FqEntry :=
              { va := BitVec.ofNat 64 (r.addr.toNat % 2 ^ 57), pc := 0, mask := 0, gen := s.gen l.hdr.asid, asid := l.hdr.asid
                cause := if c = fWriteProtect then 1 else 0, kind := 1, path := 0, wslot := 0, core := 0, team := 0, wave := 0, op := some id }
            (({ s with opSeq := id + 1 } : State).modLaunch lk fun l => { l with owes := l.owes.map fun x => if x = r then { x with entry := id } else x }).fqAdd
              r.die e

/-- The header of a team record (Table 28-10). -/
def teamHeader (t : Team) (killed : Bool) : List Byte :=
  let tn := t.cluster * 16 + t.lti
  leBytes 4 (tn % 2 ^ 32) ++ leBytes 4 t.waves ++ leBytes 4 (if killed then 2 else 1)
    ++ leBytes 4 (min t.storageErrs 0xFFFFFFFF) ++ leBytes 4 t.storageCode ++ leBytes 4 (min t.softErrs 0xFFFFFFFF)
    ++ leBytes 8 t.storagePlace.toNat ++ leBytes 8 t.storagePc.toNat ++ leBytes 8 t.clkFirst.toNat ++ leBytes 8 t.clkLast.toNat
    ++ leBytes 4 (tn / 2 ^ 32) ++ List.replicate 196 0

/-! ## Collective reductions (R419) -/

/-- The destination of a CRED and what it receives. -/
def Op.credWrite (o : Op) (x : Word) : List RegWrite :=
  match o.instr with
  | .cred _ _ _ (.v n) _ => [laneConst (.v n) o.mask (x.setWidth 64)]
  | .cred _ _ _ (.s n) _ => [laneConst (.s n) 1 (x.setWidth 64)]
  | _ => []

/-- What the wave of an operation receives: the root, or an undefined word where the arrivals differ in OP or TYPE. -/
def CredInst.value (c : CredInst) (s : State) (root : Word) (id : Nat) : Word :=
  match c.ops with
  | [] => root
  | x :: t => if t.all fun y => y.2 == x.2 then root else s.free 32 (2 ^ 44 + id)

/-- Every wave of the team has arrived in an instance, or has ended: it completes. A wave that is taken off finds the
root when it issues its CRED again. -/
def State.credStep (s : State) (tk : Nat) (t : Team) (k : Nat) (c : CredInst) : State :=
  if c.root.isSome ∨ !(List.range t.waves).all (fun i => i ∈ c.arrived || i ∈ t.exited || i ∈ t.killed) then s
  else
    let root := match c.ops with
      | [] => 0
      | x :: _ => credRoot x.2.1 x.2.2 t.topo c.leaves
    let s := c.ops.foldl (fun s x => match s.op x.1 with
      | some o => (s.opWrite x.1 (o.credWrite (c.value s root x.1))).opDone x.1 true
      | none => s) s
    let away : Bool := s.waves.any fun w => w.2.team == tk && w.2.off
    s.modTeam tk fun t => { t with creds :=
      (if away then tput t.creds k { c with root := some (c.value s root 0) } else tdel t.creds k) }

def State.credSettle (s : State) (tk : Nat) : State :=
  match s.team tk with
  | none => s
  | some t => t.creds.foldl (fun s x => s.credStep tk t x.1 x.2) s

/-! ## Retirement and kill -/

/-- Register slots of a team's block (R83). -/
def blockSlots (waves v : Nat) : Nat := (waves * v + 255) / 256 * 256

/-- The granules of a team's register block. -/
def blockGrans (base waves v : Nat) : List Nat := (List.range (blockSlots waves v / 32)).map fun k => base / 32 + k

/-- A granule is given up: from REG or SCR it enters CACHE, with no line valid; one that is draining still drains, and is in
CACHE then (R82). -/
def Core.giveUp (c : Core) (g : Nat) : Core :=
  match tfind c.grans g with
  | some .drain => { c with drains := tput c.drains g .cache }
  | _ => { c with grans := tdel c.grans g, drains := tdel c.drains g }

def State.granFree (s : State) (ck : Nat) (gs : List Nat) : State :=
  s.modCore ck fun c => gs.foldl (fun c g => c.giveUp g) c

/-- The last wave of a team has ended: its register block and barrier slots are freed, its pins end, its accumulator
tiles go on, and, when every team of the cluster has ended, the scratchpads of the cluster (R23, R223, R235). -/
def State.teamEnd (s : State) (tk : Nat) : State :=
  match s.team tk with
  | none => s
  | some t =>
      let ck := coreKey t.die t.core
      let v := ((s.launch t.launch).map fun l => l.hdr.v).getD 8
      let s := match t.base with
        | some b => s.granFree ck (blockGrans b t.waves v)
        | none => s
      let s := (s.modTeam tk fun t => { t with base := none, past := [], pastLive := [], freed := true, accs := [], wslots := [] }).unpinTeam tk 4
      let s := if t.out then s else s.modCore ck fun c => { c with barUsed := c.barUsed - t.bars }
      let s := [0, 1, 2, 3].foldl (fun s n =>
        let s := s.modAcc ck n fun a => { a with waiters := a.waiters.filter fun id => ((s.op id).map fun o => o.wave / 32) ≠ some tk }
        s.accFree ck n tk) s
      let mates := s.teams.filter fun x => x.2.launch == t.launch && x.2.cluster == t.cluster
      if mates.all fun x => x.2.freed then
        mates.foldl (fun s x => (s.granFree (coreKey x.2.die x.2.core) x.2.gran).modTeam x.1 fun t => { t with gran := [], scr := [], writers := [] }) s
      else s

/-- The end that retirement and kill share: handles die, also a fill handle that a pending HSTM has not moved out of its register
yet (that HSTM then clears its slot, log entry 36), open transactions are discarded, ranks close, the
region loses its member, and the wave leaves its slot. Its registers stay while its team's block stands (R88). -/
def State.waveGone (s : State) (wk : Nat) (w : Wave) (killed : Bool) : State :=
  let s := s.rlxMemberGone wk w
  let s := s.gaugeClose w w.live killed
  let s := s.modTeam w.team fun t =>
    { t with past := tput t.past w.ix { v := w.regs.v, vP := w.regs.vP }, pastLive := tput t.pastLive w.ix w.live }
  let s := s.modWave wk fun w => { w with regs := { w.regs with h := [] } }
  let s : State := { s with ops := s.ops.map fun (x : Nat × Op) =>
    if x.2.wave = wk && (match x.2.instr with | .hstm .. => true | _ => false) && x.2.record.any fun h => hKind h == 1
    then (x.1, { x.2 with record := some 0 }) else x }
  let s := w.regs.h.foldl (fun s x => s.handleEnd x.2 false) s
  let s := s.modDie w.die fun d => { d with trace := { d.trace with resync := d.trace.resync.filter (· ≠ wk) } }
  let s := if (s.hdr w).rrmode = 0 then s else s.modLaunch w.launch fun l => { l with rr := { l.rr with hash := l.rr.hash + w.storeSum } }
  let s := s.modCore (coreKey w.die w.core) fun c => { c with owner := if c.owner = some wk then none else c.owner }
  ({ s with waves := tdel s.waves wk } : State).credSettle w.team

/-- Every wave of the team has ended. -/
def Team.allGone (t : Team) : Bool := t.exited.length + t.killed.length == t.waves

/-- RETIREMENT of a wave (R32, R36, R111, R350, R410), once it has no path and its counters are zero. It arrives at its
barriers, each arrival a release of .TEAM scope (R203). A page of its team record that is not resident holds the retirement,
with a fault-queue entry; a pinned line of it holds the retirement too (R222). -/
def State.retire (s : State) (wk : Nat) : State :=
  match s.wave wk with
  | none => s
  | some w0 =>
      let w := w0.settle s.now
      if w.slot0.isSome ∨ w.slot1.isSome ∨ w.stack ≠ [] ∨ !w.waitOk 63 ∨ w.parked ≠ [] ∨ w.trap.pend.isSome then s
      else if (s.enrolledIn w.team w.ix).any fun b => s.barHeld wk w (s.barLines w b) then s
      else
        let bank := (List.range 16).flatMap fun k => leBytes 4 (tget w.stalls k 0)
        let t := s.teamOf w
        let last : Bool := t.exited.length + t.killed.length + 1 == t.waves
        let clk := s.clock (coreKey w.die w.core)
        let hdr := teamHeader { t with clkLast := clk } (t.killed != [])
        let out : Except Nat State := match s.recWrite w (0x100 + 64 * w.ix) bank with
          | .error c => .error c
          | .ok s => if last then s.recWrite w 0 hdr else .ok s
        let go (s : State) : State :=
          let s := s.modTeam w.team fun t => { t with exited := t.exited ++ [w.ix], clkLast := clk }
          let s := (s.enrolledIn w.team w.ix).foldl (fun s b =>
            (s.release w .team (s.barLines w b)).barArrive w.team b w.ix true) s
          let s := s.waveGone wk w false
          if last then s.teamEnd w.team else s
        match out with
        | .ok s => go s
        | .error c =>
            if c = fRetry then s
            else if c < fNotResident then go s
            else s.hwPark wk 0 0 0 ((s.teamRecAddr w).toNat % 2 ^ 57) c true

/-- KILL of a wave (R37, R350, R410): every barrier in which it is enrolled breaks, when the cycle's arrivals are made (R38). What it has issued goes
on; what holds it, or is parked, ends. -/
def State.kill (s : State) (wk : Nat) : State :=
  match s.wave wk with
  | none => s
  | some w =>
      let stops := (s.opsOf wk).filter fun o => decide (o.1 ∈ w.parked) || (w.heldBy o.1 && !o.2.tkBegun) || (match o.2.instr with
        | .hstm .. | .hldm .. | .hldmRing .. | .pgreq .. => true
        | _ => false)
      let s := stops.foldl (fun s o => s.delOp o.1) s
      let bank := (List.range 16).flatMap fun k => leBytes 4 (tget w.stalls k 0)
      let t := s.teamOf w
      let last : Bool := t.exited.length + t.killed.length + 1 == t.waves
      let clk := s.clock (coreKey w.die w.core)
      let s := s.recOwe wk w (0x100 + 64 * w.ix) bank
      let s := if last then s.recOwe wk w 0 (teamHeader { t with clkLast := clk } true) else s
      let s := s.modTeam w.team fun t => { t with killed := t.killed ++ [w.ix], clkLast := clk }
      let s := { s with breaks := s.breaks ++ (s.enrolledIn w.team w.ix).map fun b => (w.team, b) }
      let s := s.waveGone wk w true
      if last then s.teamEnd w.team else s

/-- The waves of aborted launches are killed, and no further cluster of them is dispatched (R37, R396). -/
def State.reap (s : State) : State :=
  let gone := (s.launches.filter fun l => l.2.aborted.isSome && l.2.st != .done).map (·.1)
  let s := (s.waves.filter fun w => w.2.launch ∈ gone).foldl (fun s w => s.kill w.1) s
  let s := s.teams.foldl (fun s t => if t.2.launch ∈ gone ∧ !t.2.freed then s.teamEnd t.1 else s) s
  { s with dies := s.dies.map fun d => (d.1, { d.2 with slots := d.2.slots.map fun b =>
      (b.1, if b.2.launch ∈ gone then { b.2 with valid := false } else b.2) }) }

end Sys2Proof.Machine
end

