-- ==== Sys2Proof/Machine/Pool.lean ====
section
/-! DEFINITION. Key/value pools in memory (R282, R283), and the places of a sequence that a program may reach only between its two
fences (R284). -/

namespace Sys2Proof.Machine

/-- A pool control block (Table 19-6). -/
structure PoolBlk where
  kv : DWord
  seqTab : DWord
  nseq : Nat
  row : Nat
  high : Nat
  low : Nat
  ring : DWord
  deriving DecidableEq, Repr

def poolBlk (x : Nat) : PoolBlk :=
  { kv := BitVec.ofNat 64 (field x 511 448), seqTab := BitVec.ofNat 64 (field x 447 384), nseq := field x 383 352, row := field x 351 320
    high := field x 319 288, low := field x 287 256, ring := BitVec.ofNat 64 (field x 63 0) }

/-- A sequence record (Table 19-7) with its index. -/
structure SeqRec where
  ix : Nat
  swap : Nat
  score : DWord
  remap : DWord
  cap : Nat
  len : Nat
  w : Nat
  f : Nat
  prio : Nat
  epoch : Nat
  st : Nat
  deriving DecidableEq, Repr

def seqRec (ix x : Nat) : SeqRec :=
  { ix := ix, swap := field x 511 448, score := BitVec.ofNat 64 (field x 447 384), remap := BitVec.ofNat 64 (field x 383 320)
    cap := field x 319 288, len := field x 287 256, w := field x 255 240, f := field x 239 224, prio := field x 223 216, epoch := field x 63 32, st := field x 31 0 }

/-- A pool at work: its die, registration and block. -/
structure PoolAt where
  die : Nat
  asid : Nat
  blk : PoolBlk
  deriving DecidableEq, Repr

def PoolAt.recAddr (p : PoolAt) (ix : Nat) : DWord := p.blk.seqTab + BitVec.ofNat 64 (64 * ix)
def PoolAt.slotAddr (p : PoolAt) (slot : Nat) : DWord := p.blk.kv + BitVec.ofNat 64 (slot * p.blk.row)

/-- The pools that are registered for an address space. The guard of R284 looks at what a block, a record and a remap table hold; it is no
access, and no pin holds it back. -/
def State.poolsOf (s : State) (asid : Nat) : List PoolAt :=
  s.dies.filterMap fun d => d.2.pool.bind fun p =>
    if p.asid = asid then (match ({ s with pins := [] } : State).fwRead d.1 p.asid p.block 64 with
      | .ok bs => some ⟨d.1, p.asid, poolBlk (leNat bs)⟩
      | .error _ => none)
    else none

/-- The sequence records of a pool. -/
def State.seqsOf (s : State) (p : PoolAt) : List SeqRec :=
  (List.range p.blk.nseq).filterMap fun k => match ({ s with pins := [] } : State).fwRead p.die p.asid (p.recAddr k) 64 with
    | .ok bs => some (seqRec k (leNat bs))
    | .error _ => none

/-- A range of the global window, as a place. -/
def globSeg (a : DWord) (n : Nat) : Seg := ⟨.glob (a.toNat % 2 ^ 57), n⟩

/-- What R284 guards of a sequence: LEN, the remap table, the scores and the slots. -/
def State.seqGuarded (s : State) (p : PoolAt) (q : SeqRec) : List Seg :=
  [globSeg (p.recAddr q.ix + 32) 4, globSeg q.remap (4 * q.cap), globSeg q.score (4 * q.cap)] ++
    (List.range q.cap).filterMap fun k => match ({ s with pins := [] } : State).fwRead p.die p.asid (q.remap + BitVec.ofNat 64 (4 * k)) 4 with
      | .ok bs => if leNat bs = 0xFFFFFFFF then none else some (globSeg (p.slotAddr (leNat bs)) p.blk.row)
      | .error _ => none

/-- Number of a sequence: its address space, and the address of its record. -/
def PoolAt.seqKey (p : PoolAt) (ix : Nat) : Nat := p.asid * 2 ^ 64 + (p.recAddr ix).toNat

/-- An event of a wave, with what it comes after and the wave's latest FENCE, lies after the FENCE that follows the CAS that took
the sequence, and the sequence is BUSY (R284). -/
def State.seqOpen (s : State) (p : PoolAt) (q : SeqRec) (wk : Nat) (hb : List Heard) (fence : Option Nat) : Bool :=
  q.st == 1 && (tfind s.seqHeld (p.seqKey q.ix)).any fun h => h.fenced.any fun t =>
    if h.wave = wk then fence.any (t ≤ ·) else heardOf hb h.wave t none

/-- The bytes of some places that belong to sequences of the wave's address space which the wave may not reach (R284). -/
def State.poolLost (s : State) (asid wk : Nat) (hb : List Heard) (fence : Option Nat) (gs : List Seg) : List Seg :=
  (s.poolsOf asid).flatMap fun p => (s.seqsOf p).flatMap fun q =>
    if s.seqOpen p q wk hb fence then [] else segsIn gs (s.seqGuarded p q)

/-- Accesses to a sequence since its holder's latest FENCE: undefined if the sequence is returned without another (R284). -/
def State.poolTouch (s : State) (asid : Nat) (gs : List Seg) : State :=
  (s.poolsOf asid).foldl (fun s p => (s.seqsOf p).foldl (fun s q =>
    let t := segsIn gs (s.seqGuarded p q)
    if t = [] then s
    else { s with seqHeld := tmod s.seqHeld (p.seqKey q.ix) fun h => { h with touched := h.touched ++ t } }) s) s

/-- A FENCE of .MODULE scope or wider of a wave that holds sequences (R284). -/
def State.poolFence (s : State) (wk scope : Nat) : State :=
  if scope < 4 then s
  else { s with seqHeld := s.seqHeld.map fun (x : Nat × SeqHold) =>
    (x.1, if x.2.wave = wk then { x.2 with fenced := some (x.2.fenced.getD s.stamp), touched := [] } else x.2) }

/-- A CAS of a wave on the STATE of a sequence has found `old` and written `new` (R284): it takes the sequence, or returns it; the
bytes whose contents are then undefined are given. -/
def State.poolCas (s : State) (asid wk : Nat) (a : DWord) (old new : Nat) : State × List Seg :=
  match (s.poolsOf asid).findSome? fun p => ((List.range p.blk.nseq).find? fun k => p.recAddr k == a).map fun k => p.seqKey k with
  | none => (s, [])
  | some key =>
      if old = 0 ∧ new = 1 then ({ s with seqHeld := tput s.seqHeld key { wave := wk } }, [])
      else if old = 1 ∧ new = 0 then
        ({ s with seqHeld := tdel s.seqHeld key }, ((tfind s.seqHeld key).map SeqHold.touched).getD [])
      else (s, [])

end Sys2Proof.Machine
end

