-- ==== Sys2Proof/Machine/Access.lean ====
section
/-! DEFINITION. Memory accesses: the checks at issue (R163), the first walk and its faults (R154, R158, R458), the
order of a wave's accesses (R182, R227), pins and retries (R189, R222, R223), release and acquire (R203), the
transactions' accesses (R192), body accesses (R307, R308), atomics (R188), rings (R197-R199), record and replay
(R210-R215), and the scope checker (R408). -/

namespace Sys2Proof.Machine

/-! ## Accesses that race with a command (R226, R237) -/

def Op.isCmd (o : Op) : Bool := o.instr.isCommand
/-- Places, before translation, that a command writes, and that it reads. -/
def Op.dest (o : Op) : List Seg := tget o.segs 0 []
def Op.src (o : Op) : List Seg := tget o.segs 1 []

/-- Address space of a wave, which may have ended, for places that are not translated. -/
def State.asidOf (s : State) (wk : Nat) : Nat :=
  (((s.team (wk / 32)).bind fun t => s.launch t.launch).map fun l => l.hdr.asid).getD 0

/-- The wave that an operation belongs to; after the wave's end, what its accesses still need of it, and true. -/
def State.actor (s : State) (o : Op) : Wave × Bool :=
  match s.wave o.wave with
  | some w => (w, false)
  | none =>
      let t := s.team (o.wave / 32)
      ({ launch := (t.map Team.launch).getD 0, team := o.wave / 32, ix := o.wave % 32, die := (t.map Team.die).getD 0
         core := (t.map Team.core).getD 0, wslot := 0, live := 0 }, true)

/-- The command is pending. -/
def State.cmdPending (s : State) (id : Nat) : Bool := (s.op id).any fun o => o.isCmd && !o.finished

/-- What commands of a wave's address space write that the wave does not find complete now (R226, R281). -/
def State.openDests (s : State) (wk : Nat) : List Seg :=
  match s.wave wk with
  | none => []
  | some w => s.cmdLog.flatMap fun x =>
      if s.asidOf x.2.wave == s.asidOf wk then s.cmdUnknown wk w.seen w.unseenCmds x.1 x.2 x.2.dest else []

/-- Places whose bytes are undefined to an access of operation `id`, or made so: what a command of the same address space writes,
as long as the access does not come after its completion; and what a command that the wave itself issued before reads (R226, R237).
`mine` asks for the wave's own commands only. -/
def State.cmdPlaces (s : State) (id : Nat) (o : Op) (mine : Bool) : List Seg :=
  s.cmdLog.flatMap fun x =>
    let own : Bool := x.2.wave == o.wave
    let gs := x.2.dest ++ (if own && x.1 < id then x.2.src else [])
    if x.1 == id || s.asidOf x.2.wave != s.asidOf o.wave || (mine && !own) then []
    else if s.cmdPending x.1 then gs
    else s.cmdUnknown o.wave o.hb o.unseen x.1 x.2 gs

/-- Places as they translate now; one that does not translate stays. -/
def State.placesNow (s : State) (w : Wave) (gs : List Seg) : List Seg :=
  gs.map fun g => match g.place with
    | .glob va => (match s.translate w.die (s.hdr w).asid va .load with
        | .ok pa mt key _ => ⟨.phys pa mt key, g.len⟩
        | .code _ => g)
    | _ => g

/-- Places of a lane before translation. -/
def State.lanePlaces (s : State) (w : Wave) (o : Op) (l : Nat) : List Seg :=
  match s.opPlaces w o l with | .ok g => g | .error _ => []

/-- Which bytes of some places lie in others, whichever address names them. -/
def State.inPlaces (s : State) (w : Wave) (gs cs : List Seg) : List Bool :=
  let ds := s.placesNow w cs
  (s.placesNow w gs).flatMap fun g => (List.range g.len).map fun k => segsMeet ds [⟨g.place.shift k, 1⟩]

/-- The bytes of some places, before translation, that are undefined to operation `id`: a command races with them (R226, R237), or
they belong to a sequence that its wave may not reach (R284). -/
def State.lostAt (s : State) (id : Nat) (o : Op) (gs : List Seg) (mine : Bool := false) : List Bool :=
  let cs := s.cmdPlaces id o mine ++ s.poolLost (s.asidOf o.wave) o.wave o.hb o.fence gs
  if cs = [] then [] else s.inPlaces (s.actor o).1 gs cs

/-- The bytes with those free that are undefined to the operation. -/
def State.lostBytes (s : State) (id : Nat) (o : Op) (l : Nat) (gs : List Seg) (bs : List Byte) : List Byte :=
  let r := s.lostAt id o gs
  (bs.zipIdx).map fun x => if r.getD x.2 false then s.free 8 (2 ^ 56 + 256 * l + x.2) else x.1

/-- The same of a lane's own access. -/
def State.racedBytes (s : State) (w : Wave) (id : Nat) (o : Op) (l : Nat) (bs : List Byte) : List Byte :=
  s.lostBytes id o l (s.lanePlaces w o l) bs

/-- The bytes of a command's places `cs` that an access reaches, whichever address it names, as the command names them. -/
def State.aliased (s : State) (w : Wave) (cs gs : List Seg) : List Seg :=
  let ds := s.placesNow w gs
  cs.flatMap fun c => (s.placesNow w [c]).flatMap fun d => (segsIn [d] ds).map fun p =>
    ⟨c.place.shift (p.place.off - d.place.off), p.len⟩

/-- What of a pending command an access of operation `o` leaves undefined to it: of what it writes, every byte; of what it reads, a
later access of its own wave; a write by another wave to scratchpad, or to the rows of a WEIRGET (R226, R237, R281). -/
def raceSegs (x : Nat × Op) (id : Nat) (o : Op) : List Seg :=
  let c := x.2
  c.dest ++ (if c.wave = o.wave then (if x.1 < id then c.src else [])
    else c.src.filter fun g => (match g.place with | .scr .. => true | _ => false) ||
      (match c.instr with | .weirget .. => true | _ => false))

/-- An access of the operation at some places races with pending commands, or only with those of its own wave: the bytes are
undefined to the commands too. -/
def State.noteRace (s : State) (id : Nat) (o : Op) (gs : List Seg) (mine : Bool := false) : State :=
  if s.ops.any fun x => x.2.isCmd && !x.2.finished then
    { s with ops := s.ops.map fun (x : Nat × Op) =>
        if x.2.isCmd && !x.2.finished && s.asidOf x.2.wave == s.asidOf o.wave && (!mine || x.2.wave == o.wave)
        then (x.1, { x.2 with raced := x.2.raced ++ s.aliased (s.actor o).1 (raceSegs x id o) gs }) else x }
  else s

/-- An access is made to sequences of a pool: it is noted (R284). -/
def State.notePool (s : State) (o : Op) (gs : List Seg) : State := s.poolTouch (s.asidOf o.wave) gs

/-- What a write of the operation leaves: commands that race with it, the order of its events, and the sequences it reaches. -/
def State.wrote (s : State) (id : Nat) (o : Op) (gs places : List Seg) : State :=
  ((s.noteRace id o gs).noteWrite o.wave id o.fence places (match o.instr with | .hstm .. => true | _ => false)).notePool o gs

/-- What a read leaves: the fences that it meets, and the sequences it reaches. A byte that a command of the wave itself reads or
writes, or of a sequence out of the wave's reach, holds an undefined value from here on (R237, R284). `gs` are the places before
translation, `places` those that were read, `now` of them those that were read now. -/
def State.didRead (s : State) (ck id : Nat) (o : Op) (gs places : List Seg) (now : List Seg := places) : State :=
  let r := s.lostAt id o gs true
  let s := ((if r.any (· == true) then s.noteRace id o gs true else s).noteRead o.wave now).notePool o gs
  if r.any (· == true) then
    s.writeSegs ck o.wave id places (((s.readSegs ck places).zipIdx).map fun x =>
      if r.getD x.2 false then s.free 8 (2 ^ 78 + x.2) else x.1)
  else s

/-! ## Issue -/

/-- The lanes' codes above the dividing row of Table 11-2. -/
def worstCode (cs : List (Nat × Nat)) : Option (Nat × Mask × Nat) :=
  match cs with
  | [] => none
  | x :: t =>
      let code := t.foldl (fun m y => min m y.2) x.2
      let ls := (cs.filter fun y => y.2 == code).map (·.1)
      some (code, maskOf fun l => l ∈ ls, ls.foldl min (ls.headD 0))

/-- Registers of the wave that a store writes through the register window: a read before the wait on its counter is
undefined (R94). -/
def Op.windowRegs (o : Op) : List RegWrite :=
  if !o.writesMem then []
  else (o.segs.flatMap (·.2)).filterMap fun g => match g.place with
    | .reg wk n l _ => if wk = o.wave then some { reg := .v n, mask := laneBit l } else none
    | _ => none

/-- THE ISSUE OF A MEMORY FORM for the lanes `m` at their addresses: a precise code of any lane is the form's
fault (R163); else the operation is pending, and the path waits for the first walk when some lane is to be
translated. `rs` are the destinations. -/
def Ctx.access (c : Ctx) (o : Op) (rs : List RegWrite) : State :=
  let ls := lanes o.todo
  let r (l : Nat) : Except (Nat × DWord) (List Seg) := c.s.opPlaces c.w o l
  let codes := ls.filterMap fun l => match r l with | .error e => some (l, e.1) | .ok _ => none
  match worstCode codes with
  | some (code, m, l) => c.fault code m (match r l with | .error e => e.2 | .ok _ => o.addr l)
  | none =>
      let segs := ls.map fun l => (l, match r l with | .ok g => g | .error _ => [])
      let walk : Bool := o.todo != 0 && (o.keeps || segs.any fun x => x.2.any fun g => g.place.isGlob)
      let id := c.s.opSeq
      let o := { o with segs := segs, walked := !walk, finished := o.todo == 0 }
      let s := if walk then c.holdOn o rs c.s else c.finish (c.pend id rs (c.s.addOp o))
      c.owns id o.windowRegs s

/-- A destination of a pending form in some lanes. -/
def destOf (r : OneReg) (m : Mask) : RegWrite := { reg := r, mask := m }

/-- The poison of a load in a lane: of its address, else of its guard (R68). -/
def Ctx.loadPois (c : Ctx) (m : Addr) (l : Nat) : Option Word :=
  if (c.addr m l).pois then some (c.addr m l).org else if (c.guard l).pois then some (c.guard l).org else none

/-- Lanes of a load that make no access and poison their destinations (R68). -/
def Ctx.poisLanes (c : Ctx) (m : Addr) : Mask := maskOf fun l => c.x.getLsbD l && (c.loadPois m l).isSome

/-- The poison that a destination receives in those lanes. -/
def Ctx.loadTag (c : Ctx) (m : Addr) (r : OneReg) : RegWrite :=
  let pm := c.poisLanes m
  let org (l : Nat) : Word := (c.loadPois m l).getD 0
  { reg := r, mask := pm, vals := (lanes pm).map fun l => (l, (org l).setWidth 64), pois := pm
    orig := (lanes pm).map fun l => (l, org l) }

/-- Lanes of the form in a transaction. -/
def Ctx.txMask (c : Ctx) : Mask := maskOf fun l => c.x.getLsbD l && (tget c.w.tx l {}).active
def Ctx.doomed (c : Ctx) : Mask := maskOf fun l => c.x.getLsbD l && (tget c.w.tx l {}).active && (tget c.w.tx l {}).doomed

/-- A memory operation over the lanes `m`. -/
def Ctx.memOp (c : Ctx) (a : Addr) (m : Mask) : Op :=
  { c.op with todo := m, u := [(c.txMask).setWidth 64], addrs := (lanes c.x).map fun l => (l, (c.addr a l).val) }

/-- The words of `n` registers from vN in lane `l`. -/
def Ctx.words (c : Ctx) (n k l : Nat) : List Word := (List.range k).map fun j => (c.rdV (n + j) l).val.setWidth 32

/-! ## Register effects of an operation -/

/-- A result that an operation writes when a lane performs (R181): in the registers, and in the checkpoint of a
span whose head came after the issue (R89). -/
def State.opRegs (s : State) (id : Nat) (rs : List RegWrite) : State :=
  match s.op id with
  | none => s
  | some o =>
      let rs := (rs.map fun r => { r with mask := r.mask &&& o.mask }).filter fun r => r.mask ≠ 0
      (s.modWave o.wave fun w => { w with regs := rs.foldl (fun g r => r.apply g) w.regs }).ckptLate o.wave id rs

/-- rotl64 (R213). -/
def rotl64 (x : DWord) (n : Nat) : DWord := x <<< n ||| x >>> (64 - n)

/-- The terms that a store of some bytes adds to the store sum (R213). -/
def sumTerms (a : DWord) (bs : List Byte) : DWord :=
  ((List.range ((bs.length + 7) / 8)).map fun k =>
    rotl64 (a + BitVec.ofNat 64 (8 * k)) 7 ^^^ BitVec.ofNat 64 (leNat ((bs.drop (8 * k)).take 8))).foldl (· + ·) 0

/-- The terms of a store's lanes. -/
def Op.sumTerms (o : Op) : DWord :=
  ((lanes o.mask).map fun l => Machine.sumTerms (o.addr l) ((bytesOf (tget o.data l [])).take o.width)).foldl (· + ·) 0

/-- Terms are added to the store sum of a wave of a recorded or replayed launch, and after the wave's end to the launch's hash
(R213). -/
def State.addTerms (s : State) (wk : Nat) (x : DWord) : State :=
  match s.wave wk with
  | some w => if (s.hdr w).rrmode = 0 then s else s.modWave wk fun w => { w with storeSum := w.storeSum + x }
  | none =>
      match (s.team (wk / 32)).map Team.launch with
      | none => s
      | some lk => s.modLaunch lk fun l => if l.hdr.rrmode = 0 then l else { l with rr := { l.rr with hash := l.rr.hash + x } }

/-- A memory operation whose lanes have all performed completes: its counter falls, the store sum of a
recorded or replayed launch rises (R213), and the done mask clears when it is this atomic's (R190). -/
def State.memDone (s : State) (id : Nat) : State :=
  match s.op id with
  | none => s
  | some o =>
      if o.todo ≠ 0 then s
      else if o.finished then s.opDone id false
      else
        let s := match o.instr with
          | .st .. | .rel .. => s.addTerms o.wave o.sumTerms
          | .atom .. | .red .. => s.modWave o.wave fun w =>
              if o.mask = 0 ∨ w.doneOf ≠ some id then w else { w with done := 0, doneOf := none }
          | _ => s
        s.opDone id false

/-- Lanes of an operation have performed. -/
def State.performed (s : State) (id : Nat) (m : Mask) : State :=
  (s.modOp id fun o => { o with todo := o.todo &&& ~~~ m, retry := o.retry &&& ~~~ m
                                gated := (lanes m).foldl (fun t l => tdel t l) o.gated }).memDone id

/-! ## The walk -/

/-- The page of a virtual address: of its leaf where the walk finds one, else of 4 KiB (R154, R169). -/
def State.pageOf (s : State) (w : Wave) (va : Nat) : Nat × Nat :=
  match s.walk w.die (s.hdr w).asid va with
  | .leaf _ bits => (va / 2 ^ bits, bits)
  | _ => (va / 4096, 12)

/-- A lane's faulting page, when it does not translate. -/
def State.laneFault (s : State) (w : Wave) (o : Op) (l : Nat) : Option (Nat × Nat) :=
  match s.translateSegs w (o.acc l) (o.seg l) with
  | .ok _ => none
  | .error e => some (e, s.badVa w (o.acc l) (o.seg l))

/-- THE WALK of an operation's lanes (R154, R157, R158, R163, R458): a precise code is the form's fault, at the
instruction when it is the first walk and after issue otherwise; while the walker waits for a pinned line nothing happens (R222);
lanes that translate may perform; the lowest
lane of a non-resident or protected page parks the wave with an entry for the lanes of that page. -/
def State.walkLanes (s : State) (id : Nat) : State :=
  match s.op id with
  | none => s
  | some o =>
      match s.wave o.wave with
      | none => s.delOp id
      | some w =>
          let ls := (lanes o.todo).filter fun l => !o.ready l
          let bad := ls.filterMap fun l => (s.laneFault w o l).map fun x => (l, x.1, x.2)
          if bad.any fun x => x.2.1 == fRetry then s else
          let precise := bad.filter fun x => x.2.1 < fNotResident
          match worstCode (precise.map fun x => (x.1, x.2.1)) with
          | some (code, m, l) =>
              if o.holding then s.opFault id code m (o.addr l) 0 else s.opLateFault id code m (o.addr l) 0
          | none =>
              let good := ls.filter fun l => !bad.any fun x => x.1 == l
              let s := good.foldl (fun s l => s.cacheSegs w (o.seg l)) s
              let segs := good.foldl (fun t l =>
                match s.translateSegs w (o.acc l) (o.seg l) with | .ok g => tput t l g | .error _ => t) o.segs
              let lost := maskOf fun l => bad.any fun x => x.1 == l
              let s := (segs.flatMap fun x => if x.1 ∈ good then [x.2] else []).foldl (fun s g => s.reachSegs g) s
              let s := s.modOp id fun o => { o with segs := segs, walked := true }
              let s := if o.keeps then s else s.goOn id
              if bad.isEmpty then s
              else if o.isNf then
                match o.instr with
                | .ldNf _ _ _ wd d pf _ =>
                    let s := if lost = o.todo then s.goOn id else s
                    ((s.opRegs id (((List.range wd.regs).map fun k => laneConst (.v (d + k)) lost 0)
                      ++ [laneConst (.p pf) lost 0])).performed id lost)
                | _ => s
              else
                match bad.head? with
                | none => s
                | some (l, e, va) =>
                    let m := maskOf fun k => bad.any fun x => x.1 == k && s.pageOf w x.2.2 == s.pageOf w va
                    s.park o.wave id o.slot o.pc (BitVec.ofNat 64 va) m (if e = fWriteProtect then 1 else 0) (o.acc l).kind

/-! ## The scope checker (R408) -/

/-- Outside the scope instance of a release (Table 14-2), as far as a line records it. -/
def State.outside (s : State) (w : Wave) (r : RelInfo) : Bool :=
  match r.scope with
  | 0 => r.wave != waveKey w.team w.ix
  | 1 => r.team != w.team
  | 2 => r.team / 16 != w.team / 16
  | 3 => ((s.team r.team).map Team.die).any fun d => d != w.die
  | _ => false

/-- The release outside whose scope instance an access at some places finds its wave, with its line. -/
def State.outsideAt (s : State) (w : Wave) (gs : List Seg) : Option (Nat × RelInfo) :=
  (segLines gs).findSome? fun x => (tfind s.rels x).bind fun r => if s.outside w r then some (x, r) else none

/-- The SCOPE record of an instruction of which a lane, at an ACQ or on a retry response, has met a narrower release: one for the
instruction, naming the line of the lowest such lane, whether or not the wave is traced (R408). `retried` asks for lanes whose
lines are pinned. -/
def State.scopeRecord (s : State) (id : Nat) (o : Op) (retried : Bool) : State :=
  match s.wave o.wave with
  | none => s
  | some w =>
      if !s.sck w || o.scopeSaid then s
      else match (lanes o.todo).findSome? fun l =>
          if o.ready l && (!retried || s.retried w.team (o.seg l)) then s.outsideAt w (o.seg l) else none with
        | none => s
        | some (x, r) =>
            let aux := r.scope + 256 * (r.team % 2 ^ 36)
            let pc : DWord := BitVec.ofNat 64 (128 * x)
            let s := s.modOp id fun o => { o with scopeSaid := true }
            if w.trace then s.trace o.wave 9 (s.opPath o) pc 0 aux
            else (s.traceRoom w.die).traceRec o.wave 9 (s.opPath o) pc 0 aux

/-! ## Loads and stores -/

/-- The origin of the first poisoned register-window lane among some places (R94). -/
def State.segPois (s : State) (gs : List Seg) : Option Word :=
  gs.findSome? fun g => match g.place with
    | .reg wk n k _ => if (tget (s.regsOf wk).vP n 0).getLsbD k then some (tget (s.regsOf wk).v (32 * n + k) 0) else none
    | _ => none

/-- A result of one lane with poison in place of its value. -/
def RegWrite.poisoned (r : RegWrite) (l : Nat) (x : Word) : RegWrite :=
  { r with pois := r.pois ||| laneBit l, vals := tput r.vals l (x.setWidth 64), orig := tput r.orig l x }

/-- A load's registers from a lane's bytes, with the poison of a register-window lane (R94, R184). A load that covers several
register lanes of which some are poisoned poisons every destination register with the origin of the first (log entry 25). -/
def State.loadLane (s : State) (o : Op) (l : Nat) (bs : List Byte) : List RegWrite :=
  let one := laneBit l
  let org := s.segPois (o.seg l)
  let rs := match o.instr with
    | .ld _ _ sg wd d _ => loadRegs d wd sg one fun _ => bs
    | .ldNf _ _ sg wd d pf _ => loadRegs d wd sg one (fun _ => bs) ++ [laneConst (.p pf) one 1]
    | .acq _ _ d _ => loadRegs d .w32 false one fun _ => bs
    | _ => []
  match org with
  | none => rs
  | some x => rs.map fun r => match r.reg with
      | .v _ => r.poisoned l x
      | _ => r

/-- The bytes that a store writes. -/
def Op.bytes (o : Op) (l : Nat) : List Byte := (bytesOf (tget o.data l [])).take o.width

/-! ## Transactional accesses (R192) -/

def Wave.modTx (w : Wave) (l : Nat) (f : TxLane → TxLane) : Wave := { w with tx := tput w.tx l (f (tget w.tx l {})) }

/-- Doom a lane; the first cause stays. -/
def TxLane.doom (t : TxLane) (cause : Nat) : TxLane := if t.doomed then t else { t with doomed := true, cause := cause }

/-- Add lines to a set. -/
def addLines (xs ys : List Nat) : List Nat := ys.foldl (fun t y => if y ∈ t then t else t ++ [y]) xs

/-- Physical bytes of a lane's places, in order. -/
def segBytes (gs : List Seg) : List (Nat × Nat) :=
  gs.flatMap fun g => match g.place with
    | .phys pa _ key => (List.range g.len).map fun k => (pa + k, key)
    | _ => []

/-- Note the key slots of lines. -/
def noteKeys (t : Tab Nat) (gs : List Seg) : Tab Nat :=
  gs.foldl (fun t g => match g.place with | .phys pa _ key => tput t (pa / 128) key | _ => t) t

/-- A transactional access of a lane performs. -/
def State.txPerform (s : State) (id : Nat) (o : Op) (w : Wave) (l : Nat) : State :=
  let t := tget w.tx l {}
  let ck := coreKey w.die w.core
  let ls := segLines (o.seg l)
  let zero : List Byte := List.replicate o.width 0
  let lost (s : State) : State := s.modOp id fun o => { o with mask := o.mask &&& ~~~ laneBit l }
  if t.doomed then
    (if o.isLoad then s.opRegs id (s.loadLane o l zero) else lost s).performed id (laneBit l)
  else if o.isLoad then
    let rs := addLines t.reads ls
    if 16 < rs.length then
      ((s.modWave o.wave fun w => w.modTx l fun t => t.doom 2).opRegs id (s.loadLane o l zero)).performed id (laneBit l)
    else
      let s := ls.foldl (fun s x => s.evictLine ck x) s
      let bs := segBytes (o.seg l)
      let lost := s.lostAt id o (s.lanePlaces w o l)
      let get (b : Nat × Nat) : Byte := (tfind t.buf b.1).getD (s.l2Byte b.2 b.1)
      let seen := bs.foldl (fun m b => if thas t.buf b.1 || thas m b.1 then m else tput m b.1 (get b)) t.seen
      let torn : Bool := bs.any fun b => !thas t.buf b.1 && (tfind t.seen b.1).any fun x => x != get b
      let s := s.modWave o.wave fun w => w.modTx l fun t =>
        { t with reads := rs, seen := seen, torn := t.torn || torn, keys := noteKeys t.keys (o.seg l) }
      let got := ((bs.map get).zipIdx).map fun x => if lost.getD x.2 false then s.free 8 (2 ^ 56 + 256 * l + x.2) else x.1
      ((s.opRegs id (s.loadLane o l got)).didRead ck id o (s.lanePlaces w o l) ((o.seg l).map Seg.atL2)).performed id (laneBit l)
  else
    let wl := addLines t.lines ls
    if 8 < wl.length then (lost (s.modWave o.wave fun w => w.modTx l fun t => t.doom 2)).performed id (laneBit l)
    else
      let bs := s.racedBytes w id o l (o.bytes l)
      let buf := ((segBytes (o.seg l)).zip bs).foldl (fun m x => tput m x.1.1 x.2) t.buf
      ((s.modWave o.wave fun w => w.modTx l fun t => { t with lines := wl, buf := buf, keys := noteKeys t.keys (o.seg l) }).wrote id o
        (s.lanePlaces w o l) []).performed id (laneBit l)

/-! ## Body accesses (R307-R309) -/

/-- A key for a byte that a body loads or stores. -/
def bodyKey (g : Seg) (k : Nat) : Nat :=
  match g.place with
  | .phys pa _ _ => pa + k
  | .scr t off => 2 ^ 60 + t * 2 ^ 20 + off + k
  | _ => 2 ^ 200
def bodyKeys (gs : List Seg) : List Nat := gs.flatMap fun g => (List.range g.len).map fun k => bodyKey g k

/-- A byte as the region's start left it. -/
def State.bodyByte (s : State) (r : Region) (p : Place) (k : Nat) : Byte :=
  match p with
  | .scr t off => memGet (tget r.scr t []) (off + k)
  | .phys pa _ key => { s with mem := r.mem }.l2Byte key (pa + k)
  | _ => 0

/-- A body load of a lane performs, and is noted for the alias test. -/
def State.bodyLoad (s : State) (id : Nat) (o : Op) (w : Wave) (l : Nat) : State :=
  match w.region, s.regionOf w with
  | some rk, some r =>
      let t := tget o.steps l 0
      let bs := (o.seg l).flatMap fun g => (List.range g.len).map fun k => s.bodyByte r g.place k
      let s := { s with regions := tmod s.regions rk fun r =>
        let e := tget r.evals t {}
        { r with evals := tput r.evals t { e with loads := e.loads ++ (bodyKeys (o.seg l)).map fun b => (b, tget o.before l 0) } } }
      (s.opRegs id (s.loadLane o l bs)).performed id (laneBit l)
  | _, _ => s.discardOp id

/-- The body's accesses may not reach the register window, nor pages whose type is not normal (R311, cause 8). -/
def Op.bodyForbidden (o : Op) : Mask :=
  maskOf fun l => o.todo.getLsbD l && (o.seg l).any fun g => match g.place with
    | .reg .. => true
    | .phys _ mt _ => mt != 0
    | _ => false

/-- The extra word of RLX_FORBIDDEN for an operation of a body (Table 28-11). -/
def State.bodyWord (s : State) (o : Op) (m : Mask) (cause : Nat) : DWord :=
  let pass := (((s.wave o.wave).bind s.regionOf).map Region.pass).getD 0
  let step := ((lanes m).map fun l => tget o.steps l 0).foldl min 65535
  BitVec.ofNat 64 (cause * 2 ^ 57 + pass * 2 ^ 32 + step)

/-- A body store is held in every lane's step (R308). -/
def State.bodyStore (s : State) (id : Nat) (o : Op) (w : Wave) : State :=
  match w.region, s.regionOf w with
  | some rk, some _ =>
      let s := { s with regions := tmod s.regions rk fun r => { r with evals := (lanes o.todo).foldl (fun t l =>
          let k := tget o.steps l 0
          let e := tget t k {}
          tput t k { e with held := e.held ++ [({ wave := o.wave, addr := o.addr l, segs := o.seg l, bytes := o.bytes l } : HeldStore)] }) r.evals } }
      (s.modOp id fun o => { o with mask := 0 }).performed id o.todo
  | _, _ => s.discardOp id

/-- Lanes of a body operation before its walk that cause 8 of R311 names: the register window, and pages whose type is not normal,
whatever their W bit. -/
def State.bodyBanned (s : State) (w : Wave) (o : Op) : Mask :=
  maskOf fun l => o.todo.getLsbD l && (o.seg l).any fun g => match g.place with
    | .reg .. => true
    | .glob va => (match s.lookup w.die (s.hdr w).asid va false false with | .leaf e _ => field e.toNat 11 10 != 0 | _ => false)
    | _ => false

/-- The walk of a body operation: the codes of Table 11-2 above the memory type check, then cause 8, then the page faults
(R163, R311). -/
def State.bodyWalk (s : State) (id : Nat) : State :=
  match s.op id with
  | none => s
  | some o =>
      match s.wave o.wave with
      | none => s.delOp id
      | some w =>
          let m := s.bodyBanned w o
          let worse : Bool := (lanes o.todo).any fun l => (s.laneFault w o l).any fun x => x.1 < fNotResident
          if m ≠ 0 ∧ !worse then s.opFault id fRlxForbidden m (o.addr (lowest m)) (s.bodyWord o m 8) else s.walkLanes id

/-- A body operation after its walk: with a page fault the region is to restart (R313); else cause 8 is tested, a
store is held, and the path goes on. -/
def State.bodyReady (s : State) (id : Nat) : State :=
  match s.op id with
  | none => s
  | some o =>
      match s.wave o.wave with
      | none => s.delOp id
      | some w =>
          if !(lanes o.todo).all o.ready then
            { s with regions := match w.region with
                | some rk => tmod s.regions rk fun r => { r with restart := true }
                | none => s.regions }
          else
            let m := o.bodyForbidden
            if m ≠ 0 then s.opFault id fRlxForbidden m (o.addr (lowest m)) (s.bodyWord o m 8)
            else
              let full := maskOf fun l => o.todo.getLsbD l && !o.isLoad &&
                8 ≤ (tget ((s.regionOf w).map Region.evals |>.getD []) (tget o.steps l 0) {}).held.length
              if full ≠ 0 then s.opFault id fRlxForbidden full 0 (s.bodyWord o full 10)
              else
                let s := s.goOn id
                if o.isLoad then s else s.bodyStore id o w

/-! ## Record and replay (R210-R215) -/

/-- The virtual unit of a lane's target. -/
def State.unitOf (s : State) (w : Wave) (o : Op) (l : Nat) : Option Nat :=
  match s.aperture w l (o.addr l) o.width (o.acc l) with
  | .ok (g :: _) => (match g.place with | .glob va => some (va / 8) | _ => none)
  | _ => none

/-- A part of a launch's log that its next writes meet is pinned by a team: they wait (R222). -/
def State.logHeld (s : State) (lk : Nat) : Bool :=
  (s.launch lk).any fun l => l.hdr.rrmode != 0 &&
    (s.asidHeld l.home l.hdr.asid l.hdr.log 64 || (l.hdr.rrmode == 1 && !l.rr.ovf && l.rr.count < l.rr.limit &&
      s.asidHeld l.home l.hdr.asid (l.hdr.log + BitVec.ofNat 64 (64 + 16 * l.rr.count))
        (16 * min (l.rr.limit - l.rr.count) (l.rr.chunks.foldl (fun n x => n + x.2.length) 0))))

/-- Write into the log of a launch; none where the write meets a fault. -/
def State.logWrite (s : State) (l : Launch) (off : Nat) (bs : List Byte) : Option State :=
  match s.asidWrite l.home l.hdr.asid (l.hdr.log + BitVec.ofNat 64 off) bs with
  | .ok s => some s
  | .error _ => none

/-- Set bits 0 and 1 of a log's header byte, DONE and OVF; the other bits stay. -/
def State.logFlags (s : State) (l : Launch) (bits : Nat) : State :=
  let old : Nat := match s.asidRead l.home l.hdr.asid l.hdr.log 1 with | .ok bs => leNat bs | .error _ => 0
  match s.logWrite l 0 [BitVec.ofNat 8 (old ||| bits)] with
  | some s => s
  | none => s

/-- Close a chunk: the next record of the log, or recording stops (R211, R212). -/
def State.closeChunk (s : State) (lk unit : Nat) (ch : Chunk) : State :=
  match s.launch lk with
  | none => s
  | some l =>
      if l.rr.ovf then s
      else
        let stop (s : State) : State :=
          let s := s.logFlags l 2
          s.modLaunch lk fun l => { l with rr := { l.rr with ovf := true } }
        if l.rr.limit ≤ l.rr.count then stop s
        else
          match s.logWrite l (64 + 16 * l.rr.count) (leBytes 16 (1 + ch.run * 2 ^ 18 + ch.wave * 2 ^ 34 + unit * 2 ^ 74)) with
          | none => stop s
          | some s => s.modLaunch lk fun l => { l with rr := { l.rr with count := l.rr.count + 1 } }

/-- A performance on a unit of a recorded launch (R211). -/
def State.record (s : State) (lk unit wave : Nat) : State :=
  match s.launch lk with
  | none => s
  | some l =>
      if l.rr.ovf then s
      else
        match tget l.rr.chunks unit [] with
        | ch :: _ =>
            if ch.wave = wave ∧ ch.run < 65535 then
              s.modLaunch lk fun l => { l with rr := { l.rr with chunks := tput l.rr.chunks unit [⟨ch.wave, ch.run + 1⟩] } }
            else
              (s.closeChunk lk unit ch).modLaunch lk fun l => { l with rr := { l.rr with chunks := tput l.rr.chunks unit [⟨wave, 1⟩] } }
        | [] => s.modLaunch lk fun l => { l with rr := { l.rr with chunks := tput l.rr.chunks unit [⟨wave, 1⟩] } }

/-- A replay diverges: RCAUSE and RDONE are written and the launch halts (R215). -/
def State.rrDiverge (s : State) (lk cause : Nat) : State :=
  match s.launch lk with
  | none => s
  | some l =>
      if l.rr.cause.isSome then s
      else
        let s := match s.logWrite l 0 [BitVec.ofNat 8 (16 * cause + 8 + 1)] with | some s => s | none => s
        s.modLaunch lk fun l => { l with rr := { l.rr with cause := some cause }
                                         halt := some { (l.halt.getD {}) with diverge := true } }

/-- The gate of a replayed unit (R214): go, hold, or no chunk left. -/
def State.gateOf (s : State) (lk unit wave : Nat) : Option Bool :=
  match (s.launch lk).map fun l => tget l.rr.chunks unit [] with
  | some (ch :: _) => some (ch.wave == wave)
  | _ => none

/-- A replayed performance uses up one run of the unit's chunk. -/
def State.useChunk (s : State) (lk unit : Nat) : State :=
  s.modLaunch lk fun l =>
    let cs := match tget l.rr.chunks unit [] with
      | ch :: t => if ch.run ≤ 1 then t else ⟨ch.wave, ch.run - 1⟩ :: t
      | [] => []
    { l with rr := { l.rr with chunks := tput l.rr.chunks unit cs } }

/-! ## Atomics (R187-R190) -/

/-- combine(m, l) on w-bit numbers (Table 12-2). -/
def atomCombine (op : AOp) (w : Nat) (m data cmp : Nat) : Nat :=
  let sg (x : Nat) : Int := (BitVec.ofNat w x).toInt
  match op with
  | .add => (m + data) % 2 ^ w
  | .min => if sg data < sg m then data else m
  | .max => if sg m < sg data then data else m
  | .and => m &&& data
  | .or => m ||| data
  | .xor => m ^^^ data
  | .exch => data
  | .cas => if m = cmp then data else m
  | .fadd => m

/-- The new value of a target and the old value of each of its lanes, in ascending lane order (R188). `ds` gives a
lane's data and compare value. -/
def atomTarget (op : AOp) (w m0 : Nat) (ds : List (Nat × Nat × Nat)) : Nat × List (Nat × Nat) :=
  match op with
  | .fadd =>
      let r := ds.foldl (fun (a : Option Nat × List (Nat × Nat)) x =>
        match a.1 with
        | none => (some x.2.1, a.2 ++ [(x.1, m0)])
        | some t => (some (fp32.add t x.2.1), a.2 ++ [(x.1, fp32.add m0 t)])) (none, [])
      ((r.1.map fun t => fp32.add m0 t).getD m0, r.2)
  | op =>
      ds.foldl (fun (a : Nat × List (Nat × Nat)) x => (atomCombine op w a.1 x.2.1 x.2.2, a.2 ++ [(x.1, a.1)])) (m0, [])

/-- The operation, width and destination of an atomic. -/
def Op.atomic (o : Op) : Option (AOp × Width × Option Nat) :=
  match o.instr with
  | .atom _ op _ _ w d _ _ => some (op, w, some d)
  | .red _ op _ _ w _ _ => some (op, w, none)
  | _ => none

/-- Two places are the same bytes. -/
def Seg.same (a b : Seg) : Bool :=
  a.len == b.len && (match a.place, b.place with
    | .phys x _ _, .phys y _ _ => x == y
    | x, y => x == y)

/-- Two lanes name the same target (R188). -/
def sameTarget (a b : List Seg) : Bool := a.length == b.length && (a.zip b).all fun x => x.1.same x.2

/-- The contents of some places, before translation, are undefined: they are written with free values. -/
def State.freePlaces (s : State) (w : Wave) (o : Op) (gs : List Seg) : State :=
  (s.placesNow w gs).foldl (fun s g =>
    (s.toL2 [g]).writeSegs 0 o.wave 0 [g.atL2] ((List.range g.len).map fun k => s.free 8 (2 ^ 79 + g.place.off + k))) s

/-- THE PERFORMANCE OF AN ATOMIC on the target of lane `l`, for every lane that names it: at the scratchpad; in the core's L1,
pinning the line, a release that the scope checker notes (R408), at narrow scope, where no other core keeps a copy and the core itself no older one unless the team has
the line pinned (R219); else at the L2 after every L1 copy is written back. -/
def State.atomNow (s : State) (id : Nat) (o : Op) (w : Wave) (l : Nat) (l2 : Bool) : State :=
  match o.atomic with
  | none => s
  | some (op, wd, d) =>
      let bits := 8 * wd.bytes
      let ck := coreKey w.die w.core
      let grp := (lanes o.todo).filter fun k => o.ready k && sameTarget (o.seg k) (o.seg l)
      let gs := if l2 then (o.seg l).map Seg.atL2 else o.seg l
      let at_ := s.lanePlaces w o l
      let undef := s.lostAt id o at_
      let fz (n : Nat) (bs : List Byte) : List Byte := (bs.zipIdx).map fun x =>
        if undef.getD x.2 false then s.free 8 (n + 256 * l + x.2) else x.1
      let own (x : Nat) : Bool := (tfind s.pins x).any fun p => p.team == w.team
      let s := (segLines gs).foldl (fun s x => if !l2 && own x then s else s.evictEverywhere x) s
      let s := if l2 then s else (o.seg l).foldl (fun s g => s.touchPlace ck g.place) s
      let num (k off : Nat) : Nat := leNat ((bytesOf ((tget o.data k []).drop off)).take wd.bytes)
      let m0 := leNat (fz (2 ^ 56) (s.readSegs ck gs))
      let r := atomTarget op bits m0 (grp.map fun k => (k, num k 0, num k wd.regs))
      let s := s.noteRead o.wave gs
      let s := (s.writeSegs ck o.wave id gs (fz (2 ^ 56 + 2 ^ 55) (leBytes wd.bytes r.1))).wrote id o at_ gs
      let (s, lost) := if op = .cas ∧ wd = .w32 then s.poolCas (s.asidOf o.wave) o.wave (o.addr l) m0 r.1 else (s, [])
      let s := s.freePlaces w o lost
      let ls := segLines (o.seg l)
      let s := if l2 then s else (ls.foldl (fun s x => s.pin w.team ck x) s).noteRelease w ls o.scope.code
      let m := maskOf fun k => k ∈ grp
      let regs : List RegWrite := match d with
        | none => []
        | some d => (List.range wd.regs).map fun j =>
            { reg := .v (d + j), mask := m, vals := r.2.map fun x => (x.1, BitVec.ofNat 64 (x.2 / 2 ^ (32 * j) % 2 ^ 32)) }
      let s := s.modWave o.wave fun w => if w.doneOf ≠ some id then w else { w with
        done := w.done ||| m
        olds := if d.isSome then r.2.foldl (fun t x => tset t x.1 (BitVec.ofNat 64 x.2) 0) w.olds else w.olds }
      (s.opRegs id regs).performed id m

/-- An atomic of a lane whose turn has come, subject to pins and to record and replay. -/
def State.atomTry (s : State) (id : Nat) (o : Op) (w : Wave) (l : Nat) : State :=
  let rr := (s.hdr w).rrmode
  let glob : Bool := (segLines (o.seg l)) != []
  let l2 : Bool := glob && ((s.scopeNow w o.scope).wide || rr != 0)
  if s.retried w.team (o.seg l) then
    (s.modOp id fun o => { o with retry := o.retry ||| laneBit l }).scopeRecord id o true
  else if !glob || rr = 0 then s.atomNow id o w l l2
  else if s.logHeld w.launch then s
  else
    match s.unitOf w o l with
    | none => s.atomNow id o w l l2
    | some u =>
        if rr = 1 then (s.record w.launch u (s.lwi w)).atomNow id o w l l2
        else
          match s.gateOf w.launch u (s.lwi w) with
          | none => s.rrDiverge w.launch 2
          | some true => (s.useChunk w.launch u).atomNow id o w l l2
          | some false => s.modOp id fun o => { o with gated := if thas o.gated l then o.gated else tput o.gated l s.now }

/-- A request of a lane that the replay gate does not accept as its unit's chunks stand: it is held, or never performs once the
launch can issue nothing more (R214, R215). -/
def State.gateShut (s : State) (o : Op) (l : Nat) : Bool :=
  let w := (s.actor o).1
  o.atomic.isSome && (s.hdr w).rrmode == 2 && (segLines (o.seg l)) != [] && (match s.unitOf w o l with
    | some u => s.gateOf w.launch u (s.lwi w) != some true
    | none => false)

/-! ## Rings (R197-R199) -/

/-- A control block as its fields. -/
structure RingBlk where
  base : Nat
  head : Nat
  tail : Nat
  cap : Nat
  /-- element size in bytes -/
  size : Nat
  deriving DecidableEq, Repr

/-- The first 256 bits of a block; none where R199 refuses it. -/
def ringOf (bs : List Byte) : Option RingBlk :=
  let x := leNat (bs.take 32)
  let esz := field x 201 200
  let lc := field x 196 192
  let b : RingBlk := ⟨field x 63 0, field x 127 64, field x 191 128, 2 ^ lc, 4 * 2 ^ esz⟩
  if field x 255 202 ≠ 0 ∨ field x 199 197 ≠ 0 ∨ esz = 3 ∨ 24 < lc ∨ b.base % b.size ≠ 0
      ∨ b.cap < (b.tail + 2 ^ 64 - b.head) % 2 ^ 64 then none
  else some b

/-- Address of element k. -/
def RingBlk.elem (b : RingBlk) (k : Nat) : DWord := BitVec.ofNat 64 (b.base + k % b.cap * b.size)

/-- Places of an element for a wave's lane, translated. -/
def State.elemSegs (s : State) (w : Wave) (l : Nat) (a : DWord) (n : Nat) (k : Acc2) : Except (Nat × Nat) (List Seg) :=
  match s.aperture w l a n k with
  | .error e => .error (e, a.toNat)
  | .ok gs =>
      match s.translateSegs w k gs with
      | .ok r => .ok r
      | .error e => .error (e, s.badVa w k gs)

/-- Lanes still to act on the block that lane `l` names. -/
def Op.ringLanes (o : Op) (l : Nat) : List Nat := (lanes o.todo).filter fun k => sameTarget (o.seg k) (o.seg l)

/-- The block of a lane, read at its place. -/
def State.ringBlock (s : State) (w : Wave) (gs : List Seg) : Option RingBlk :=
  ringOf (((s.toL2 gs).readSegs (coreKey w.die w.core) (gs.map Seg.atL2)).take 32)

/-! ## Order of a wave's accesses -/

/-- The operation has memory accesses to perform still (R166, R227). -/
def Op.accesses (o : Op) : Bool :=
  ((o.isMem || o.isTdef) && o.todo != 0) || (o.isCmd && !o.finished) || (match o.instr with | .hld .. | .hst .. => true | _ => false)

/-- Places of every element of a block, for a wave's lane. -/
def State.bufferSegs (s : State) (w : Wave) (l : Nat) (b : RingBlk) : List Seg :=
  (List.range b.cap).flatMap fun k => match s.aperture w l (b.elem k) b.size .load with
    | .ok gs => s.placesNow w gs
    | .error _ => []

/-- What a lane that has not performed may still reach, as it translates now: its places, and, of a ring form, every element of
its block (R182). -/
def State.reachable (s : State) (o : Op) (l : Nat) : List Seg :=
  let w := (s.actor o).1
  let gs := s.placesNow w (o.seg l)
  if !o.isRing || gs.any (·.place.isGlob) then gs
  else match s.ringBlock w gs with
    | none => gs
    | some b => gs ++ s.bufferSegs w l b

/-- Some place does not translate: its byte, and its memory type, are not known yet. -/
def segsHidden (gs : List Seg) : Bool := gs.any (·.place.isGlob)

/-- An earlier access of the wave, or one of a lower lane of operation `id`, holds an access of its lane `l` to some places: one
to the same byte (R182), one in device order (R166, R227), or a pending write of a register of the wave itself (R94). An earlier
access whose page does not translate may name any byte (log entry 25). -/
def State.heldAt (s : State) (id : Nat) (o : Op) (l : Nat) (gs : List Seg) : Bool :=
  let mt := segType gs
  let mem : Bool := gs.any fun g => match g.place with | .phys .. => true | _ => false
  let same (ps : List Seg) : Bool := segsMeet ps gs || (mem && segsHidden ps)
  let device (ps : List Seg) : Bool := 2 ≤ mt && (2 ≤ segType ps || segsHidden ps)
  ((s.opsOf o.wave).any fun x => x.1 < id && (x.2.isMem || x.2.isTdef) && (lanes x.2.todo).any fun k =>
      same (s.reachable x.2 k) || device (s.reachable x.2 k))
  || (mt == 3 && (s.opsOf o.wave).any fun x => x.1 < id && x.2.accesses)
  || ((lanes o.todo).any fun k => k < l && (mt == 3 || device (s.reachable o k) || (o.writesMem && segsMeet (s.reachable o k) gs)))
  || (gs.any fun g => match g.place with
      | .reg wk n k _ => wk == o.wave && ((s.wave wk).map Wave.haz |>.getD []).any (fun z =>
          z.reg == .v n && z.lanes.getLsbD k && z.op.any fun j => j < id && (s.op j).isSome)
      | _ => false)

/-- An access of lane `l` is held. -/
def State.heldBack (s : State) (id : Nat) (o : Op) (l : Nat) : Bool := s.heldAt id o l (o.seg l)

/-! ## Ring forms -/

/-- Kind of the element access. -/
def Op.elemAcc (o : Op) : Acc2 := match o.instr with | .enq .. => .store | _ => .load

/-- Elements that the lanes of a block would reach now: lane, address. -/
def RingBlk.plan (b : RingBlk) (enq : Bool) (ls : List Nat) : List (Nat × DWord) :=
  let used := (b.tail + 2 ^ 64 - b.head) % 2 ^ 64
  let room := if enq then b.cap - used else used
  (ls.take room).zipIdx.map fun x => (x.1, b.elem ((if enq then b.tail else b.head) + x.2))

def Op.isEnq (o : Op) : Bool := match o.instr with | .enq .. => true | _ => false
def Op.ringPs (o : Op) : Nat := match o.instr with | .enq _ ps _ _ => ps | .deq _ _ ps _ => ps | .hldmRing _ _ ps _ _ => ps | _ => 7
def Op.ringReg (o : Op) : Nat := match o.instr with | .enq _ _ v _ => v | .deq _ v _ _ => v | _ => 0

/-- What the walk of a ring form finds once its blocks are translated (R199). -/
inductive RingWalk where
  | go
  /-- RING_FORMAT at the block -/
  | format (a : DWord)
  /-- an element register lies beyond V -/
  | range
  | code (c : Nat) (m : Mask) (a : DWord)
  | park (l va : Nat) (protect : Bool) (m : Mask)

/-- The checks of a ring form over the blocks that are translated, and their elements. -/
def State.ringWalk (s : State) (w : Wave) (o : Op) : RingWalk :=
  let ls := (lanes o.todo).filter o.ready
  let blk (l : Nat) : Option RingBlk := s.ringBlock w (o.seg l)
  match ls.find? fun l => (blk l).isNone with
  | some l => .format (o.addr l)
  | none =>
      if o.isHldmRing && ls.any fun l => (blk l).any fun b => b.size != 16 then .format (o.addr (ls.headD 0))
      else if !o.isHldmRing && ls.any fun l => (blk l).any fun b => (s.hdr w).v < o.ringReg + b.size / 4 then .range
      else
        let heads := ls.filter fun l => (o.ringLanes l).headD l == l
        let plan := heads.flatMap fun l => match blk l with
          | some b => (b.plan o.isEnq (o.ringLanes l)).map fun x => (x.1, x.2, b.size)
          | none => []
        let bad := plan.filterMap fun x => match s.elemSegs w x.1 x.2.1 x.2.2 o.elemAcc with
          | .ok _ => none
          | .error e => some (x.1, x.2.1, e.1, e.2)
        match worstCode ((bad.filter fun x => x.2.2.1 < fNotResident).map fun x => (x.1, x.2.2.1)) with
        | some (c, m, l) => .code c m ((bad.find? fun x => x.1 == l).map (fun x => x.2.1) |>.getD 0)
        | none =>
            match bad.head? with
            | none => .go
            | some (l, _, e, va) =>
                .park l va (e == fWriteProtect) (maskOf fun k => bad.any fun x => x.1 == k && s.pageOf w x.2.2.2 == s.pageOf w va)

/-- Lanes of an ENQ whose element lies partly in poisoned registers after the first, with the origin in the lowest
(R69); none once the path has gone on. -/
def State.ringPois (s : State) (w : Wave) (o : Op) : Mask × Word :=
  let at_ (l : Nat) : Option Word := match s.ringBlock w (o.seg l) with
    | some b => (List.range (b.size / 4)).findSome? fun k =>
        if 1 ≤ k ∧ (tget w.regs.vP (o.ringReg + k) 0).getLsbD l then some (tget w.regs.v (32 * (o.ringReg + k) + l) 0) else none
    | none => none
  let m := maskOf fun l => o.isEnq && o.holding && o.todo.getLsbD l && o.ready l && (at_ l).isSome
  (m, (at_ (lowest m)).getD 0)

/-- A handle that HLDM may not take: its kind names no kind, or it names a tile of this module that another address
space owns, by the handle or by the tile's entry (R349). -/
def State.handleBad (s : State) (w : Wave) (h : HWord) : Bool :=
  hKind h == 3 || (hKind h != 0 && hLocal h && (hAsid h != (s.hdr w).asid ||
    ((s.tile (hDie h) (hIndex h)).st != 0 && (s.tile (hDie h) (hIndex h)).asid != (s.hdr w).asid)))

/-- The handle at the head of the ring that HLDM.RING names, with its address; none when the ring is empty. -/
def State.ringHandle (s : State) (w : Wave) (o : Op) : Option (HWord × DWord) :=
  let l := lowest o.todo
  match s.ringBlock w (o.seg l) with
  | none => none
  | some b => match b.plan false [l] with
    | [] => none
    | x :: _ => match s.elemSegs w l x.2 16 .load with
      | .ok g => some (BitVec.ofNat 128 (leNat ((s.toL2 g).readSegs 0 (g.map Seg.atL2))), x.2)
      | .error _ => none

/-- Registers of an element beyond the first, once the sizes of the translated blocks are known. -/
def State.ringMore (s : State) (w : Wave) (o : Op) : List Nat :=
  let n := ((lanes o.todo).filterMap fun l => if o.ready l then (s.ringBlock w (o.seg l)).map fun b => b.size / 4 else none).foldl max 1
  if o.isHldmRing then [] else (List.range (n - 1)).map fun k => o.ringReg + k + 1

/-- With the checking scoreboard, an element register beyond the first that the issue could not read, or overwrite, yet: the cause
of Table 4-5 and the producer (R65). -/
def State.ringStall (s : State) (w : Wave) (o : Op) : Option (Nat × DWord) :=
  if !(s.hdr w).scb then none
  else
    let ns := s.ringMore w o
    (o.early.find? fun x => match x.1 with | .v n => n ∈ ns | _ => false).map fun x => x.2

/-- Registers of the wave itself in which the elements of a block may lie: an ENQ may write them (R94). -/
def State.ringOwn (s : State) (w : Wave) (o : Op) : List (Nat × Nat) :=
  (lanes o.todo).flatMap fun l =>
    if !o.ready l then []
    else match s.ringBlock w (o.seg l) with
      | none => []
      | some b =>
          if isGlobal (BitVec.ofNat 64 b.base) then []
          else (s.bufferSegs w l b).filterMap fun g => match g.place with
            | .reg wk n k _ => if wk = o.wave then some (n, k) else none
            | _ => none

/-- A ring form has passed its checks: the path goes on, and the element registers of a DEQ are pending, as are the registers of
the wave that an ENQ may write through the register window (R94). -/
def State.ringIssued (s : State) (id : Nat) (o : Op) (more : List Nat) : State :=
  let own := ((s.wave o.wave).map fun w => s.ringOwn w o).getD []
  let s := s.goOn id
  if o.isEnq then s.modWave o.wave fun w => { w with haz := w.haz ++ own.map fun x =>
      { reg := .v x.1, lanes := laneBit x.2, op := some id, ctrs := ctrList o.ctr, opc := o.instr.opc, pc := o.pc } }
  else s.modWave o.wave fun w =>
    let ns := more.filter fun n => !w.haz.any fun z => z.op == some id && z.reg == .v n
    { w with haz := w.haz ++ ns.map fun n =>
      { reg := .v n, lanes := o.mask, op := some id, ctrs := ctrList o.ctr, opc := o.instr.opc, pc := o.pc } }

/-- THE WALK OF A RING FORM (R163, R199): no lane acts, and none parks, before the blocks that translate and their elements
have been checked; then the lanes whose block or element does not translate park the wave, and the path goes on. -/
def State.walkRing (s : State) (id : Nat) : State :=
  match s.op id with
  | none => s
  | some o0 =>
      match s.wave o0.wave with
      | none => s.delOp id
      | some w =>
          let found (l : Nat) := s.translateSegs w (o0.acc l) (o0.seg l)
          if (lanes o0.todo).any fun l => match found l with | .error c => c == fRetry | .ok _ => false then s else
          let o := { o0 with segs := (lanes o0.todo).foldl (fun t l => match found l with | .ok g => tput t l g | .error _ => t) o0.segs }
          let bad (code : Nat) (m : Mask) (a x : DWord) : State :=
            if o.holding then s.opFault id code m a x else s.opLateFault id code m a x
          let pm := s.ringPois w o
          let more := s.ringMore w o
          if (lanes o0.todo).any fun l => match found l with | .error c => c < fNotResident | .ok _ => false then s.walkLanes id
          else match s.ringWalk w o with
            | .format a => bad fRingFormat 0 0 a
            | .code cd m a => bad cd m a 0
            | .range =>
                let org : Word := o.pc.setWidth 32
                let tag (r : OneReg) : RegWrite :=
                  { laneConst r o.todo (org.setWidth 64) with pois := o.todo, orig := (lanes o.todo).map fun l => (l, org) }
                let vs := if o.isEnq then [] else
                  ((List.range 4).map fun k => o.ringReg + k).filter fun n => n < (s.hdr w).v
                ((s.ringIssued id o []).opRegs id ((vs.map fun n => tag (.v n)) ++ [tag (.p o.ringPs)])).performed id o.todo
            | r =>
                match s.ringStall w o, (if o.isHldmRing ∧ (lanes o.todo).all o.ready then s.ringHandle w o else none) with
                | some (cause, pc), _ => bad fStallShort 0 0 (causeWord cause pc.toNat)
                | none, some (h, a) =>
                    if s.handleBad w h then bad fBasinHandle 0 0 a else (s.walkLanes id).ringIssued id o more
                | none, none =>
                    if pm.1 ≠ 0 then s.opFault id fPoisonConsumed pm.1 0 0 (originWord o.pc pm.2)
                    else
                      let s1 := (s.walkLanes id).ringIssued id o more
                      match r with
                      | .park _ va pr m =>
                          if (lanes o.todo).all o.ready then
                            s1.park o.wave id o.slot o.pc (BitVec.ofNat 64 va) m (if pr then 1 else 0) (o.elemAcc).kind
                          else s1
                      | _ => s1

/-- The 16 bytes of a slot at the L2. -/
def State.slotHandle (s : State) (ck : Nat) (gs : List Seg) : HWord :=
  BitVec.ofNat 128 (leNat ((s.toL2 gs).readSegs ck (gs.map Seg.atL2)))

/-- The first byte of a slot. -/
def slotPa (gs : List Seg) : Nat := ((segBytes gs).head?.map (·.1)).getD 0

/-- The slot's bytes were written otherwise than by HSTM or a transfer (R349). -/
def State.slotHurt (s : State) (gs : List Seg) (h : HWord) : Bool :=
  h != tget s.hslots (slotPa gs / 16) 0 || (segBytes gs).any fun b =>
    ((tget s.memBy b.1 []).foldl (fun (m : Option Writer) x => match m with
      | none => some x
      | some y => if y.stamp < x.stamp then some x else some y) none).any fun x => !x.handle

/-- The handle that HLDM forms from a slot's bytes: of a slot that was written otherwise it is undefined, but for the two handles that
HLDM refuses (R349). -/
def State.slotForms (s : State) (w : Wave) (gs : List Seg) (h : HWord) : HWord :=
  if s.slotHurt gs h && !s.handleBad w h then s.free 128 (2 ^ 77) else h

/-- THE ACTION ON ONE BLOCK of the lanes that name it, in ascending order (R198): at module scope, each lane a
release or an acquire on its element. It waits, or is walked again, where an element does not translate now. An element in a
poisoned register lane poisons its destinations (R94). -/
def State.ringNow (s0 : State) (id : Nat) (o : Op) (w : Wave) (l : Nat) : State :=
  let s := s0
  let ck := coreKey w.die w.core
  let ls := o.ringLanes l
  let gs := (o.seg l).map Seg.atL2
  let at_ := s.lanePlaces w o l
  match ringOf (s.lostBytes id o (l + 32) at_ (((s.toL2 (o.seg l)).readSegs ck gs).take 32)) with
  | none => s.opLateFault id fRingFormat 0 0 (o.addr l)
  | some b =>
      let plan := b.plan o.isEnq ls
      let el (x : Nat × DWord) : Option (List Seg) := match s.elemSegs w x.1 x.2 b.size o.elemAcc with
        | .ok g => some g
        | .error _ => none
      let raw (x : Nat × DWord) : List Seg := match s.aperture w x.1 x.2 b.size o.elemAcc with | .ok g => g | .error _ => []
      if plan.any fun x => (el x).isNone then s.modOp id fun o => { o with walked := false }
      else if plan.any fun x => (el x).any fun g => s.heldAt id o l g then s
      else if s.retried w.team (o.seg l) || plan.any fun x => (el x).any fun g => s.retried w.team g then
        (s.modOp id fun o => { o with retry := o.retry ||| laneBit l }).scopeRecord id o true
      else
        let s := plan.foldl (fun s x => match el x with | some g => s.reachSegs g | none => s) s
        let first := if o.isEnq then b.tail else b.head
        let block : Place := ((o.seg l).head?.map Seg.place).getD (.glob 0)
        let obj : HWord := (o.addr l).setWidth 128
        let bl := s.boundLines w (if o.isEnq then o.bound 1 obj else (s.teamOf w).bound 1 obj)
        let s := s.toL2 (o.seg l)
        let m := if o.isHldmRing then o.mask else maskOf fun k => k ∈ ls
        let got := maskOf fun k => plan.any fun x => x.1 == k
        let st : List RegWrite := [{ reg := .p o.ringPs, mask := m, vals := (lanes m).map fun k => (k, if got.getLsbD k || (o.isHldmRing && got != 0) then 1 else 0) }]
        let k := BitVec.ofNat 64 plan.length
        if o.isEnq then
          let s := if plan.isEmpty then s else s.release w .module bl
          let s := plan.foldl (fun s x => match el x with
            | some g =>
                let s := s.toL2 g
                let ks := bodyKeys g
                let higher (j : Nat) : Bool := (tfind o.wrote (ks.getD j 0)).any fun k => x.1 < k
                let bs := (s.lostBytes id o x.1 (raw x) ((bytesOf (tget o.data x.1 [])).take b.size)).zip
                  (s.readSegs ck (g.map Seg.atL2)) |>.zipIdx.map fun y => if higher y.2 then y.1.2 else y.1.1
                let note (t : Tab Nat) : Tab Nat := ks.foldl (fun t k => tput t k (max x.1 (tget t k 0))) t
                (((s.writeSegs ck o.wave id (g.map Seg.atL2) bs).ckptWindow id g bs).wrote id o (raw x) g).modOp id fun o =>
                  { o with wrote := note o.wrote }
            | none => s) s
          let s := (plan.zipIdx).foldl (fun s x => s.releaseOn (objElem block (first + x.2)) o.wave 4 (some (bindSegs (o.bound 1 obj)))) s
          let s := (s.writeSegs ck o.wave id gs ((s.readSegs ck gs).take 16 ++ leBytes 8 (BitVec.ofNat 64 b.tail + k).toNat
            ++ (s.readSegs ck gs).drop 24)).wrote id o at_ gs
          (s.opRegs id st).performed id m
        else
          let val (x : Nat × DWord) : Nat × List Byte := (x.1, match el x with
            | some g => s.lostBytes id o x.1 (raw x) ((s.toL2 g).readSegs ck (g.map Seg.atL2))
            | none => [])
          let vs := plan.map val
          let org (l : Nat) : Option Word := (plan.find? fun x => x.1 == l).bind fun x => (el x).bind fun g => s.segPois g
          let s := plan.foldl (fun s x => match el x with
            | some g => (s.toL2 g).didRead ck id o (raw x) (g.map Seg.atL2)
            | none => s) s
          let s := (s.writeSegs ck o.wave id gs ((s.readSegs ck gs).take 8 ++ leBytes 8 (BitVec.ofNat 64 b.head + k).toNat
            ++ (s.readSegs ck gs).drop 16)).wrote id o at_ gs
          let s := if plan.isEmpty then s else s.acquire w .module bl
          let s := (plan.zipIdx).foldl (fun s x =>
            s.acquireOn (objElem block (first + x.2)) o.wave 4 (some (bindSegs ((s.teamOf w).bound 1 obj)))) s
          if o.isHldmRing then
            let slot : List Seg := ((plan.head?).bind el).getD []
            let h : HWord := s0.slotForms w slot (BitVec.ofNat 128 (leNat ((vs.headD (0, [])).2)))
            if !plan.isEmpty && s.handleBad w h then s0.opLateFault id fBasinHandle 0 0 ((plan.headD (0, 0)).2)
            else ((if plan.isEmpty then s else (s.slotStored (slotPa slot) 0).giveHandle o.wave o.handleReg h).opRegs id st).performed id o.todo
          else
          let regs : List RegWrite := (List.range (b.size / 4)).map fun j =>
            { reg := .v (o.ringReg + j), mask := got
              vals := vs.map fun x => (x.1, BitVec.ofNat 64 (leNat ((x.2.drop (4 * j)).take 4))) }
          let regs := regs.map fun r => (lanes got).foldl (fun r l => match org l with | some x => r.poisoned l x | none => r) r
          (s.opRegs id (regs ++ st)).performed id m

/-! ## What a release waits for (R203) -/

/-- A flag word's object and the lines that the team has bound to it. -/
def State.flagLines (s : State) (w : Wave) (a : DWord) : List Nat :=
  s.boundLines w ((s.teamOf w).bound 2 (a.setWidth 128))

/-- The lines that a REL carries, as its team had bound them to the flag when it issued (R203). -/
def State.relLines (s : State) (w : Wave) (o : Op) (l : Nat) : List Nat :=
  s.boundLines w (o.bound 2 ((o.addr l).setWidth 128))

/-- Before a release performs, the wave's earlier writes to the bound bytes have performed (R203). -/
def State.writesLeft (s : State) (id : Nat) (o : Op) (ls : List Nat) : Bool :=
  (s.opsOf o.wave).any fun x => x.1 < id && x.2.writesMem && (lanes x.2.todo).any fun k =>
    !x.2.ready k || (segLines (x.2.seg k)).any fun y => y ∈ ls

/-! ## Handles in memory (R344, R346, R348, R349, R365) -/

/-- The drop of a fill handle: a release at module scope of what the dropping team had bound to the tile (R225). -/
def State.dropRelease (s : State) (o : Op) (w : Wave) (h : HWord) : State :=
  let bs := o.bound 3 (tileObj h)
  let s := s.release w .module (s.boundLines w bs)
  if hLocal h then s.releaseOn (objTile (hDie h) (hIndex h) (hGen h)) o.wave 4 (some (bindSegs bs)) else s

/-- A drop of the wave waits: an HST that it issued before has not performed, or a write to the bound bytes (R203, R348). -/
def State.dropWaits (s : State) (id : Nat) (o : Op) (w : Wave) (h : HWord) : Bool :=
  ((s.opsOf o.wave).any fun x => x.1 < id && !x.2.finished && (match x.2.instr with | .hst .. => true | _ => false))
    || s.writesLeft id o (s.boundLines w (o.bound 3 (tileObj h)))

/-- HSTM PERFORMS, in one indivisible step: a see handle is created, the slot's old handle is dropped or dies, the
slot receives the handle, and a fill handle leaves its register. The drop of a fill handle waits as an HDROP does; a see count that
has reached its limit since the issue is BASIN_COUNT (R350). -/
def State.hstmNow (s : State) (id : Nat) (o : Op) (w : Wave) (l : Nat) : State :=
  let ck := coreKey w.die w.core
  let h := o.record.getD 0
  let old := s.slotHandle ck (o.seg l)
  if hKind old = 1 && s.dropWaits id o w old then s
  else if s.seeFull h then s.opLateFault id fBasinCount 0 0 (h.setWidth 64)
  else
    let s := s.toL2 (o.seg l)
    let s := if hKind h = 2 then s.seeUp h else s
    let s := if hKind old = 1 then s.dropRelease o w old else s
    let s := s.handleEnd old true
    let gs := (o.seg l).map Seg.atL2
    let s := (s.writeSegs ck o.wave id gs (leBytes 16 h.toNat)).wrote id o (s.lanePlaces w o l) gs
    let s := s.slotStored (slotPa (o.seg l)) h
    let s := if hKind h = 1 then (s.setHandle o.wave o.handleReg 0).fillAt h (.slot (slotPa (o.seg l))) else s
    s.performed id (laneBit l)

/-- After its walk, HLDM looks at the slot's kind and owner, and at the tile's see count; then its path goes on (R349, R350). -/
def State.hldmReady (s : State) (id : Nat) : State :=
  match s.op id with
  | none => s
  | some o =>
      match s.wave o.wave with
      | none => s.delOp id
      | some w =>
          let l := lowest o.todo
          let h := s.slotHandle (coreKey w.die w.core) (o.seg l)
          if !o.holding || !(lanes o.todo).all o.ready || w.parked.contains id then s
          else if s.handleBad w h then s.opFault id fBasinHandle 0 0 (o.addr l)
          else if !s.slotHurt (o.seg l) h && s.seeFull h then s.opFault id fBasinCount 0 0 (h.setWidth 64)
          else s.goOn id

/-- HLDM PERFORMS: a fill handle leaves the slot, a see handle is created; pS tells whether a handle came. -/
def State.hldmNow (s : State) (id : Nat) (o : Op) (w : Wave) (l : Nat) : State :=
  let ck := coreKey w.die w.core
  let raw := s.slotHandle ck (o.seg l)
  let h := s.slotForms w (o.seg l) (BitVec.ofNat 128 (leNat (s.racedBytes w id o l (leBytes 16 raw.toNat))))
  let ps := match o.instr with | .hldm _ _ ps _ _ => ps | _ => 7
  let st (x : DWord) : List RegWrite := [laneConst (.p ps) o.mask x]
  if s.retried w.team (o.seg l) then (s.modOp id fun o => { o with retry := o.retry ||| laneBit l }).scopeRecord id o true
  else if hKind h = 0 then ((s.toL2 (o.seg l)).opRegs id (st 0)).performed id o.todo
  else if s.handleBad w h then s.opLateFault id fBasinHandle 0 0 (o.addr l)
  else if s.seeFull h then s.opLateFault id fBasinCount 0 0 (h.setWidth 64)
  else
    let s := s.toL2 (o.seg l)
    let s := if hKind h = 1 then
        (s.writeSegs ck o.wave id ((o.seg l).map Seg.atL2) (List.replicate 16 0)).slotStored (slotPa (o.seg l)) 0
      else s.seeUp h
    ((s.giveHandle o.wave o.handleReg h).opRegs id (st 1)).performed id o.todo

/-! ## Generator contexts (R355) -/

/-- The context that an estimation block gives; none where the block is not acceptable. -/
def contextOf (bs : List Byte) : Option GaugeCtx :=
  let x := leNat bs
  let g : GaugeCtx := { n := BitVec.ofNat 32 (field x 95 64), gen := field x 161 160, seed := BitVec.ofNat 64 (field x 63 0)
                        a := BitVec.ofNat 32 (field x 223 192), c := BitVec.ofNat 32 (field x 255 224) }
  if field x 191 162 ≠ 0 ∨ 1 < g.gen ∨ g.n = 0 ∨ (g.gen = 1 ∧ Nat.gcd g.a.toNat g.n.toNat ≠ 1) then none else some g

/-- GCFG's load performs: an acceptable block replaces the context. -/
def State.gcfgNow (s : State) (id : Nat) (o : Op) (bs : List Byte) : State :=
  let ps := match o.instr with | .gcfg _ ps _ _ => ps | _ => 7
  let s := match contextOf bs with
    | some g => s.modWave o.wave fun w => { w with gctx := g }
    | none => s
  (s.opRegs id [laneConst (.p ps) o.mask (if (contextOf bs).isSome then 1 else 0)]).performed id o.todo

/-! ## Performing a lane -/

/-- The bytes of some places, one by one. -/
def byteSegs (gs : List Seg) : List Seg := gs.flatMap fun g => (List.range g.len).map fun k => ⟨g.place.shift k, 1⟩

/-- A lane's bytes with those in their place that were read before. -/
def Op.withGot (o : Op) (l : Nat) (bs : List Byte) : List Byte := (bs.zipIdx).map fun x => (tfind o.got (64 * l + x.2)).getD x.1

/-- Places of a lane's bytes that have not been read before. -/
def Op.unread (o : Op) (l : Nat) : List Seg :=
  (byteSegs (o.seg l)).zipIdx.filterMap fun x => if thas o.got (64 * l + x.2) then none else some x.1

/-- One byte of a lane of a plain load is read before the others: no rule orders the reads of different bytes (R219). -/
def State.sample (s : State) (id l k : Nat) : State :=
  match s.op id with
  | none => s
  | some o =>
      let w := (s.actor o).1
      let plain : Bool := (match o.instr with | .ld .. => true | _ => false) && o.walked && !o.inBody && o.todo.getLsbD l
        && !o.tx.getLsbD l && !o.retry.getLsbD l && o.ready l
      match plain, (byteSegs (o.seg l))[k]? with
      | true, some g =>
          let reg : Bool := match g.place with | .reg .. => true | _ => false
          if reg || thas o.got (64 * l + k) || s.heldAt id o l [g] || s.retried w.team [g] then s
          else
            let ck := coreKey w.die w.core
            let b := (s.racedBytes w id o l (s.readSegs ck (o.seg l))).getD k 0
            ((s.touchPlace ck g.place).noteRead o.wave [g]).modOp id fun o => { o with got := tput o.got (64 * l + k) b }
      | _, _ => s

/-- A plain lane performs: a load reads and writes its destinations; a store writes; REL and ACQ are performed at
their scope, with what their flag binds. -/
def State.plainNow (s : State) (id : Nat) (o : Op) (w : Wave) (l : Nat) : State :=
  let ck := coreKey w.die w.core
  let at_ := s.lanePlaces w o l
  let flag := objFlag (((o.seg l).head?.map Seg.place).getD (.glob 0))
  match o.instr with
  | .acq .. =>
      let fl := segLines (o.seg l)
      let sc := s.scopeNow w o.scope
      let s := s.scopeRecord id o false
      let s := if sc.wide then fl.foldl (fun s x => s.evictLine ck x) s
        else (o.seg l).foldl (fun s g => s.touchPlace ck g.place) s
      let gs := if sc.wide then (o.seg l).map Seg.atL2 else o.seg l
      let bs := s.racedBytes w id o l (s.readSegs ck gs)
      let s := (s.didRead ck id o at_ gs).acquire w o.scope (s.flagLines w (o.addr l))
      let s := s.acquireOn flag o.wave sc.code (some (bindSegs ((s.teamOf w).bound 2 ((o.addr l).setWidth 128))))
      (s.opRegs id (s.loadLane o l bs)).performed id (laneBit l)
  | .rel .. =>
      let fl := segLines (o.seg l)
      let sc := s.scopeNow w o.scope
      let bs := s.racedBytes w id o l (o.bytes l)
      let s := (s.release w o.scope (s.relLines w o l ++ fl)).noteRelease w (s.relLines w o l ++ fl) sc.code
      let gs := if sc.wide then (o.seg l).map Seg.atL2 else o.seg l
      let s := if sc.wide then fl.foldl (fun s x => s.evictEverywhere x) s else s
      let s := ((s.writeSegs ck o.wave id gs bs).ckptWindow id (o.seg l) bs).wrote id o at_ gs
      (s.releaseOn flag o.wave sc.code (some (bindSegs (o.bound 2 ((o.addr l).setWidth 128))))).performed id (laneBit l)
  | .st .. | .rlxseed .. =>
      let bs := s.racedBytes w id o l (o.bytes l)
      (((s.writeSegs ck o.wave id (o.seg l) bs).ckptWindow id (o.seg l) bs).wrote id o at_ (o.seg l)).performed id (laneBit l)
  | .hstm .. => s.hstmNow id o w l
  | .gcfg .. =>
      let bs := s.racedBytes w id o l (s.readSegs ck (o.seg l))
      (((o.seg l).foldl (fun s g => s.touchPlace ck g.place) s).didRead ck id o at_ (o.seg l)).gcfgNow id o bs
  | _ =>
      let bs := o.withGot l (s.racedBytes w id o l (s.readSegs ck (o.seg l)))
      let s := (o.seg l).foldl (fun s g => s.touchPlace ck g.place) (s.didRead ck id o at_ (o.seg l) (o.unread l))
      (s.opRegs id (s.loadLane o l bs)).performed id (laneBit l)

/-- THE PERFORMANCE OF A LANE of a load, store, ACQ, REL or RLXSEED whose turn has come. `again` says that it is made
again after a retry response. A transaction of a wave that has ended is discarded (R196). -/
def State.performLane (s : State) (id l : Nat) (again : Bool) : State :=
  match s.op id with
  | none => s
  | some o =>
      let (w, gone) := s.actor o
      if gone && (o.inBody || !o.walked || o.tx.getLsbD l) then s.performed id (laneBit l)
      else if !o.walked || !o.todo.getLsbD l || !o.ready l || (o.retry.getLsbD l != again) || s.heldBack id o l then s
      else if o.inBody && !o.isLoad then s
      else if (match o.instr with
          | .rel .. => s.writesLeft id o (s.relLines w o l)
          | _ => false) then s
      else if s.retried w.team (o.seg l) || (match o.instr with
          | .rel .. => !(s.scopeNow w o.scope).wide && (s.relLines w o l).any fun x => s.pinnedAway w.team x
          | _ => false) then
        if again then s
        else
          let s := (s.modOp id fun o => { o with retry := o.retry ||| laneBit l }).scopeRecord id o true
          if o.tx.getLsbD l then
            s.modWave o.wave fun w => w.setSlot o.slot ((w.slot o.slot).map fun p =>
              if p.wait = .none then { p with wait := .op id } else p)
          else s
      else if o.inBody then s.bodyLoad id o w l
      else if o.tx.getLsbD l then s.txPerform id o w l
      else s.plainNow id o w l

/-- THE PERFORMANCE OF A TARGET of an atomic or of a ring block, on the turn of lane `l`. -/
def State.performAtomic (s : State) (id l : Nat) (again : Bool) : State :=
  match s.op id with
  | none => s
  | some o =>
      let (w, gone) := s.actor o
      if gone && !o.walked then s.performed id (laneBit l)
      else if !o.walked || !o.todo.getLsbD l || !o.ready l || (o.retry.getLsbD l != again) || s.heldBack id o l then s
      else if again && s.retried w.team (o.seg l) then s
      else
        let s := s.modOp id fun o => { o with retry := o.retry &&& ~~~ laneBit l }
        if o.isRing then
          (if o.isEnq && s.writesLeft id o (s.boundLines w (o.bound 1 ((o.addr l).setWidth 128))) then s
           else s.ringNow id o w l)
        else if o.isHldm then s.hldmNow id o w l
        else s.atomTry id o w l

end Sys2Proof.Machine
end

