-- ==== Sys2Proof/Machine/Basin.lean ====
section
/-! DEFINITION. The basin forms, opcodes 0x2F0 to 0x2F9, and the transfer of handles between dies and modules (24
R343-R352; 25 R359-R368). -/

namespace Sys2Proof.Machine

/-! ## What the forms share -/

/-- The port behind which a module lies, the lowest one that reaches it (R352, R448). -/
def State.portOf (s : State) (m : BitVec 48) : Option Nat := s.boot.peers.findIdx? fun x => m ∈ x

/-- The pool of a tile of this module cannot be accessed: its key slot is empty (R343, R457). -/
def State.poolShut (s : State) : Bool := !(s.keyOf s.boot.poolSlot).loaded

/-- A handle whose use takes BASIN_STALE: its entry is FREE or of another generation, or its home lies behind a port
that is down, or behind none (R347, R352). -/
def State.handleStale (s : State) (h : HWord) : Bool :=
  if hLocal h then s.stale h
  else match s.portOf (hModule h) with
    | some p => p ∈ s.portsDown
    | none => true

/-- The tile's home is the wave's die. -/
def Wave.home (w : Wave) (h : HWord) : Bool := hLocal h && hDie h == w.die

/-- The record of BASIN_EMPTY, BASIN_STALE and BASIN_KIND: the handle's low half with the register's number in bits
51-48 (Table 28-11). -/
def handleWord (h : HWord) (n : Nat) : DWord :=
  let x := h.toNat % 2 ^ 64
  BitVec.ofNat 64 (x - field x 51 48 * 2 ^ 48 + n * 2 ^ 48)

/-- A basin form that acts once for the wave when a lane executes (R361). -/
def Ctx.basin (c : Ctx) (body : State) : State := if !c.any then c.finish c.s else body

/-- BASIN_REG (R348). -/
def Ctx.regFault (c : Ctx) (n : Nat) : State := c.fault fBasinReg 0 0 (BitVec.ofNat 64 n)

/-- A status predicate with one value in every executing lane. -/
def Ctx.status (c : Ctx) (k : Nat) (x : Bool) : RegWrite := laneConst (.p k) c.x (if x then 1 else 0)

/-! ## Tiles and registers -/

/-- The lowest FREE entry of a die's table. -/
def freeTile (ts : Tab Tile) : Nat → Nat → Option Nat
  | 0, _ => none
  | n + 1, i => if (tget ts i {}).st = 0 then some i else freeTile ts n (i + 1)

/-- Pages of the pool in use. -/
def State.poolPages (s : State) : Nat := (s.dies.map fun d => d.2.poolUsed).sum

/-- BNEW creates a tile, or fails without a fault (R350, R362). The zeroed storage that it gives out is an access to the pool, which
takes KEY_EMPTY once the pool's key is erased (R457; log entry 36). -/
def execBnew (h : Ctl) (hf hs ps : Nat) (size : BSize) (s : State) : Host.Outcome State Fault Refusal :=
  issue (.bnew h hf hs ps size) (fun c =>
    let n := match size with | .imm x => x.toNat | .reg r => ((c.rdS r).val.setWidth 32).toNat
    let d := c.s.die c.w.die
    c.basin
      (if n = 0 ∨ n % 64 ≠ 0 ∨ 1048576 < n then c.fault fBasinSize 0 0 (BitVec.ofNat 64 n)
      else if hf = hs ∨ c.rdH hf ≠ 0 then c.regFault hf
      else if c.rdH hs ≠ 0 then c.regFault hs
      else
        match freeTile d.tiles 65536 0 with
        | none => c.variable [c.status ps false] c.s
        | some i =>
            if c.s.boot.poolPages < c.s.poolPages + tilePages n then c.variable [c.status ps false] c.s
            else if c.s.poolShut then c.fault fKeyEmpty 0 0
            else
              let t := tget d.tiles i {}
              let mk (k : Nat) : HWord := mkHandle k c.hdr.asid c.w.die t.gen i n
              let s := c.s.modDie c.w.die fun d =>
                { d with poolUsed := d.poolUsed + tilePages n
                         tiles := tput d.tiles i { st := 1, gen := t.gen, asid := c.hdr.asid, size := n, sees := 1, fill := .reg c.wk hf } }
              c.variable [c.status ps true] ((s.setHandle c.wk hf (mk 1)).setHandle c.wk hs (mk 2)))) s

/-- The kind of access of a basin form through a handle: its bytes, and whether it writes. -/
def tileWidth (i : Instr) : Option (Nat × Bool) :=
  match i with
  | .hld _ _ w _ _ _ _ => some (w.bytes, false)
  | .hst _ w _ _ _ _ => some (w.bytes, true)
  | _ => none

/-- Two carried accesses of one wave, one of which writes, name a byte of one tile: they perform in the order of their issue
(R182, R347). -/
def Op.tileMeets (x o : Op) : Bool :=
  tileObj (x.record.getD 0) == tileObj (o.record.getD 0) && (match tileWidth x.instr, tileWidth o.instr with
    | some (m, a), some (n, b) => (a || b) && (lanes x.mask).any fun k => (lanes o.mask).any fun l =>
        (x.addr k).toNat < (o.addr l).toNat + n && (o.addr l).toNat < (x.addr k).toNat + m
    | _, _ => false)

/-- An HLD is parked at its tile, and not on the way to it. -/
def State.parkedAt (s : State) (o : Op) : Bool :=
  let h := o.record.getD 0
  o.holding && hLocal h && hKind h == 2 && (s.tile (hDie h) (hIndex h)).st == 1

/-- A carried access, or a drop, waits for earlier ones of its wave: an access for those to the same byte (R347), a drop for every
access to its tile that is on the way, and, of a fill handle, as R225 and R348 have it. -/
def State.carryHeld (s : State) (id : Nat) (o : Op) : Bool :=
  let h := o.record.getD 0
  (s.opsOf o.wave).any (fun x => x.1 < id && !x.2.finished && !s.parkedAt x.2 && (match o.instr with
    | .hdrop .. => (tileWidth x.2.instr).isSome && tileObj (x.2.record.getD 0) == tileObj h
    | _ => x.2.tileMeets o))
  || (match o.instr with
    | .hdrop .. => hKind h == 1 && s.dropWaits id o (s.actor o).1 h
    | _ => false)

/-- A drop is a release of what the team has bound to the tile; it waits for the wave's earlier HSTs and for its
writes to the bound bytes (R225, R348). When nothing stands in its way it is applied at the tile. -/
def State.dropTry (s : State) (id : Nat) : State :=
  match s.op id with
  | none => s
  | some o =>
      let h := o.record.getD 0
      if o.finished || s.carryHeld id o then s
      else
        let s := if hKind h = 1 then s.dropRelease o (s.actor o).1 h else s
        (s.handleEnd h true).modOp id fun o => { o with finished := true }

/-- HDROP drops or ends the handle and empties its register (R363); at a tile of another die or module it is applied
when it arrives there. -/
def execHdrop (h : Ctl) (a : Nat) (s : State) : Host.Outcome State Fault Refusal :=
  issue (.hdrop h a) (fun c =>
    let x := c.rdH a
    c.basin
      (if x = 0 then c.variable [] c.s
      else
        let id := c.s.opSeq
        let s := c.finish ((c.s.addOp { c.op with todo := 0, record := some x }).setHandle c.wk a 0)
        if c.w.home x then s.dropTry id else s)) s

/-- HMOV (R363). -/
def execHmov (h : Ctl) (d a : Nat) (s : State) : Host.Outcome State Fault Refusal :=
  issue (.hmov h d a) (fun c =>
    c.basin
      (if d = a then c.finish c.s
      else if c.rdH d ≠ 0 then c.regFault d
      else c.finish ((c.s.setHandle c.wk a 0).giveHandle c.wk d (c.rdH a)))) s

/-- HCPY copies a see handle (R348, R363). -/
def execHcpy (h : Ctl) (d a : Nat) (s : State) : Host.Outcome State Fault Refusal :=
  issue (.hcpy h d a) (fun c =>
    let x := c.rdH a
    c.basin
      (if x = 0 then c.fault fBasinEmpty 0 0 (handleWord x a)
      else if c.s.handleStale x then c.fault fBasinStale 0 0 (handleWord x a)
      else if hKind x ≠ 2 then c.fault fBasinKind 0 0 (handleWord x a)
      else if c.rdH d ≠ 0 then c.regFault d
      else if c.s.seeFull x then c.fault fBasinCount 0 0 (x.setWidth 64)
      else c.variable [] ((c.s.seeUp x).setHandle c.wk d x))) s

/-! ## Loads and stores through a handle -/

/-- Byte o of the tile for a lane (R361). -/
def Ctx.tileOff (c : Ctx) (ix : Option Nat) (off : BitVec 16) (l : Nat) : DWord :=
  (match ix with | some n => (c.rdV n l).val | none => 0) + off.signExtend 64

/-- The checks of R364 up to the lanes' own, and the key of the pool (R177, R457): the fault, when there is one. -/
def Ctx.tileBad (c : Ctx) (a : Nat) (store : Bool) (width : Nat) (off : Nat → DWord) : Option State :=
  let x := c.rdH a
  let mis := maskOf fun l => c.x.getLsbD l && (off l).toNat % width != 0
  let out := maskOf fun l => c.x.getLsbD l && hSize x < (off l).toNat + width
  let bad := maskOf fun l => c.x.getLsbD l && (c.poisonIn l).isSome
  let low (m : Mask) : DWord := BitVec.ofNat 64 (((lanes m).map fun l => (off l).toNat).foldl min (off (lowest m)).toNat)
  if x = 0 then some (c.fault fBasinEmpty 0 0 (handleWord x a))
  else if c.s.handleStale x then some (c.fault fBasinStale 0 0 (handleWord x a))
  else if store ∧ hKind x ≠ 1 then some (c.fault fBasinKind 0 0 (handleWord x a))
  else if bad ≠ 0 then some (c.fault fPoisonConsumed bad 0 0 (c.originOf ((c.poisonIn (lowest bad)).getD 0)))
  else if mis ≠ 0 then some (c.fault fMisaligned mis (off (lowest mis)))
  else if out ≠ 0 then some (c.fault fBasinBounds out (off (lowest out)) (low out))
  else if hLocal x ∧ c.s.poolShut then some (c.fault fKeyEmpty c.x (off (lowest c.x)))
  else none

/-- The wave holds the fill handle of the tile (R347). -/
def Wave.holdsFill (w : Wave) (h : HWord) : Bool := w.regs.h.any fun x => hKind x.2 == 1 && tileObj x.2 == tileObj h

/-- HLD (R347, R364, Table 24-6): at once where the tile allows it, parked while the fill handle lives, and carried to
a tile of another die or module. -/
def execHld (h : Ctl) (sign : Bool) (width : Width) (d a : Nat) (ix : Option Nat) (off : BitVec 16) (s : State) :
    Host.Outcome State Fault Refusal :=
  issue (.hld h sign width d a ix off) (fun c =>
    if !c.any then c.finish c.s
    else
      let x := c.rdH a
      match c.tileBad a false width.bytes (c.tileOff ix off) with
      | some s => s
      | none =>
          let t := c.s.tile (hDie x) (hIndex x)
          let see : Bool := hKind x == 2
          let id := c.s.opSeq
          let rs := (List.range width.regs).map fun k => destOf (.v (d + k)) c.x
          let o : Op := { c.op with record := some x, addrs := (lanes c.x).map fun l => (l, c.tileOff ix off l) }
          let wait : State := c.holdOn o rs c.s
          if !hLocal x then
            (if !see then c.finish (c.pend id rs (c.s.addOp o))
            else if c.w.holdsFill x then c.fault fBasinSelfpark c.x 0 (x.setWidth 64)
            else wait)
          else if see ∧ t.st = 1 then
            (if c.w.holdsFill x then c.fault fBasinSelfpark c.x 0 (x.setWidth 64) else wait)
          else if see ∧ t.st = 3 then c.fault fBasinAbandoned c.x 0 (x.setWidth 64)
          else if hDie x ≠ c.w.die then c.finish (c.pend id rs (c.s.addOp o))
          else
            let ws := loadRegs d width sign c.x fun l => t.read (c.tileOff ix off l).toNat width.bytes
            c.finish (c.pend id rs ((c.s.addOp { o with writes := ws, finished := true }).tileAcquire c.wk x))) s

/-- The bytes of an HST reach the tile, lane by lane. -/
def State.hstWrite (s : State) (o : Op) (h : HWord) (n : Nat) : State :=
  s.modTile (hDie h) (hIndex h) fun t =>
    { t with bytes := (lanes o.mask).foldl (fun m l => memWrite m (o.addr l).toNat ((bytesOf (tget o.data l [])).take n)) t.bytes }

/-- HST writes through the fill handle (R364). -/
def execHst (h : Ctl) (width : Width) (src a : Nat) (ix : Option Nat) (off : BitVec 16) (s : State) :
    Host.Outcome State Fault Refusal :=
  issue (.hst h width src a ix off) (fun c =>
    if !c.any then c.finish c.s
    else
      let x := c.rdH a
      match c.tileBad a true width.bytes (c.tileOff ix off) with
      | some s => s
      | none =>
          let o : Op := { c.op with record := some x, addrs := (lanes c.x).map fun l => (l, c.tileOff ix off l)
                                    data := (lanes c.x).map fun l => (l, c.words src width.regs l) }
          if c.w.home x then c.finish ((c.s.addOp { o with finished := true }).hstWrite o x width.bytes)
          else c.finish (c.s.addOp o)) s

/-- The handle register of an HLD or HST. -/
def Op.tileReg (o : Op) : Nat := match o.instr with | .hld _ _ _ _ a _ _ | .hst _ _ _ a _ _ => a | _ => 0

/-- An access or a drop that is carried to the tile's home arrives there and is applied (R347, R352): STALE where the
tile is gone; a load that finds the tile OPEN goes on waiting. What another module's tile answers to a load is the peer's: `how` is
0 where it gives bytes, words of a peer (log entry 5), 1 where the tile is ABANDONED, 2 where it is stale. -/
def State.carried (s : State) (id how : Nat) : State :=
  match s.op id with
  | none => s
  | some o =>
      let h := o.record.getD 0
      let gone (s : State) : State :=
        if o.holding then s.opFault id fBasinStale o.mask 0 (handleWord h o.tileReg) else s.opLateFault id fBasinStale o.mask 0 (handleWord h o.tileReg)
      let shut (s : State) : State :=
        if o.holding then s.opFault id fKeyEmpty o.mask (o.addr (lowest o.mask)) 0 else s.opLateFault id fKeyEmpty o.mask (o.addr (lowest o.mask)) 0
      let left (s : State) : State :=
        if o.holding then s.opFault id fBasinAbandoned o.mask 0 (h.setWidth 64) else s.opLateFault id fBasinAbandoned o.mask 0 (h.setWidth 64)
      if o.finished || s.carryHeld id o then s
      else match o.instr with
      | .hdrop .. => s.dropTry id
      | .hst _ w _ _ _ _ =>
          if s.handleStale h then gone s
          else if hLocal h && s.poolShut then shut s
          else if hLocal h then (s.hstWrite o h w.bytes).opDone id false
          else s.opDone id false
      | .hld _ sign w d _ _ _ =>
          if s.handleStale h then gone s
          else if hLocal h && s.poolShut then shut s
          else if !hLocal h && hKind h == 2 && how == 1 then left s
          else if !hLocal h && how == 2 then gone s
          else if !hLocal h then
            let bytes (l : Nat) : List Byte := (List.range w.bytes).map fun k =>
              Config.freeValue 8 (2 ^ 210 + s.peerSeq * 2 ^ 16 + 16 * l + k)
            let s := s.tileAcquire o.wave h
            (({ s with peerSeq := s.peerSeq + 1 }).opWrite id (loadRegs d w sign o.mask bytes)).opDone id true
          else
            let t := s.tile (hDie h) (hIndex h)
            if hKind h = 2 ∧ t.st = 1 then s
            else if hKind h = 2 ∧ t.st = 3 then left s
            else s.hldRead id t
      | _ => s

/-! ## Handles in memory -/

/-- A form that sends the handle of a register away: the register of a fill handle has a pending write (R348, R351, R360). -/
def State.handleBusy (s : State) (wk : Nat) (x : HWord) (a id : Nat) : State :=
  if hKind x = 1 then s.modWave wk fun w => { w with hBusy := w.hBusy ++ [(a, id)] } else s

/-- HSTM stores a handle in a slot (R348, R365). -/
def execHstm (h : Ctl) (b : Nat) (off : BitVec 16) (a : Nat) (s : State) : Host.Outcome State Fault Refusal :=
  issue (.hstm h b off a) (fun c =>
    let x := c.rdH a
    let l := lowest c.x
    c.basin
      (if c.s.seeFull x then c.fault fBasinCount 0 0 (x.setWidth 64)
      else
        let id := c.s.opSeq
        let s := c.access { c.op with todo := laneBit l, u := [0], record := some x, addrs := [(l, c.sOff b off)] } []
        if (s.op id).isSome then s.handleBusy c.wk x a id else s)) s

/-- The issue of HLDM and of HLDM.RING: the register must be empty. -/
def Ctx.hldm (c : Ctx) (a ps b : Nat) (off : BitVec 16) : State :=
  let l := lowest c.x
  c.basin
    (if c.rdH a ≠ 0 then c.regFault a
    else
      let id := c.s.opSeq
      let s := c.access { c.op with todo := laneBit l, u := [0], addrs := [(l, c.sOff b off)] } [destOf (.p ps) c.x]
      if (s.op id).isSome then s.modWave c.wk fun w => { w with hBusy := w.hBusy ++ [(a, id)] } else s)

/-- HLDM takes a handle from a slot (R348, R349, R365). -/
def execHldm (h : Ctl) (a ps b : Nat) (off : BitVec 16) (s : State) : Host.Outcome State Fault Refusal :=
  issue (.hldm h a ps b off) (fun c => c.hldm a ps b off) s

/-- HLDM.RING takes a handle from a ring (R351, R365). -/
def execHldmRing (h : Ctl) (a ps b : Nat) (off : BitVec 16) (s : State) : Host.Outcome State Fault Refusal :=
  issue (.hldmRing h a ps b off) (fun c => c.hldm a ps b off) s

/-! ## Handles across modules (R351, R352, R366) -/

/-- HXFER sends a handle: a fill handle leaves its register, a see handle is counted once more. u = [0, 0 until the far
end has it, 1 accepted, 2 refused]. -/
def execHxfer (h : Ctl) (ps a port ring : Nat) (s : State) : Host.Outcome State Fault Refusal :=
  issue (.hxfer h ps a port ring) (fun c =>
    let x := c.rdH a
    c.basin
      (if x = 0 then c.fault fBasinEmpty 0 0 (handleWord x a)
      else if c.s.handleStale x then c.fault fBasinStale 0 0 (handleWord x a)
      else if c.s.seeFull x then c.fault fBasinCount 0 0 (x.setWidth 64)
      else
        let id := c.s.opSeq
        let s := c.pend id [destOf (.p ps) c.x] (c.s.addOp { c.op with todo := 0, record := some x, u := [0, 0] })
        let s := if hKind x = 1 then (s.setHandle c.wk a 0).fillAt x (.flight id) else s.seeUp x
        c.finish (s.handleBusy c.wk x a id))) s

/-- Port and ring of a transfer. -/
def Op.port (o : Op) : Nat := match o.instr with | .hxfer _ _ _ p _ => p | _ => 0
def Op.xferPs (o : Op) : Nat := match o.instr with | .hxfer _ ps _ _ _ => ps | _ => 7

/-- The port beyond which a see handle that is at a peer counts: the port it comes from, where one is known there, else the
lowest with one. -/
def Tile.awayPort (t : Tile) (port : Nat) : Nat :=
  if tget t.away port 0 ≠ 0 then port else ((t.away.find? fun x => x.2 != 0).map (·.1)).getD port

/-- One see handle less, or more, beyond a port. -/
def Tile.awayLess (t : Tile) (port : Nat) : Tile := { t with away := tput t.away (t.awayPort port) (tget t.away (t.awayPort port) 0 - 1) }
def Tile.awayMore (t : Tile) (port : Nat) : Tile := { t with away := tput t.away port (tget t.away port 0 + 1) }

/-- The far end takes the handle, or refuses it; a port that is down refuses. -/
def State.xferOut (s : State) (id : Nat) (accepted : Bool) : State :=
  match s.op id with
  | none => s
  | some o =>
      match o.instr with
      | .hxfer .. =>
          if o.u.getD 1 0 ≠ 0 then s
          else
            let ok : Bool := accepted && !(o.port ∈ s.portsDown)
            let h := o.record.getD 0
            let s := s.modOp id fun o => { o with u := [0, if ok then 1 else 2] }
            if !ok then s
            else if hKind h = 1 then s.fillAt h (.away o.port)
            else if hLocal h ∧ !s.stale h then
              s.modTile (hDie h) (hIndex h) fun t => t.awayMore o.port
            else s
      | _ => s

/-- The acknowledgement or the refusal comes back: the status is written, the counter falls, and a refused handle
returns, unless it died when its port went down (R351, R352). -/
def State.xferAck (s : State) (id : Nat) : State :=
  match s.op id with
  | none => s
  | some o =>
      match o.instr with
      | .hxfer .. =>
          if o.u.getD 1 0 = 0 then s
          else
            let ok : Bool := o.u.getD 1 0 == 1
            let h := o.record.getD 0
            let s := if ok then s
              else if hKind h = 1 then
                (if hLocal h && (s.stale h || (s.tile (hDie h) (hIndex h)).st != 1) then s
                else if (s.wave o.wave).isSome then s.giveHandle o.wave o.handleReg h else s.fillEnd h false)
              else s.seeDown h
            (s.opWrite id [laneConst (.p o.xferPs) o.mask (if ok then 1 else 0)]).opDone id false
      | _ => s

/-- A handle that comes home is no longer at a peer, whichever port it comes by (R352). -/
def State.comesHome (s : State) (port : Nat) (h : HWord) (pa : Nat) : State :=
  if !hLocal h ∨ s.stale h then s
  else if hKind h = 1 then s.fillAt h (.slot pa)
  else s.modTile (hDie h) (hIndex h) fun t => t.awayLess port

/-- The handle is one that a peer holds: the tile's fill handle is away, or a see handle is. -/
def State.atPeer (s : State) (h : HWord) : Bool :=
  hLocal h && !s.stale h && (
    let t := s.tile (hDie h) (hIndex h)
    if hKind h = 1 then (match t.fill with | .away _ => t.st == 1 | _ => false) else hKind h == 2 && t.away.any fun x => x.2 != 0)

/-- What a peer does with a handle of this module is applied at the tile's home (R346, R352). -/
def State.peerAct (s : State) (port : Nat) (h : HWord) (a : PeerAct) : State :=
  if port ∈ s.portsDown || !s.atPeer h then s
  else
    let mod (s : State) (f : Tile → Tile) : State := s.modTile (hDie h) (hIndex h) f
    match a with
    | .create => if hKind h = 2 && !s.seeFull h then mod (s.seeUp h) fun t => t.awayMore port else s
    | .drop => if hKind h = 1 then s.fillEnd h true else (mod s fun t => t.awayLess port).seeDown h
    | .die => if hKind h = 1 then s.fillEnd h false else (mod s fun t => t.awayLess port).seeDown h
    | .store off bs =>
        if hKind h = 1 && off + bs.length ≤ hSize h && !s.poolShut then mod s fun t => { t with bytes := memWrite t.bytes off bs } else s
    | .moved q => if hKind h = 1 then s.fillAt h (.away q) else mod s fun t => (t.awayLess port).awayMore q

/-- A peer sends a handle to an inbound ring of this module: it is enqueued as one element, a release at module scope,
or refused with no effect (R351). -/
def State.xferIn (s : State) (port ring : Nat) (h : HWord) : State :=
  match tfind s.inRings (16 * port + ring) with
  | none => s
  | some r =>
      if port ∈ s.portsDown ∨ (hLocal h ∧ hAsid h ≠ r.asid) then s
      else
        let refused (c : Nat) : State :=
          if c = fRetry then { s with again := s.again ++ [.ev (.hxferDelivery (.inbound port ring h))] } else s
        match s.fwRead 0 r.asid r.block 32 with
        | .error c => refused c
        | .ok bs =>
            match ringOf bs with
            | none => s
            | some b =>
                if b.size ≠ 16 then s
                else match b.plan true [0] with
                | [] => s
                | x :: _ =>
                    match s.asidSegs 0 r.asid .store 2 x.2 16, s.asidWrite 0 r.asid x.2 (leBytes 16 h.toNat) with
                    | .ok gs, .ok s1 =>
                        (match s1.asidWrite 0 r.asid (r.block + 16) (leBytes 8 ((b.tail + 1) % 2 ^ 64)) with
                        | .error c => refused c
                        | .ok s2 => ((s2.asidReach 0 r.asid r.block 32).slotFresh (slotPa gs) |>.slotStored (slotPa gs) h).comesHome port h (slotPa gs))
                    | _, .error c | .error c, _ => refused c

/-- HXFER_DELIVERY: a handle of this module reaches a peer, or a peer's handle this module (R351); or what a peer does with a handle
of this module that it holds reaches the tile (R346, R352, R444). -/
def execHxferDelivery (x : HxDelivery) (s : State) : Host.Outcome State Fault Refusal :=
  .next (match x with
    | .outbound op accepted => s.xferOut op accepted
    | .inbound port ring h => s.xferIn port ring h
    | .peer port h a => s.peerAct port h a)

/-- HXFER_ACK (R351). -/
def execHxferAck (op : Nat) (s : State) : Host.Outcome State Fault Refusal := .next (s.xferAck op)

/-- CARRIED_HANDLE_ACCESS: an access or drop arrives at the tile's home (R352). -/
def execCarriedHandleAccess (op lane : Nat) (s : State) : Host.Outcome State Fault Refusal := .next (s.carried op lane)

/-! ## Questions -/

/-- HQRY (R367). -/
def execHqry (h : Ctl) (sel : HSel) (d a : Nat) (s : State) : Host.Outcome State Fault Refusal :=
  issue (.hqry h sel d a) (fun c =>
    let x := c.rdH a
    let v : DWord := match sel with
      | .lo => x.setWidth 64
      | .hi => (x >>> 64).setWidth 64
      | .st =>
          if x = 0 ∨ c.s.handleStale x then 0
          else if !hLocal x then c.s.free 64 (2 ^ 60) &&& 0xFFFFFFFF00000003
          else
            let t := c.s.tile (hDie x) (hIndex x)
            BitVec.ofNat 64 (t.sees * 2 ^ 32 + t.st)
    c.variable [c.toS d (c.uni [] v)] c.s) s

/-! ## Ports that go down (R352, R444) -/

/-- A port is declared down: fill handles at it or beyond it, or in flight to it, die undropped, and see handles die. -/
def State.portDown (s : State) (port : Nat) : State :=
  if port ∈ s.portsDown then s
  else
    let s := { s with portsDown := s.portsDown ++ [port] }
    let tiles := s.dies.flatMap fun d => d.2.tiles.map fun t => (d.1, t.1, t.2)
    let s := tiles.foldl (fun s (x : Nat × Nat × Tile) =>
      let (d, i, t) := x
      let lost : Bool := match t.fill with
        | .away p => p == port
        | .flight id => (s.op id).any fun o => o.port == port && o.u.getD 1 0 != 2
        | _ => false
      let hd (k : Nat) : HWord := mkHandle k t.asid d t.gen i t.size
      let s := if t.st = 1 ∧ lost then s.fillEnd (hd 1) false else s
      let n := tget t.away port 0
      let s := s.modTile d i fun t => { t with away := tdel t.away port }
      (List.range n).foldl (fun s _ => s.seeDown (hd 2)) s) s
    s.event (.portDown port)

/-- PEER_LINK_TRAINING_FAIL (R444). -/
def execPeerLinkTrainingFail (port : Nat) (s : State) : Host.Outcome State Fault Refusal := .next (s.portDown port)

/-- PEER_ACK_TIMEOUT: a peer silent for 10 ms (R444). -/
def execPeerAckTimeout (port : Nat) (s : State) : Host.Outcome State Fault Refusal := .next (s.portDown port)

end Sys2Proof.Machine
end

