-- ==== Sys2Proof/Machine/Fetch.lean ====
section
/-! DEFINITION. From a path to the word it issues: the wait states (R34), the instruction cache and the line checks (R46-R50,
R179, R393), breakpoints (R402), a team's first issue (R385), and the placement of one instruction where the next step
fetches it. -/

namespace Sys2Proof.Machine

/-! ## Readiness -/

/-- A path is in no wait state; with `hold`, its stall count has expired too (R34, R56). -/
def Path.free (p : Path) (hold : Bool) : Bool :=
  !p.jw && !p.miss && (p.wait == .none || p.wait == .sleep 0) && (!hold || p.hold == none || p.hold == some 0)

/-- A wave may issue at all. -/
def State.waveRuns (s : State) (w : Wave) : Bool :=
  !w.off && w.trap.pend.isNone && w.trap.faulted.isNone && w.parked.isEmpty && (s.teamOf w).begun
    && !((s.launch w.launch).any fun l => l.aborted.isSome) && !((s.regionOf w).any (·.restart))

/-- The path of a slot may issue, by the states of Table 3-4, holds, stops and halts. -/
def State.pathRuns (s : State) (w : Wave) (k : Nat) (hold : Bool) : Bool :=
  match w.slot k with
  | none => false
  | some p =>
      s.waveRuns w && p.free hold && (!p.stopped || p.oneStep) && (!s.halted w || p.oneStep)
        && !((w.slot 0).any (·.miss)) && !((w.slot 1).any (·.miss))

/-- Quarter of a wave slot (R386). -/
def Wave.quarter (w : Wave) : Nat := w.wslot % 4

/-! ## Lines -/

/-- The line at an address as its 64 bytes, when the polder's instruction cache holds its block. -/
def State.cachedLine (s : State) (w : Wave) (pa : Nat) : Option (List Byte) :=
  ((tfind s.icache (polderOf w)).bind fun b => tfind b (pa / 128)).map fun blk => (blk.drop (pa % 128)).take 64

/-- Fill a block of the instruction cache, and the block after it when it is absent (R393). -/
def State.fillBlock (s : State) (polder pa key : Nat) : State :=
  let c := (tfind s.icache polder).getD []
  let b := pa / 128
  let s := s.reach key (128 * b)
  let c := tput c b (s.l2Read key (128 * b) 128)
  let c := if thas c (b + 1) then c else tput c (b + 1) (s.l2Read key (128 * (b + 1)) 128)
  { s with icache := tput s.icache polder c }

/-- Fill one block of the instruction cache. -/
def State.fillOne (s : State) (polder b key : Nat) : State :=
  let s := s.reach key (128 * b)
  { s with icache := tput s.icache polder (tput ((tfind s.icache polder).getD []) b (s.l2Read key (128 * b) 128)) }

/-- Discard a block (R49). -/
def State.dropBlock (s : State) (polder block : Nat) : State :=
  { s with icache := tmod s.icache polder fun c => tdel c block }

/-- What a path finds where it is about to issue. -/
inductive Fetched where
  | line (l : Line)
  | miss
  /-- the line failed its parity check -/
  | parity (pa : Nat)
  | fault (code : Nat) (extra : DWord)
  deriving DecidableEq, Repr

/-- The line that holds code is reached through a mapping of another KEY than this one: what it reads is undefined (R177). -/
def State.codeMixed (s : State) (pa key : Nat) : Bool :=
  isModuleMem pa && (tfind s.lineKey (pa / 128)).any fun x => x.mixed || x.key != key

/-- Fetch the line of a path (R49, R50, R179); what is undefined of it is free (R51, R177). A path in the body of a pinned loop
takes its lines from the loop buffer and meets no miss (R116, R393). -/
def State.fetch (s : State) (w : Wave) (p : Path) : Fetched :=
  let la : DWord := BitVec.ofNat 64 (p.pc.toNat / 64 * 64)
  if s.codeHeld w p.pc then .miss else
  match s.codePa w p.pc with
  | none => .fault fFetchFault la
  | some (pa, key) =>
      let held : Option (List Byte) := if p.loop.isSome then some ((s.cachedLine w pa).getD (s.l2Read key pa 64)) else s.cachedLine w pa
      match held with
      | none => .miss
      | some bs =>
          let l := decodeLine (if s.codeMixed pa key then (List.range 64).map fun k => s.free 8 (2 ^ 66 + pa + k) else s.codeBytes w pa bs)
          if !l.parityOk then (if p.refetch then .fault fLineParity la else .parity pa)
          else if !l.formatOk then .fault fLineFormat la
          else .line l

/-! ## Breakpoints (R402) -/

/-- A comparator matches the path's next issue. -/
def Comparator.hits (c : Comparator) (asid : Nat) (p : Path) : Bool :=
  c.ctl.getLsbD 0 && field c.ctl.toNat 2 1 != 3 && c.addr == p.pc && field c.ctl.toNat 15 4 == asid && p.arr

/-- Count a match; whether it fires. A firing comparator with a count clears EN. -/
def Comparator.match_ (c : Comparator) : Comparator × Bool :=
  let n := field c.ctl.toNat 31 16
  if n = 0 then (c, true)
  else if c.seen + 1 = n then ({ c with seen := 0, ctl := c.ctl &&& ~~~1 }, true)
  else ({ c with seen := c.seen + 1 }, false)

/-- Match every comparator of the die; the ACT of the lowest that fires. -/
def State.breakpoint (s : State) (w : Wave) (p : Path) : State × Option Nat :=
  let d := s.die w.die
  let asid := (s.hdr w).asid
  let r := d.cmps.map fun c => if c.2.hits asid p then (c.1, c.2.match_, field c.2.ctl.toNat 2 1) else (c.1, (c.2, false), 0)
  if d.cmps.all fun c => !c.2.hits asid p then (s, none)
  else (s.modDie w.die fun d => { d with cmps := r.map fun x => (x.1, x.2.1.1) }, ((r.find? fun x => x.2.1.2).map fun x => x.2.2))

/-- A path stops (R403). -/
def State.stopPath (s : State) (wk k : Nat) : State :=
  match (s.wave wk).bind fun w => (w.slot k).map fun p => (w, p) with
  | none => s
  | some (w, p) =>
      let s := s.modWave wk fun w => w.setSlot k (some { p with stopped := true, oneStep := false, arr := false })
      s.trace wk 5 (w.pathIx k) p.pc p.mask 0

/-- A launch halts at once (R370, R401). -/
def State.haltLaunch (s : State) (lk : Nat) : State := s.haltFrom lk s.now

/-- The slot record that a team waits on to make its first issue. -/
def State.waitSlot (s : State) (tk : Nat) (t : Team) : Option (Nat × BindRec) := (s.die t.die).slots.find? fun b => tk ∈ b.2.waiting

/-- The first issue of a team is noted: its clock, and the cycle from which its record's spacing counts (R371, R385). -/
def State.noteFirst (s : State) (tk : Nat) : State :=
  match s.team tk with
  | none => s
  | some t =>
      match s.waitSlot tk t with
      | none => s
      | some (k, _) =>
          let s := s.modTeam tk fun t => { t with clkFirst := s.clock (coreKey t.die t.core) }
          s.modDie t.die fun d =>
            { d with slots := tmod d.slots k fun b => { b with waiting := b.waiting.filter (· ≠ tk), lastFirst := some s.now } }

/-! ## Waits -/

/-- The stall reason of a wait on an operation (Table 3-4, R256, R316); a retried access counts transaction retry in a transaction,
and counter wait otherwise (R222). -/
def opReason (o : Op) : Nat :=
  match o.instr with
  | .bara _ _ | .barw _ _ _ | .baraw _ _ _ | .stepmk _ _ | .cred _ _ _ _ _ => 6
  | .hld .. => if o.holding then 7 else 1
  | .rlxbeg _ | .rlxend _ => 12
  | .evwait _ _ => 14
  | .accalloc .. => 11
  | .tkdef .. | .tkdec .. | .tkpull .. | .tkdone .. | .hxfer .. | .gadd .. | .gtest .. => 13
  | _ => if o.retry &&& o.tx ≠ 0 then 9 else 1

/-! ## Placing one instruction where the next step fetches it -/

/-- Keys of the launch, team and wave that `withFetchWord` makes resident. -/
def probeLaunch : Nat := launchKey 0 0
def probeTeam : Nat := teamKey probeLaunch 0 0
def probeWave : Nat := waveKey probeTeam 0

/-- Where the probe's code line stands. -/
abbrev probePc : Nat := 0x20000000
abbrev probePa : Nat := 0x100000

/-- The page-table entries that map the probe's code page for address space 0: the table of address spaces and
five levels of one entry each, and the page itself, readable and executable. -/
def probeTables : List (Nat × List Byte) :=
  [ (0, leBytes 8 0x10001), (0x10000, leBytes 8 0x20001), (0x20000, leBytes 8 0x30001), (0x30000, leBytes 8 0x40001),
    (0x40000 + 8 * 0x100, leBytes 8 0x50001), (0x50000, leBytes 8 (probePa + 2 ^ 63 + 0x103)) ]

/-- A resident wave of 32 lanes with one path at the probe's line, in a launch that declares 256 vector
registers, its code line in memory and in the instruction cache, and the issue of that path next. -/
def State.probe (s : State) (word : BitVec 96) : State :=
  let line := encodeLine [word, 0x00E01C00, 0x00E01C00, 0x00E01C00, 0x00E01C00] 31 0
  let mem := (probeTables ++ [(probePa, line)]).foldl (fun m x => memWrite m x.1 x.2) s.mem
  { s with
    mem := mem
    keys := tput s.keys 0 { loaded := true, gen := 1 }
    icache := tput s.icache 0 [(probePa / 128, line ++ List.replicate 64 0)]
    launches := tput s.launches probeLaunch
      { home := 0, qseq := 0, st := .running, d := 1, dieList := [0]
        hdr := { v := 256, stages := [⟨512, 128, 32, BitVec.ofNat 64 probePc⟩] } }
    teams := tput s.teams probeTeam { launch := probeLaunch, cluster := 0, lti := 0, die := 0, core := 0, waves := 1
                                      base := some 0, gran := [], bars := 512, begun := true }
    waves := tput s.waves probeWave { launch := probeLaunch, team := probeTeam, ix := 0, die := 0, core := 0, wslot := 0
                                      live := 0xFFFFFFFF, priv := true
                                      slot0 := some { pc := BitVec.ofNat 64 probePc, mask := 0xFFFFFFFF } }
    agenda := [.issue probeWave 0] }

end Sys2Proof.Machine
end

