-- ==== Sys2Proof/Machine/Switch.lean ====
section
/-! DEFINITION. Pre-emption of a wave and its restart from the checkpoint (R41, R89-R92, R190, R314, R398, R400). -/

namespace Sys2Proof.Machine

/-- Forms whose wait a pre-emption strikes at once, wherever they stand (R400). -/
def waitsSwitchable (i : Instr) : Bool :=
  match i with
  | .bara _ _ | .barw _ _ _ | .baraw _ _ _ | .hld _ _ _ _ _ _ _ | .evwait _ _ | .tkpull _ _ _ _ _ | .gtest _ _
  | .stepmk _ _ | .cred _ _ _ _ _ => true
  | _ => false

/-- The word at an address, with the version of its line, when the line can be fetched. -/
def State.wordAt (s : State) (w : Wave) (pc : DWord) : Option (Nat × BitVec 96) :=
  (s.codePa w pc).map fun x =>
    let l := decodeLine (s.codeLine w x.1 x.2)
    (l.ver, l.words.getD (pc.toNat % 8) 0)

/-- The word at an address, decoded. -/
def State.decodeAt (s : State) (w : Wave) (pc : DWord) : Option Decoded :=
  (s.wordAt w pc).map fun x => decode (s.hdr w).v x.1 x.2

/-- The opcode of the word at an address. -/
def State.opcAt (s : State) (w : Wave) (pc : DWord) : Option Nat := (s.wordAt w pc).map fun x => (Fields.ofWord x.2).opc

/-- A path stands in a wait of R400, or the wave is parked on a fault. -/
def State.switchWait (s : State) (w : Wave) : Bool :=
  let on (p : Path) : Bool := match p.wait with
    | .op id => (s.op id).any fun o => waitsSwitchable o.instr
    | _ => (s.teamOf w).events.isEmpty && (match s.decodeAt w p.pc with
        | some (.instr (.evwait _ _)) => true
        | _ => false)
  !w.parked.isEmpty || w.slot0.any on || w.slot1.any on

/-- The form that ended the wave's span has not completed, and nothing has issued after it: the wave still stands in the span
that it ends (R39, R41). A command is never issued again, and a pre-emption after it is deferred (R259). -/
def State.inEnder (s : State) (wk : Nat) (w : Wave) : Bool :=
  (w.span.ender.bind s.op).any fun o =>
    o.wave == wk && !o.instr.isCommand && !o.finished && (match o.instr with | .hxfer .. | .hdrop .. => false | _ => true)

/-- The wave stands in a span that it can run again (R39, R41). -/
def State.inSpan (s : State) (wk : Nat) (w : Wave) : Bool := w.span.ckpt.isSome && (w.span.isOpen || s.inEnder wk w)

/-- The span-ending form that has made part of its effects before a pre-emption (R190, R400): the atomic to which the done mask
belongs, with performed lanes, or a barrier form, STEPMK or CRED that waits. -/
def State.madeBefore (s : State) (wk : Nat) (w : Wave) : Option Op :=
  ((s.opsOf wk).filterMap fun x => match x.2.instr with
    | .atom .. | .red .. => if w.done = 0 ∨ w.doneOf ≠ some x.1 then none else some x.2
    | .bara _ _ | .barw _ _ _ | .baraw _ _ _ | .stepmk _ _ | .cred _ _ _ _ _ => if w.heldBy x.1 then some x.2 else none
    | _ => none).getLast?

/-- What a restart is to know of it: its address, and, of a wait, its phase. -/
def Op.made (o : Op) : DWord × List DWord :=
  (o.pc, match o.instr with | .atom .. | .red .. => [] | _ => o.u)

/-- Entries on which a wave is parked hold it no longer: completing one then only retires it (R183). -/
def State.unlink (s : State) (wk : Nat) : State :=
  match s.wave wk with
  | none => s
  | some w =>
      let off (e : FqEntry) : FqEntry := if e.wave = wk ∧ e.op.any (· ∈ w.parked) then { e with op := none } else e
      (s.modDie w.die fun d => { d with fq := d.fq.map off }).modWave wk fun w => { w with parked := [] }

/-- What a wave had parked is made anew when it restarts (R183). -/
def State.rewalk (s : State) (wk : Nat) : State :=
  { s with ops := s.ops.map fun (o : Nat × Op) =>
      if o.2.wave = wk ∧ o.2.walked ∧ !o.2.finished ∧ (lanes o.2.todo).any (fun l => (tget o.2.segs l []).any fun g => g.place.isGlob)
      then (o.1, { o.2 with walked := false }) else o }

/-- THE WAVE IS TAKEN OFF at its span head (R41): its registers, predicates and counters are discarded. A store
that the discarded prefix issued still performs; a load or command that it issued changes no register; what
holds a path, or is parked, is dropped. A live region is discarded (R314). -/
def State.takeOff (s : State) (wk : Nat) : State :=
  match s.wave wk with
  | none => s
  | some w =>
      let s := match w.region with
        | some rk => (s.abandon rk none).modWave wk fun w => { w with region := none }
        | none => s
      let made := s.madeBefore wk w
      let before : Nat := (w.span.ckpt.map Ckpt.opsBefore).getD 0
      let mine := (s.opsOf wk).filter fun o => before ≤ o.1
      let drop := mine.filter fun o => decide (o.1 ∈ w.parked) || (w.heldBy o.1 && !o.2.tkBegun) || (match o.2.instr with
        | .atom .. | .red .. | .rlxbeg _ | .hst .. | .hld .. | .hstm .. | .hldm .. | .hldmRing .. => true
        | _ => false)
      let s := drop.foldl (fun s o => s.delOp o.1) s
      let s := (mine.foldl (fun s o => s.modOp o.1 fun o => { o with ctr := 7, writes := [], tans := [], mask := 0 }) s).unlink wk
      s.modWave wk fun w =>
        { w with off := true, preempt := none, barDone := (made.map Op.made).orElse fun _ => w.barDone
                 madeBar := if made.isSome then made.bind Op.barNo else w.madeBar, haz := w.haz.filter (·.op.any (· < before)), due := [], pair := none
                 hBusy := w.hBusy.filter fun b => b.2 < before }

/-- A pre-emption reaches a wave: at once in a span, or, for a context switch, in a wait of R400; otherwise, and while a fault
waits for delivery or its handler runs, it is deferred (R41, R314, R389, R398). -/
def State.strike (s : State) (wk : Nat) : State :=
  match s.wave wk with
  | none => s
  | some w =>
      if w.off || w.trap.pend.isSome || w.trap.inHandler || w.trap.faulted.isSome then s
      else if s.inSpan wk w then s.takeOff wk
      else if w.region.isSome then s
      else if w.preempt = some .switch ∧ s.switchWait w then (s.unlink wk).modWave wk fun w => { w with off := true, frozen := true, preempt := none }
      else s

/-- A path that a restart resumes: it waits on where its operation is still pending, and goes on past it where
the operation has completed. -/
def State.restartPath (s : State) (p : Path) : Path :=
  match p.wait with
  | .op id => if (s.op id).isSome then p else { p.advance with wait := .none }
  | _ => p

/-- The stop of a path is not the span's: it ends only at GO, STEP or a kill (R403). -/
def Path.stopAs (p : Path) (now : Option Path) : Path := { p with stopped := now.any (·.stopped), oneStep := now.any (·.oneStep) }

/-- Vector registers outside the working set after a restart: undefined (R91). -/
def State.lostRegs (s : State) (w : Wave) (ns : List Nat) : Tab Word :=
  (((List.range (s.hdr w).v).filter fun n => n ∉ ns).flatMap fun n => (List.range 32).map fun l =>
    (32 * n + l, s.free 32 (OneReg.key (.v n) l))).filter fun x => x.2 ≠ 0

/-- THE RESTART of a wave (R41, R92): registers, predicates, paths, stack, working set, configuration and store
sum are the checkpoint's, each counter counts the operations issued before the span head that are pending,
and the entries of the divergence stack are written again; a page of theirs that is not resident holds the restart. A
frozen wave resumes its wait. -/
def State.restart (s : State) (wk : Nat) : Host.Outcome State Fault Refusal :=
  match s.wave wk with
  | none => .next s
  | some w =>
      if !w.off ∨ w.parked ≠ [] then .next s
      else if w.frozen then .next ((s.modWave wk fun w => { w with off := false, frozen := false }).rewalk wk)
      else
        match w.span.ckpt with
        | none => .next ((s.modWave wk fun w => { w with off := false }).rewalk wk)
        | some k =>
            if !s.ckptIntact wk k then .fault .checkpointAltered
            else
              let ns := regsOfRanges k.ws
              let g := k.regs
              let kept := g.v.filter fun x => x.1 / 32 ∈ ns
              let regs : Regs := { g with
                v := (s.lostRegs w ns).foldl (fun t x => tput t x.1 x.2) kept
                vP := g.vP.filter fun x => x.1 ∈ ns
                h := w.regs.h }
              let ops := (s.opsOf wk).filter fun o => o.1 < k.opsBefore
              let back (s : State) : State := (s.modWave wk fun w =>
                { w with
                  regs := regs, slot0 := k.slot0.map fun p => (s.restartPath p).stopAs w.slot0
                  slot1 := k.slot1.map fun p => (s.restartPath p).stopAs w.slot1, stack := k.stack
                  ws := k.ws, span := { isOpen := true, ckpt := some k }, off := false, storeSum := k.storeSum
                  rlx := k.rlx, gctx := k.gctx
                  c := (List.range 6).foldl (fun t j =>
                    tset t j (ops.filter fun o => o.2.ctr == j).length 0) [] }).rewalk wk
              let st := k.stack.reverse.zipIdx.map fun x => (16 * x.2, x.1.image)
              .next (match s.hwWriteAll wk 0 0 0 st with
                | .done s => back s
                | .code _ _ => back s
                | .parked s => s
                | .wait => s)

end Sys2Proof.Machine
end

