-- ==== Sys2Proof/Machine/Control.lean ====
section
/-! DEFINITION. The control and wave forms, opcodes 0x000 to 0x011 (spec 07 R108-R121; 03 R24-R32, R39-R41). -/

namespace Sys2Proof.Machine

/-! ## What the branch forms share -/

/-- The BRANCH record of a taken or divergent branch (R405, Table 28-8). -/
def Ctx.branchRec (c : Ctx) (m : Mask) (t : DWord) (s : State) : State :=
  s.trace c.wk 2 (c.w.pathIx c.slot) c.p.pc m (t.toNat % 2 ^ 32)

/-- The issuing path moves to an address under the form's stall count (R56). -/
def Ctx.moveTo (c : Ctx) (pc : DWord) (s : State) : State :=
  s.modWave c.wk fun w => w.setSlot c.slot ((w.slot c.slot).map fun p => (p.at pc).issued c.h.stall)

/-- A refused target: its fault, or the block of a branch whose target cannot be read yet (R54, R222). -/
def Ctx.stopAt (c : Ctx) (x : Nat × DWord) : State := if x.1 = fRetry then c.s.block 1 else c.fault x.1 0 0 x.2

/-- The first lane, in ascending order, whose target is refused (R54). -/
def Ctx.badTarget (c : Ctx) (target : Nat → DWord) : Option (Nat × DWord) :=
  (lanes c.x).findSome? fun l => c.s.targetBad c.w c.p.pc (target l)

/-- THE DIVERGENCE of the issuing path (R25-R27): it stays in its slot as `stay`, resident, and `new` takes the
other slot, whose path is spilled first; both are one level deeper and hold the branch's stall count. At depth
63, or with a full stack, it is a DIVERGE_DEPTH fault. The effects of the issue are `eff`. -/
def Ctx.diverge (c : Ctx) (stay new : Path) (eff : State → State) : State :=
  let d := c.p.depth + 1
  let a : Path := { stay.issued c.h.stall with depth := d, res := true }
  let b : Path := { new.issued c.h.stall with depth := d, res := false, jw := false, wait := .none, passed := 0, stopped := false }
  let set (s : State) : State := s.modWave c.wk fun w => (w.setSlot c.slot (some a)).setSlot (1 - c.slot) (some b)
  match c.w.slot (1 - c.slot) with
  | none =>
      if 64 ≤ d then c.fault fDivergeDepth 0 0 (BitVec.ofNat 64 (c.w.stack.length % 64))
      else set (eff c.s)
  | some o =>
      if 64 ≤ d ∨ 64 ≤ c.w.stack.length then c.fault fDivergeDepth 0 0 (BitVec.ofNat 64 (c.w.stack.length % 64))
      else
        match c.s.hwWrite c.wk c.slot c.p.pc c.p.mask (16 * c.w.stack.length) o.bytes with
        | .parked s => s
        | .wait => c.s.block 1
        | .code cd va => c.fault cd c.p.mask va
        | .done s => set ((eff s).modWave c.wk fun w => { w with stack := ⟨o, 1 - c.slot, o.pc⟩ :: w.stack })

/-- A BRANCH to one target of the executing lanes (R25, R54, R108); `eff` is what the form does besides when some
lane branches. -/
def Ctx.branch (c : Ctx) (target : DWord) (eff : State → State) : State :=
  if !c.any then c.finish c.s
  else
    match c.badTarget fun _ => target with
    | some x => c.stopAt x
    | none =>
        let eff (s : State) : State := eff (c.count (c.branchRec c.x target s))
        if c.x = c.p.mask then c.moveTo target (eff c.s)
        else c.diverge { c.p.at (nextPc c.p.pc) with mask := c.p.mask &&& ~~~ c.x } { c.p.at target with mask := c.x } eff

/-- The address of the first RLXEND from an address on, by falling through. -/
def State.rlxEndAt (s : State) (w : Wave) : Nat → DWord → Option DWord
  | 0, _ => none
  | n + 1, pc =>
      match s.decodeAt w pc with
      | none => none
      | some (.instr (.rlxend _)) => some pc
      | _ => s.rlxEndAt w n (nextPc pc)

/-- A target lies outside the instructions after RLXBEG and up to RLXEND of the region that the wave is in (R311). -/
def Ctx.leavesBody (c : Ctx) (target : DWord) : Bool :=
  match c.s.regionOf c.w with
  | none => false
  | some r =>
      (r.parts.find? fun q => q.wave = c.wk).any fun q =>
        target ≤ q.begPc || (c.s.rlxEndAt c.w (2 ^ 32) (nextPc q.begPc)).any fun e => e < target

/-- A BRA, BRX or LOOP in a body is forbidden where the target of one of the lanes `m` leaves it (R311, cause 6). -/
def Ctx.inBody (c : Ctx) (m : Mask) (target : Nat → DWord) (go : State) : State :=
  let bad := maskOf fun l => m.getLsbD l && c.leavesBody (target l)
  if bad = 0 then go else c.fault fRlxForbidden bad 0 (c.rlxWord 6 (c.lowStep bad))

/-- A pop of the stack follows: an entry that was altered in memory makes later behaviour undefined (R28). -/
def State.popCheck (wk : Nat) (pops : Bool) (w : Wave) (s : State) : Host.Outcome State Fault Refusal :=
  if pops && w.poppable && !s.stackIntact wk w.stack then .fault .stackAltered else .next s

/-! ## The forms -/

/-- NOP has no effect (R121). -/
def execNop (h : Ctl) (s : State) : Host.Outcome State Fault Refusal := issue (.nop h) (fun c => c.finish c.s) s

/-- BRA (R108). -/
def execBra (h : Ctl) (target : Word) (s : State) : Host.Outcome State Fault Refusal :=
  issue (.bra h target) (fun c =>
    c.inBody c.p.mask (fun _ => inRegion c.p.pc target) (c.branch (inRegion c.p.pc target) id)) s

/-- BRX: the lanes are grouped by their targets; the group of the lowest active lane goes on in the slot, the
others are a new path at the BRX (R26, R108). -/
def execBrx (h : Ctl) (a : Src) (s : State) : Host.Outcome State Fault Refusal :=
  issue (.brx h a) (fun c =>
    let target (l : Nat) : DWord :=
      if c.x.getLsbD l then inRegion c.p.pc ((c.rd a l).val.setWidth 32) else nextPc c.p.pc
    c.inBody c.p.mask (fun l => inRegion c.p.pc ((c.rd a l).val.setWidth 32))
    (if !c.any then c.finish c.s
    else
      match c.badTarget target with
      | some x => c.stopAt x
      | none =>
          let t := target (lowest c.p.mask)
          let g := maskOf fun l => c.p.mask.getLsbD l && target l == t
          let eff (s : State) : State := c.count (c.branchRec g t s)
          if g = c.p.mask then c.moveTo t (eff c.s)
          else c.diverge { c.p.at t with mask := g } { c.p.at c.p.pc with mask := c.p.mask &&& ~~~ g } eff)) s

/-- CALL branches and writes the address after it (R109). -/
def execCall (h : Ctl) (d : Nat) (target : Word) (s : State) : Host.Outcome State Fault Refusal :=
  issue (.call h d target) (fun c =>
    c.branch (inRegion c.p.pc target) fun s => c.put [c.toS d (c.uni [] (nextPc c.p.pc))] s) s

/-- RET branches to all 64 bits of sA (R109). -/
def execRet (h : Ctl) (a : Nat) (s : State) : Host.Outcome State Fault Refusal :=
  issue (.ret h a) (fun c => c.branch (c.rdS a).val id) s

/-- JOIN: at depth 0 nothing; else the path waits for its sibling, or merges with it (R29, R62, R110). -/
def execJoin (h : Ctl) (s : State) : Host.Outcome State Fault Refusal :=
  issueO (.join h) (fun c =>
    let s := c.count c.s
    if c.p.depth = 0 then .next (c.move s)
    else
      match c.w.slot (1 - c.slot) with
      | none => (c.move (s.modWave c.wk fun w =>
          (w.setSlot c.slot (some (c.p.alone w.stack))).pop)).popCheck c.wk true c.w
      | some o =>
          if !o.jw then
            .next (s.modWave c.wk fun w => w.setSlot c.slot (some { c.p.issued h.stall with jw := true, rep := none }))
          else
            let p := mergePaths (c.p.issued h.stall) o c.w.stack
            let s := s.modWave c.wk fun w => { w with slot0 := some p, slot1 := none }.pop
            let s := s.trace c.wk 3 (((s.wave c.wk).map fun w => w.pathIx 0).getD 0) c.p.pc p.mask 0
            s.popCheck c.wk true c.w) s

/-- EXIT retires the executing lanes; a path without lanes left ends (R32, R111). -/
def execExit (h : Ctl) (s : State) : Host.Outcome State Fault Refusal :=
  issueO (.exit h) (fun c =>
    let s := c.count c.s
    if !c.any then .next (c.move s)
    else
      let s := (s.gaugeClose c.w c.x false).modWave c.wk fun w => { w with retired := w.retired ||| c.x, tx := (lanes c.x).foldl (fun t l => tdel t l) w.tx }
      if c.x ≠ c.p.mask then
        .next (c.move (s.modWave c.wk fun w => w.setSlot c.slot (some { c.p with mask := c.p.mask &&& ~~~ c.x })))
      else
        let s := s.trace c.wk 7 (c.w.pathIx c.slot) c.p.pc c.x 0
        let s := s.modWave c.wk fun w =>
          let w := w.setSlot c.slot none
          if c.p.depth = 0 then w
          else (w.setSlot (1 - c.slot) ((w.slot (1 - c.slot)).map fun o => o.alone w.stack)).pop
        s.popCheck c.wk (c.p.depth != 0) c.w) s

/-- YIELD: a switch point in deterministic mode when a lane executes, else the yield hint (R120, R43, R44);
`State.afterIssue` moves the ownership. -/
def execYield (h : Ctl) (s : State) : Host.Outcome State Fault Refusal := issue (.yield h) (fun c => c.finish c.s) s

/-- The extra word of SPAN_RANGE (Table 28-11). -/
def spanWord (rs : List RegRange) : DWord :=
  BitVec.ofNat 64 ((rs.zipIdx.map fun x => (x.1.first + 256 * x.1.last) * 2 ^ (16 * x.2)).sum)

/-- The ranges break R113. -/
def spanBad (v : Nat) (rs : List RegRange) : Bool :=
  let used := rs.filter fun r => r ≠ ⟨0xFF, 0⟩
  let ns := regsOfRanges used
  rs.head? == some ⟨0xFF, 0⟩ || used.any (fun r => r.last < r.first) || 32 < ns.length || !decide ns.Nodup
    || ns.any fun n => v ≤ n

/-- SPAN takes the checkpoint and opens a span; a deferred pre-emption strikes at once, but not in a handler (R112-R114, R41,
R398). -/
def execSpan (h : Ctl) (r0 r1 r2 r3 : RegRange) (s : State) : Host.Outcome State Fault Refusal :=
  issue (.span h r0 r1 r2 r3) (fun c =>
    let rs := [r0, r1, r2, r3]
    if !c.any then c.finish c.s
    else if spanBad c.hdr.v rs then c.fault fSpanRange 0 0 (spanWord rs)
    else
      let s1 := c.finish c.s
      match s1.wave c.wk with
      | none => s1
      | some w =>
          let ws := rs.filter fun r => r ≠ ⟨0xFF, 0⟩
          let at_ (p : Path) : Path := { p with hold := none, blk := none }
          let k : Ckpt := { slot0 := w.slot0.map at_, slot1 := w.slot1.map at_, stack := w.stack, ws := ws, pairs := rs, regs := w.regs
                            storeSum := w.storeSum, rlx := w.rlx, gctx := w.gctx, opsBefore := s1.opSeq }
          match c.s.hwWriteAll c.wk c.slot c.p.pc c.p.mask k.image with
          | .parked s => s
          | .wait => c.s.block 1
          | .code cd va => c.fault cd c.p.mask va
          | .done s =>
              let s := (c.finish s).modWave c.wk fun w => { w with ws := ws, span := { isOpen := true, ckpt := some k }, barDone := none }
              if w.preempt.isSome && !w.trap.inHandler then s.takeOff c.wk else s) s

/-- REP repeats the next instruction (R115). An address that cannot be fetched is not checked: its own fetch
faults. Where both faults hold, REP_COUNT is taken; REP_TARGET is taken for n = 0 too; and the instruction after the last of a
pinned loop's body is the one that the path would go to (log entry 9). -/
def execRep (h : Ctl) (n : Src) (s : State) : Host.Outcome State Fault Refusal :=
  issue (.rep h n) (fun c =>
    if !c.any then c.finish c.s
    else
      let k := (c.rd n (lowest c.x)).val.toNat
      let nx := c.p.succ.1
      if 65535 < k then c.fault fRepCount 0 0 (BitVec.ofNat 64 k)
      else if (c.s.opcAt c.w nx).any (· < 0x40) || (match c.s.decodeAt c.w nx with
          | some (.instr j) => j.endsSpan || (match j with | .rlxend _ => true | _ => false)
          | _ => false) then c.fault fRepTarget 0 0 nx
      else if k = 0 then
        let q : Path := { c.p.at nx with loop := c.p.succ.2 }
        (c.count c.s).modWave c.wk fun w => w.setSlot c.slot (some ({ (q.at q.succ.1) with loop := q.succ.2 }.issued h.stall))
      else (c.finish c.s).modWave c.wk fun w => w.setSlot c.slot ((w.slot c.slot).map fun p => { p with rep := some k })) s

/-- The instruction addresses from one to another, by falling through. -/
def fallThrough : Nat → DWord → DWord → List DWord
  | 0, _, _ => []
  | n + 1, pc, last => if pc = last then [pc] else pc :: fallThrough n (nextPc pc) last

/-- The first form of a loop's body that R116 shuts out: of 0x000 to 0x03F, other than NOP, YIELD, REP, WAITC and SLEEP. A slot
whose line cannot be fetched is not checked: the spec does not say, and its own fetch faults when the body comes to it (DESIGN
CHOICE, log entry 9). -/
def Ctx.loopSlot (c : Ctx) (last : DWord) : Option DWord :=
  (fallThrough 48 (nextPc c.p.pc) last).find? fun pc =>
    (c.s.opcAt c.w pc).any fun k => k < 0x40 && k ∉ [0x000, 0x007, 0x009, 0x00E, 0x00F]

/-- LOOP pins its body (R116). The spec gives no order among the causes of LOOP_FORMAT: where several hold the lowest is taken,
and a body that n = 0 skips is checked all the same (DESIGN CHOICE, log entry 9). -/
def execLoop (h : Ctl) (n : LoopCnt) (last : Word) (s : State) : Host.Outcome State Fault Refusal :=
  issue (.loop h n last) (fun c =>
    let e := inRegion c.p.pc last
    let head := nextPc c.p.pc
    let after := nextPc e
    c.inBody c.p.mask (fun _ => e)
    (if !c.any then c.moveTo after (c.count c.s)
    else
      let k := match n with | .imm k => k | .reg r => ((c.rdS r).val.setWidth 32).toNat
      if !pcForm e ∨ e ≤ c.p.pc ∨ 8 < e.toNat / 64 + 1 - head.toNat / 64 then c.fault fLoopFormat 0 0 (causeWord 0 0)
      else match c.loopSlot e with
      | some pc => c.fault fLoopFormat 0 0 (causeWord 1 pc.toNat)
      | none =>
          if 65535 < k then c.fault fLoopFormat 0 0 (causeWord 2 0)
          else
            let body (p : Path) : Path :=
              if k = 0 then p.at after else { p.at head with loop := some ⟨k, head, e⟩ }
            if c.x = c.p.mask then
              (c.count c.s).modWave c.wk fun w => w.setSlot c.slot (some ((body c.p).issued h.stall))
            else c.diverge { body c.p with mask := c.x } { c.p.at after with mask := c.p.mask &&& ~~~ c.x } c.count)) s

/-- ELECT: the lowest executing lane (R117). -/
def execElect (h : Ctl) (d : DstP) (s : State) : Host.Outcome State Fault Refusal :=
  issue (.elect h d) (fun c =>
    let e := lowest c.x
    let r := match d with
      | .p k => c.toP k fun l => c.lane [] (if l = e then 1 else 0) l
      | .s n => c.toS n (c.uni [] (BitVec.ofNat 64 e))
      | .v n => c.toV n fun l => c.lane [] (BitVec.ofNat 64 e) l
    c.finish (c.put [r] c.s)) s

/-- The first poisoned of the predicates that a vote reads, in ascending lane order (R68). -/
def Ctx.votePois (c : Ctx) (a : PSrc) : Option Rd := ((lanes c.x).map fun l => c.rdPS a l).find? Rd.pois

/-- VOTE (R118). -/
def execVote (h : Ctl) (mode : VMode) (d : DstP) (a : PSrc) (s : State) : Host.Outcome State Fault Refusal :=
  issue (.vote h mode d a) (fun c =>
    let m := maskOf fun l => c.x.getLsbD l && (c.rdPS a l).val = 1
    let x : DWord := match mode with
      | .all => if m = c.x then 1 else 0
      | .any => if m = 0 then 0 else 1
      | .ballot => m.setWidth 64
    let ins := (c.votePois a).toList
    let r := match d with
      | .p k => c.toP k fun l => c.lane ins x l
      | .s n => c.toS n (c.uni ins x)
      | .v n => c.toV n fun l => c.lane ins x l
    c.finish (c.put [r] c.s)) s

/-- The lane that SHFL reads for a lane: its own where the wanted one is not executing (R119). -/
def Ctx.shflLane (c : Ctx) (mode : SMode) (b : Nat) (l : Nat) : Nat :=
  let j : Int := match mode with
    | .idx => ((b % 32 : Nat) : Int)
    | .up => (l : Int) - b
    | .down => (l : Int) + b
    | .xor => ((l ^^^ (b % 32) : Nat) : Int)
  if 0 ≤ j ∧ j ≤ 31 ∧ c.x.getLsbD j.toNat then j.toNat else l

/-- SHFL (R119). Where both the value of the source lane and B of the lane itself, or the guard, are poisoned, the origin is A's: R68
gives an order of operands and an order of lanes, and does not say which comes first (DESIGN CHOICE, log entry 9). -/
def execShfl (h : Ctl) (mode : SMode) (d : Nat) (a b : Src) (s : State) : Host.Outcome State Fault Refusal :=
  issue (.shfl h mode d a b) (fun c =>
    c.finish (c.put [c.toV d fun l =>
      let y := c.rd b l
      let x := c.rd a (c.shflLane mode y.val.toNat l)
      c.lane [x, y] x.val l] c.s)) s

/-- WAITC holds the path until its counters are zero, whatever its guard (R120). -/
def execWaitc (h : Ctl) (mask : Nat) (s : State) : Host.Outcome State Fault Refusal :=
  issue (.waitc h mask) (fun c =>
    if !c.w.waitOk mask then c.s.block (c.s.waitReason c.wk mask)
    else c.finish (c.s.modWave c.wk fun w => w.waited c.s.now mask fun k => c.s.free 64 (2 ^ 43 + 2 ^ 42 + k))) s

/-- SLEEP holds the path for n cycles (R120). -/
def execSleep (h : Ctl) (n : Src) (s : State) : Host.Outcome State Fault Refusal :=
  issue (.sleep h n) (fun c =>
    let s := c.finish c.s
    if !c.any then s
    else s.modWave c.wk fun w => w.setSlot c.slot ((w.slot c.slot).map fun p =>
      { p with wait := .sleep (c.rd n (lowest c.x)).val.toNat })) s

/-- The instruction cache blocks that an IPREF asks for: those of its lines that lie in the code region, can be fetched and are
not there. -/
def Ctx.iprefBlocks (c : Ctx) (target : Word) (lines : Nat) : List (Nat × Nat × Nat) :=
  let ps := polderOf c.w
  (List.range lines).filterMap fun j =>
    if 2 ^ 32 ≤ target.toNat + 64 * j then none
    else match c.s.codePa c.w (inRegion c.p.pc (target + BitVec.ofNat 32 (64 * j))) with
      | some (pa, key) => if (c.s.cachedLine c.w pa).isSome then none else some (ps, pa / 128, key)
      | none => none

/-- IPREF asks the polder's instruction cache for lines; it changes no state a program can read, and never faults (R121). -/
def execIpref (h : Ctl) (target : Word) (lines : Nat) (s : State) : Host.Outcome State Fault Refusal :=
  issue (.ipref h target lines) (fun c =>
    let s := c.finish c.s
    if !c.any then s else { s with ifetch := s.ifetch ++ (c.iprefBlocks target lines).eraseDups }) s

/-- The value of a feature identifier (R121, R441). -/
def featureValue (id : Nat) : Word :=
  match id with
  | 0 => 2
  | 1 => 2
  | 2 => 1
  | 3 => 1
  | 4 => 8
  | 5 => 128
  | 6 => 64
  | 7 => 512
  | 8 => 0x1FF
  | 9 => 6
  | _ => 0

/-- FEAT (R121). -/
def execFeat (h : Ctl) (d : Dst) (id : Src) (s : State) : Host.Outcome State Fault Refusal :=
  issue (.feat h d id) (fun c =>
    c.fixed [c.res d [id] fun v => featureValue (v.headD 0).toNat]) s

end Sys2Proof.Machine
end

