-- ==== Sys2Proof/Machine/Sluice.lean ====
section
/-! DEFINITION. The arithmetic of the Sluice unit: the affine maps of the steps, their composition and
application, the scan in its fixed order, and the comparisons of the convergence test and the stall condition
(20 R288, R289; 21 R299-R304). Values are FP32 encodings. -/

namespace Sys2Proof.Machine

/-- An affine map: the rows of J and the vector b. In diagonal mode every row has one element, the component's
own. -/
structure AMap where
  j : List (List Nat)
  b : List Nat
  deriving DecidableEq, Repr

/-- The exact sum of some exact products and an addend, rounded once. -/
def dot32 (ps : List (Nat × Nat)) (add : List Nat) : Nat :=
  fp32.sum ((ps.map fun (p : Nat × Nat) => (fp32.dec p.1).mul (fp32.dec p.2)) ++ add.map fp32.dec)

def neg32 (x : Nat) : Nat := if x < fp32.signBit then x + fp32.signBit else x - fp32.signBit
def fin32 (x : Nat) : Bool := (fp32.dec x).isFin

/-- Component `c` of J·x, with its addend: in diagonal mode J(c)·x(c). -/
def AMap.row (dense : Bool) (m : AMap) (x : List Nat) (c : Nat) (add : List Nat) : Nat :=
  let r := m.j.getD c []
  dot32 (if dense then r.zip x else [(r.getD 0 0, x.getD c 0)]) add

/-- apply (J, b) to x (R288, R299). -/
def AMap.apply (dense : Bool) (m : AMap) (x : List Nat) : List Nat :=
  (List.range m.b.length).map fun c => m.row dense x c [m.b.getD c 0]

/-- m2 ∘ m1, which applies m1 first (R288, R299). -/
def AMap.comp (dense : Bool) (m2 m1 : AMap) : AMap :=
  let n := m2.b.length
  { j := (List.range n).map fun c =>
      if dense then (List.range n).map fun i => m2.row true (m1.j.map fun r => r.getD i 0) c []
      else [dot32 [((m2.j.getD c []).getD 0 0, (m1.j.getD c []).getD 0 0)] []]
    b := m2.apply dense m1.b }

/-- M(t) of a settled step, and of an unsettled one: b(t) = y(t) − J(t)·g(t) (R288, R299). -/
def settledMap (dense : Bool) (y : List Nat) : AMap :=
  { j := y.map fun _ => List.replicate (if dense then y.length else 1) 0, b := y }
def stepMap (dense : Bool) (j : List (List Nat)) (y g : List Nat) : AMap :=
  { j := j, b := (List.range y.length).map fun c =>
      AMap.row dense { j := j, b := [] } (g.map neg32) c [y.getD c 0] }

def AMap.finite (m : AMap) : Bool := m.b.all fin32 && m.j.all fun r => r.all fin32

/-- One level of nodes from the one below: N(l + 1, j) = N(l, 2j + 1) ∘ N(l, 2j) (R300). -/
def pairUp (dense : Bool) : List AMap → List AMap
  | a :: b :: t => b.comp dense a :: pairUp dense t
  | _ => []

/-- The levels of nodes, from the steps' maps up; T is at most 2^16. -/
def nodeLevels (dense : Bool) : Nat → List AMap → List (List AMap)
  | 0, _ => []
  | n + 1, ms => if ms.isEmpty then [] else ms :: nodeLevels dense n (pairUp dense ms)

/-- The pieces of the prefix of `n` steps from level `l` down, `start` steps already covered. -/
def prefixPieces (lv : List (List AMap)) (n : Nat) : Nat → Nat → List AMap
  | 0, _ => []
  | l + 1, start =>
      if start + 2 ^ l ≤ n then
        ((lv.getD l [])[start / 2 ^ l]?).toList ++ prefixPieces lv n l (start + 2 ^ l)
      else prefixPieces lv n l start

/-- P(t): the pieces composed from left to right (R300). -/
def prefixOf (dense : Bool) (lv : List (List AMap)) (t : Nat) : AMap :=
  match prefixPieces lv (t + 1) 17 0 with
  | [] => ⟨[], []⟩
  | p :: ps => ps.foldl (fun a q => q.comp dense a) p

/-- The result of a scan: the new guesses of steps 1 to T, and whether every node, prefix and guess is finite. -/
structure ScanOut where
  guess : List (List Nat)
  finite : Bool
  deriving DecidableEq, Repr

/-- THE SLUICE SCAN over the maps of T steps, the first `settled` of them settled, whose new guess is y(t) bit for
bit (R300, R301, R304). -/
def sluice (dense : Bool) (ms : List AMap) (ys : List (List Nat)) (settled : Nat) (x0 : List Nat) : ScanOut :=
  let lv := nodeLevels dense 17 ms
  let ps := (List.range ms.length).map fun t => prefixOf dense lv t
  let gs := (ps.zipIdx).map fun (p : AMap × Nat) =>
    if p.2 < settled then ys.getD p.2 [] else p.1.apply dense x0
  { guess := gs
    finite := lv.all (fun r => r.all AMap.finite) && ps.all AMap.finite && gs.all fun g => g.all fin32 }

/-! ## The test, the residual and the stall condition -/

/-- |a − b| ≤ tolabs + tolrel × |a|, exactly; false where a NaN takes part (R303). -/
def within (tolabs tolrel a b : Nat) : Bool :=
  let x := fp32.dec a
  let y := fp32.dec b
  let p := (fp32.dec tolrel).mul x.abs
  let q := fp32.dec tolabs
  if x.isNan || y.isNan || p.isNan || q.isNan || (x.isInf && y.isInf) then false
  else if p.isInf && q.isInf && p.sign != q.sign then false
  else if x.isInf || y.isInf then (p.isInf && !p.sign) || (q.isInf && !q.sign)
  else if p.isInf || q.isInf then !(p.isInf && p.sign) && !(q.isInf && q.sign)
  else ((x.frac.sub y.frac).abs).le (p.frac.add q.frac)

/-- RNE32(|a − b|). -/
def change (a b : Nat) : Nat := fp32.sub a b % fp32.signBit

/-- The largest of some changes; none where one of them is a NaN, which R303 does not order. -/
def largest (xs : List Nat) : Option Nat :=
  if xs.any fun x => (fp32.dec x).isNan then none else some (xs.foldl max 0)

/-- 2 × a > b, exactly, of two magnitudes; false for a NaN. -/
def doubleExceeds (a b : Nat) : Bool :=
  let x := fp32.dec a
  let y := fp32.dec b
  if x.isNan || y.isNan || y.isInf then false
  else if x.isInf then true
  else y.frac.lt { x.frac with e := x.frac.e + 1 }

/-- The stall condition over the residuals of the passes, the latest last (R303). -/
def stalls (rs : List Nat) : Bool :=
  match rs.reverse with
  | a :: b :: c :: _ => doubleExceeds a b && doubleExceeds b c
  | _ => false

end Sys2Proof.Machine
end

