-- ==== Sys2Proof/Machine/Relax.lean ====
section
/-! DEFINITION. The life of a relaxation region: its gathering and its begin (21 R291-R296; 22 R322, R323), the
evaluations of a pass (R292, R297, R298, R310), the end of a pass (R299-R304), the commit and the guess area
(R290, R305, R306; R324), and the restart after a recoverable fault (R313). -/

namespace Sys2Proof.Machine

/-! ## Participants -/

def RlxCfg.regs (c : RlxCfg) : List Nat := regsOfRanges c.ranges

/-- The participant waves of the region that a wave's configuration names, rank by rank (R291). -/
def State.rlxParts (s : State) (w : Wave) : List Nat :=
  (s.rlxTeams w w.rlx.cluster).flatMap fun tk =>
    (List.range (((s.team tk).map Team.waves).getD 0)).map fun i => waveKey tk i

/-- A participant has retired or was killed (R293). -/
def State.rlxGone (s : State) (w : Wave) : Bool :=
  (s.rlxTeams w w.rlx.cluster).any fun tk => match s.team tk with
    | none => true
    | some t => t.exited != [] || t.killed != []

/-- The wait of a wave at its RLXBEG. -/
def State.begOp (s : State) (wk : Nat) : Option (Nat × Op) :=
  s.ops.find? fun o => o.2.wave == wk && (match o.2.instr with | .rlxbeg _ => true | _ => false)

/-- Every waiting participant takes a precise fault at its RLXBEG (R293, R323). -/
def State.rlxFaultAll (s : State) (ps : List Nat) (code : Nat) (mask : Mask) (extra : DWord) (org : Option Word) : State :=
  ps.foldl (fun s p => match s.begOp p with
    | some (id, o) => s.opFault id code mask 0 extra ((org.map fun x => originWord o.pc x).getD 0)
    | none => s) s

/-- T and the limit lie in range (R292, R320). -/
def stepsOk (t p : Nat) : Bool := 1 ≤ t && t ≤ min 65536 (4 * p)

/-- A register as RLXBEG or RLXEND reads it. -/
def State.readV (s : State) (w : Wave) (n l : Nat) : Word :=
  if w.undef s.now (.v n) l then s.free 32 (OneReg.key (.v n) l) else tget w.regs.v (32 * n + l) 0

/-- The origin of a poisoned part or of a poisoned x(0), in the order x(0), streams, T, limit, tolerances, area
(R315). A poisoned part holds the origin in its low 32 bits. -/
def State.rlxOrigin (s : State) (w : Wave) : Option Word :=
  let c := w.rlx
  let x := c.regs.findSome? fun n =>
    if !w.undef s.now (.v n) 0 && (tget w.regs.vP n 0).getLsbD 0 then some (tget w.regs.v (32 * n) 0) else none
  let parts : List (Bool × Word) := (c.streams.map fun t => (t.pois, t.base.setWidth 32))
    ++ [(c.tPois, c.t), (c.limitPois, c.limit), (c.tolabsPois, c.tolabs), (c.tolrelPois, c.tolrel),
        (c.areaPois, (c.area.getD 0).setWidth 32)]
  x <|> (parts.find? (·.1)).map (·.2)

/-- The cause of Table 22-5 that a configuration meets at RLXBEG, in the order of R323. -/
def RlxCfg.bad (c : RlxCfg) (p : Nat) : Option Nat :=
  let n := c.regs.length
  if !stepsOk c.t.toNat p || c.limit = 0 || 65536 < c.limit.toNat then some 0
  else if n = 0 || (c.dense && 8 < n) then some 4
  else if c.streams.any fun t => t.reg ∈ c.regs then some 5
  else if c.src ≠ 0 && c.area.isNone then some 3
  else none

/-! ## The reads of RLXBEG (R295, R296) -/

/-- What some reads of words come to. -/
inductive RlxRead where
  | ok (ws : List Word)
  | precise (code : Nat) (a : DWord)
  | page (code va : Nat)
  /-- a line is pinned by another team (R222), or an earlier access of the wave comes first (R182, R166) -/
  | wait
  deriving DecidableEq, Repr

/-- Words at generic addresses, read as loads of a wave (R295, R296, Table 11-2). -/
def State.rlxWords (s : State) (w : Wave) (as : List DWord) : RlxRead :=
  let places := as.map fun a => (a, s.aperture w 0 a 4 .load)
  let above := places.filterMap fun x => match x.2 with | .error e => some (x.1, e) | .ok _ => none
  let low (xs : List (DWord × Nat)) : Nat := xs.foldl (fun m x => min m x.2) 255
  match above.find? fun x => x.2 == low above with
  | some x => .precise x.2 x.1
  | none =>
      let segs := places.map fun x => (x.1, match x.2 with | .ok g => g | .error _ => [])
      let below := segs.filterMap fun x => match s.translateSegs w .load x.2 with
        | .error e => some (x.1, e)
        | .ok _ => none
      let hard := below.filter fun x => x.2 < fNotResident
      match hard.find? fun x => x.2 == low hard, below.head? with
      | some x, _ => .precise x.2 x.1
      | none, some x => if below.any fun y => y.2 == fRetry then .wait else .page x.2 (x.1.toNat % 2 ^ 57)
      | none, none =>
          let at_ := segs.map fun x => match s.translateSegs w .load x.2 with | .ok g => g | .error _ => []
          if (at_.any fun g => s.retried w.team g) || (segs.zip at_).any (fun x => s.hwHeld (waveKey w.team w.ix) x.1.2 x.2) then .wait
          else .ok (at_.map fun g => BitVec.ofNat 32 (leNat (s.readSegs (coreKey w.die w.core) g)))

/-- Addresses of the stream elements, stream by stream (R295). -/
def RlxCfg.elemAddrs (c : RlxCfg) : List DWord :=
  c.streams.flatMap fun t => (List.range c.t.toNat).map fun k => t.base + t.stride.signExtend 64 * BitVec.ofNat 64 k

/-- Address of word `k` of the guesses of an area, g(1) first (R296). -/
def guessAddr (area : DWord) (k : Nat) : DWord := area + BitVec.ofNat 64 (64 + 4 * k)

/-- The header of a guess area admits PREV (R296, Table 21-1). -/
def RlxCfg.prevOk (c : RlxCfg) (hd : List Word) : Bool :=
  let x := (hd.getD 1 0).toNat
  (hd.getD 0 0) == c.t && field x 7 0 == c.regs.length && (field x 8 8 == 1) == c.dense && field x 9 9 == 1

/-- What the guess source supplies: the guesses g(0) to g(T) as words, and SRC of rlx.status (R296, Table 22-1). -/
def State.rlxGuesses (s : State) (w : Wave) (x0 : List Word) : RlxRead × Nat :=
  let c := w.rlx
  let n := c.regs.length * c.t.toNat
  let a := c.area.getD 0
  let hold : RlxRead := .ok ((List.range (c.t.toNat + 1)).flatMap fun _ => x0)
  let area : RlxRead := match s.rlxWords w ((List.range n).map (guessAddr a)) with
    | .ok ws => .ok (x0 ++ ws)
    | r => r
  if c.src = 0 then (hold, 0)
  else if c.src = 2 then (area, 3)
  else match s.rlxWords w ((List.range 16).map fun k => a + BitVec.ofNat 64 (4 * k)) with
    | .ok hd => if c.prevOk hd then (area, 1) else (hold, 2)
    | r => (r, 2)

/-! ## Evaluations (R292, R297, R298, R310) -/

/-- What a form of a body writes. The mask of a V2P in a uniform register stands as the body found it: no form of a body writes a
uniform register (R311). -/
def Instr.setsIn (w : Wave) (i : Instr) : List OneReg :=
  match i with
  | .v2p _ _ (.s n) =>
      ((List.range 7).filter fun k => w.regs.sP.getLsbD n || (tget w.regs.s n 0).getLsbD k).map OneReg.p
  | i => i.writes.flatMap RegRef.ones

/-- The registers that the body writes, from an address up to RLXEND. -/
def State.bodySets (s : State) (w : Wave) : Nat → DWord → List OneReg
  | 0, _ => []
  | n + 1, pc =>
      match s.decodeAt w pc with
      | none => []
      | some (.instr (.rlxend _)) => []
      | some (.instr i) => Instr.setsIn w i ++ s.bodySets w n (nextPc pc)
      | some (.poison _ ds) => ds ++ s.bodySets w n (nextPc pc)

def State.modRegion (s : State) (rk : Nat) (f : Region → Region) : State := { s with regions := tmod s.regions rk f }
def State.modPart (s : State) (rk wk : Nat) (f : Participant → Participant) : State :=
  s.modRegion rk fun r => { r with parts := r.parts.map fun q => if q.wave = wk then f q else q }

/-- The lanes of a participant that evaluate a step in evaluation `e`. -/
def State.evalMask (s : State) (r : Region) (w : Wave) (q : Participant) (e : Nat) : Mask :=
  maskOf fun l => q.start.mask.getLsbD l && (s.stepAt r w e l).isSome

/-- A participant's path waits at RLXEND, on an operation of its own. -/
def State.waitEnd (s : State) (wk : Nat) (p : Path) (h : Ctl) (pc : DWord) : State :=
  let id := s.opSeq
  let o : Op := { wave := wk, slot := 0, pc := pc, instr := .rlxend h, ctr := 7, mask := p.mask, at_ := s.now, steps := [(0, 0)] }
  let s := { s with opSeq := id + 1, ops := tput s.ops id o }
  s.modWave wk fun w => { w with slot0 := some { p with pc := pc, wait := .op id }, slot1 := none }

/-- The waits of a wave at RLXEND end: the paths are replaced. -/
def State.dropEnds (s : State) (wk : Nat) : State :=
  ((s.opsOf wk).filter fun o => match o.2.instr with | .rlxend _ => true | _ => false).foldl (fun s o => s.delOp o.1) s

/-- The registers of a wave at the start of an evaluation (R297): state registers hold g(t), stream registers the
step's elements, and what the body writes else is undefined until it is written. -/
def State.evalRegs (s : State) (r : Region) (w : Wave) (q : Participant) (e : Nat) (m : Mask) : Wave :=
  let ns := r.cfg.regs
  let step (l : Nat) : Nat := (s.stepAt r w e l).getD 0
  let one (n : Nat) (f : Nat → Word) : RegWrite :=
    { reg := .v n, mask := m, vals := (lanes m).map fun l => (l, (f l).setWidth 64) }
  let st := ns.zipIdx.map fun x => one x.1 fun l => tget r.guess (r.c * step l + x.2) 0
  let inp := r.cfg.streams.zipIdx.map fun x => one x.1.reg fun l => tget r.elems (8 * step l + x.2) 0
  let keep := ns ++ r.cfg.streams.map Stream.reg
  let un := (q.sets.filter fun x => match x with | .v n => n ∉ keep | .p k => k ≠ 7 | .s _ => false).map OneReg.setKey
  { w with
    regs := (st ++ inp).foldl (fun g x => x.apply g) w.regs
    haz := w.haz.filter fun z => !(match z.reg with | .v n => decide (n ∈ keep) && z.lanes &&& m != 0 | _ => false)
    unset := un.foldl (fun t k => tput t k m) w.unset }

/-- The tangents at the start of an evaluation (R298). -/
def Region.seeds (r : Region) (m : Mask) : Tab Word :=
  (lanes m).foldl (fun t l => r.cfg.regs.zipIdx.foldl (fun t x =>
    tput t ((256 * l + x.1) * 8 + (if r.cfg.dense then x.2 else 0)) (BitVec.ofNat 32 one32)) t) []

/-- What is left of the stall count of an instruction that issued in a cycle (R56). -/
def State.stallLeft (s : State) (at_ : Nat) (h : Ctl) : Option Nat := some (at_ + max 1 h.stall - s.now)

/-- EVALUATION `e` OF A PARTICIPANT BEGINS: the wave is merged into one path at its depth at RLXBEG, in the lanes
that have a step, and its registers are set; with no step it waits at RLXEND (R297, R298, R310). `hold` is what is left of a
stall count; `pass` says that a pass begins (R316). -/
def State.beginEval (s : State) (rk wk e : Nat) (hold : Option Nat) (pass : Bool) : State :=
  match tfind s.regions rk, s.wave wk with
  | some r, some w =>
      match r.parts.find? fun q => q.wave = wk with
      | none => s
      | some q =>
          let m := s.evalMask r w q e
          let s := s.dropEnds wk
          let p : Path := { q.start.advance with wait := .none, hold := hold, blk := none, pass := pass }
          if m = 0 then
            ((s.modWave wk fun w => { w with stack := q.stack }).waitEnd wk p q.endCtl q.endPc).modPart rk wk
              fun q => { q with eval := e, arrived := 0, done := true }
          else
            let s := s.modWave wk fun w =>
              { s.evalRegs r w q e m with slot0 := some { p with mask := m }, slot1 := none, stack := q.stack }
            let s := s.modRegion rk fun r => { r with tans := tput r.tans wk (r.seeds m) }
            s.modPart rk wk fun q => { q with eval := e, arrived := 0, done := false }
  | _, _ => s

/-- Bytes that the body's evaluations have loaded or stored, of this pass and of the earlier ones. -/
def Region.touchedBytes (r : Region) : List Nat :=
  r.touched ++ (r.evals.flatMap fun e => e.2.loads.map (·.1) ++ e.2.held.flatMap fun x => bodyKeys x.segs).filter fun k => !r.touched.contains k

/-- A pass begins: no step has been evaluated (R287). What is left of the stall count of RLXBEG, or of the last RLXEND, holds the
path. -/
def State.beginPass (s : State) (rk : Nat) (hold : Participant → Option Nat) (pass : Bool) : State :=
  match tfind s.regions rk with
  | none => s
  | some r =>
      let s := s.modRegion rk fun r => { r with touched := r.touchedBytes, evals := [] }
      r.parts.foldl (fun s q => s.beginEval rk q.wave 0 (hold q) pass) s

/-- What is left of the stall count of the last RLXEND of a participant. -/
def State.endHold (s : State) (q : Participant) : Option Nat :=
  let at_ := (s.opsOf q.wave).foldl (fun m o => match o.2.instr with | .rlxend _ => max m o.2.at_ | _ => m) 0
  if at_ = 0 then none else s.stallLeft at_ q.endCtl

/-! ## The begin -/

/-- The participants' cores write their L1 back: every earlier write of a participant is before the region's reads
(R322). -/
def State.flushParts (s : State) (ps : List Nat) : State :=
  ps.foldl (fun s p => match s.wave p with | some w => s.flushL1 (coreKey w.die w.core) | none => s) s

/-- The scratchpads of the cluster of a wave. -/
def State.clusterScr (s : State) (w : Wave) : Tab Memory :=
  (s.teams.filter fun t => t.2.launch == w.launch && t.2.cluster == (s.teamOf w).cluster).map fun t => (t.1, t.2.scr)

/-- A table of words from a list. -/
def tabOf (ws : List Word) : Tab Word := ws.zipIdx.map fun x => (x.2, x.1)

/-- One participant as RLXBEG leaves it (R297, R310). -/
def State.mkPart (s : State) (p : Nat) : Option Participant :=
  match s.begOp p, s.wave p with
  | some (_, o), some w =>
      let path := (w.slot o.slot).getD { pc := o.pc, mask := w.live }
      let h := o.instr.ctl.getD ⟨false, 7, 0, false, 7, 0⟩
      let e := (s.rlxEndAt w (2 ^ 32) (nextPc o.pc)).getD (nextPc o.pc)
      let eh := match s.decodeAt w e with | some (.instr i) => i.ctl.getD h | _ => h
      some { wave := p, start := { path with wait := .none, blk := none }, begPc := o.pc, begCtl := h, stack := w.stack
             endPc := e, endCtl := eh, sets := s.bodySets w (2 ^ 32) (nextPc o.pc) }
  | _, _ => none

/-- The wave of rank 0 meets a fault in a read of the begin: a precise fault is taken by it, a page fault parks it, and
RLXBEG is tried anew when the entry is completed (R295, R323). -/
def State.rlxReadFault (s : State) (id : Nat) (o : Op) (r : RlxRead) : State :=
  match r with
  | .ok _ | .wait => s
  | .precise c a => s.opFault id c 1 a 0
  | .page c va => s.park o.wave id o.slot o.pc (BitVec.ofNat 64 va) 1 (if c = fWriteProtect then 1 else 0) 0

/-- The count of an issue outside the issue of a path: the counter rises, and falls in the next cycle (R325). -/
def Wave.countLate (w : Wave) (k now : Nat) : Wave :=
  { (w.ctrUp k) with due := if k < 6 then w.due ++ [(k, now + 1)] else w.due }

/-- A REGION BEGINS: the reads, the registers of Table 22-1, and pass 1 (R294-R298, R323). -/
def State.rlxBegin (s0 : State) (ps : List Nat) (w0 : Wave) (id0 : Nat) (o0 : Op) : State :=
  let s := s0.flushParts ps
  let c := w0.rlx
  let x0 := c.regs.map fun n => s.readV w0 n 0
  let ws := s.rlxWords w0 c.elemAddrs
  let (gs, src) := s.rlxGuesses w0 x0
  match ws, gs with
  | .ok ws, .ok gs =>
      let s := s.meet ps
      let rk := ps.headD 0
      let t := c.t.toNat
      let elems : Tab Word := (ws.zipIdx).foldl (fun m x => tput m (8 * (x.2 % t) + x.2 / t) x.1) []
      let r : Region :=
        { parts := ps.filterMap s.mkPart, cfg := c, tSteps := t, limit := c.limit.toNat, c := c.regs.length
          x0 := x0, guess := tabOf gs, elems := elems, mem := s.mem, scr := s.clusterScr w0, srcUsed := src
          born := s.opSeq }
      let stands (q : Participant) : Option Nat := (s.begOp q.wave).bind fun o => s.stallLeft o.2.at_ q.begCtl
      let s := { s with regions := tput s.regions rk r }
      let s := r.parts.foldl (fun s q => match s.begOp q.wave with
        | some (id, _) => (s.delOp id).modWave q.wave fun w =>
            { w.countLate q.begCtl.ctr s.now with
              region := some rk
              rlxRegs := { w.rlxRegs with srcUsed := src, passes := 0, settled := 0, resid := 0 } }
        | none => s) s
      s.beginPass rk stands true
  | .ok _, g => s.rlxReadFault id0 o0 g
  | w, _ => s.rlxReadFault id0 o0 w

/-- An access that a participant has issued has not performed: a write comes before the region's reads (R322), and a load before
its committed stores (R228). -/
def State.partOpen (s : State) (ps : List Nat) : Bool :=
  s.ops.any fun o => o.2.wave ∈ ps && (o.2.writesMem || ((o.2.isMem || o.2.isTdef) && o.2.todo != 0))

/-- THE WAIT AT RLXBEG of a wave, looked at anew (R293, R322, R323): RLX_MEMBER when a participant is gone; once every
participant waits, the checks in order, and the begin. -/
def State.rlxTry (s : State) (wk : Nat) : State :=
  match s.wave wk with
  | none => s
  | some w =>
      let ps := s.rlxParts w
      if s.rlxGone w then s.rlxFaultAll ps fRlxMember 0 0 none
      else if !(ps.all fun p => (s.begOp p).isSome) then s
      else if ps.any fun p => (s.wave p).any fun v => v.parked != [] || v.trap.pend.isSome || v.off then s
      else if ps.any fun p => (s.wave p).any fun v => v.rlx != w.rlx then s.rlxFaultAll ps fRlxState 0 (causeWord 1 0) none
      else match w.rlx.bad (s.rlxP w w.rlx.cluster) with
      | some k => s.rlxFaultAll ps fRlxState 0 (causeWord k 0) none
      | none =>
          match ps.head?.bind s.wave, ps.head?.bind s.begOp with
          | some w0, some (id0, o0) =>
              (match s.rlxOrigin w0 with
              | some x => s.rlxFaultAll ps fPoisonConsumed 1 0 (some x)
              | none => if s.partOpen ps then s else s.rlxBegin ps w0 id0 o0)
          | _, _ => s

/-! ## Arrival at RLXEND (R310, R324) -/

/-- The lanes of a path arrive at RLXEND: the results of their steps are noted; when every lane of the evaluation has
arrived, the next evaluation of the wave begins, or the wave is done. -/
def Ctx.arrive (c : Ctx) (rk : Nat) (r : Region) (s : State) : State :=
  let ls := lanes c.p.mask
  let evs := ls.foldl (fun t l => match c.stepOf l with
    | none => t
    | some k =>
        let e := tget t k {}
        tput t k { e with
          y := r.cfg.regs.map fun n => (c.rdV n l).val.setWidth 32
          j := r.cfg.regs.map fun n => (List.range r.comps).map fun i => BitVec.ofNat 32 (c.tanV r n l i)
          arrived := true }) r.evals
  let s := s.modRegion rk fun r => { r with evals := evs }
  let id := s.opSeq
  let o : Op := { wave := c.wk, slot := c.slot, pc := c.p.pc, instr := c.i, ctr := 7, mask := c.p.mask, at_ := s.now, steps := [(0, 0)] }
  let s := { s with opSeq := id + 1, ops := tput s.ops id o }
  let s := s.modWave c.wk fun w =>
    { (w.setSlot c.slot ((w.slot c.slot).map fun p => { p with wait := .op id, blk := none })) with issuedNow := true }
  let s := s.modPart rk c.wk fun q => { q with arrived := q.arrived ||| c.p.mask, endPc := c.p.pc, endCtl := c.h }
  match (tfind s.regions rk).bind fun r => r.parts.find? fun q => q.wave = c.wk with
  | none => s
  | some q =>
      let m := s.evalMask r c.w q q.eval
      if q.arrived &&& m ≠ m then s
      else if s.evalMask r c.w q (q.eval + 1) = 0 then s.modPart rk c.wk fun q => { q with done := true }
      else s.beginEval rk c.wk (q.eval + 1) (s.stallLeft s.now c.h) false

/-! ## The end of a pass (R288, R289, R302-R304, R309) -/

/-- g(t). -/
def Region.g (r : Region) (t : Nat) : List Nat := (List.range r.c).map fun k => (tget r.guess (r.c * t + k) 0).toNat
/-- y(t) and J(t). -/
def Region.y (r : Region) (t : Nat) : List Nat := (tget r.evals t {}).y.map BitVec.toNat
def Region.jac (r : Region) (t : Nat) : List (List Nat) := (tget r.evals t {}).j.map fun x => x.map BitVec.toNat

/-- Bytes that a held store writes. -/
def HeldStore.keys (x : HeldStore) : List Nat := bodyKeys x.segs

/-- The lowest step with an alias from step `t` on, `lower` the bytes stored by lower steps (R309). -/
def Region.aliasFrom (r : Region) : Nat → Nat → List Nat → Option Nat
  | 0, _, _ => none
  | n + 1, t, lower =>
      let e := tget r.evals t {}
      if e.loads.any fun (x : Nat × Nat) => decide (x.1 ∈ lower) || ((e.held.take x.2).flatMap HeldStore.keys).contains x.1
      then some t
      else r.aliasFrom n (t + 1) (lower ++ e.held.flatMap HeldStore.keys)

/-- What a pass comes to. -/
structure PassEnd where
  settled : Nat
  guess : List (List Nat)
  /-- none where R303 does not order the changes -/
  resid : Option Nat
  /-- CODE of Table 21-3, and rlx.settled at the region's end; none when the next pass follows -/
  ends : Option (Nat × Nat)
  deriving DecidableEq, Repr

/-- THE END OF PASS k: the scan, the residual, and the first row of Table 21-3 that holds (R299-R304). -/
def Region.passEnd (r : Region) : PassEnd :=
  let t := r.tSteps
  let k := r.pass
  let n := min k t
  let dn := r.cfg.dense
  let ys := (List.range t).map r.y
  let ms := (List.range t).map fun i => if i < n then settledMap dn (r.y i) else stepMap dn (r.jac i) (r.y i) (r.g i)
  let sc := sluice dn ms ys n (r.x0.map BitVec.toNat)
  let fin := sc.finite && ys.all (fun y => y.all fin32) && ((List.range t).filter fun i => n ≤ i).all fun i => (r.jac i).all fun x => x.all fin32
  let pairs := ((List.range t).filter fun i => n ≤ i).flatMap fun i => (sc.guess.getD i []).zip (r.g (i + 1))
  let res := largest (pairs.map fun (x : Nat × Nat) => change x.1 x.2)
  let near := pairs.all fun (x : Nat × Nat) => within r.cfg.tolabs.toNat r.cfg.tolrel.toNat x.1 x.2
  let rs := r.resids.map BitVec.toNat ++ res.toList
  let ends : Option (Nat × Nat) :=
    match r.aliasFrom t 0 [] with
    | some a => some (6, min n a)
    | none =>
        if n = t then some (1, t)
        else if !fin then some (5, n)
        else if near then some (2, k)
        else if 3 ≤ k ∧ stalls rs then some (4, k)
        else if k = r.limit then some (3, k)
        else none
  { settled := n, guess := sc.guess, resid := res, ends := ends }

/-! ## The region's end (R290, R305, R306, R324) -/

/-- The held stores that a status commits, in step order. -/
def Region.committed (r : Region) (code settled : Nat) : List HeldStore :=
  (List.range (if code = 1 ∨ code = 2 then r.tSteps else settled)).flatMap fun t => (tget r.evals t {}).held

/-- What the state registers receive (Table 21-3). -/
def Region.final (r : Region) (p : PassEnd) (code settled : Nat) : List Nat :=
  if code = 2 then p.guess.getD (r.tSteps - 1) []
  else if settled = 0 then r.x0.map BitVec.toNat
  else r.y (settled - 1)

/-- A committed store performs, and adds to the store sum as the ST that it is (R213, R229, R305): at the L2, with no copy left in
an L1, so that it is seen after RLXEND in every wave of the region (R228). -/
def State.commitStore (s : State) (x : HeldStore) : State :=
  match s.wave x.wave with
  | none => s
  | some w =>
      let s := (segLines x.segs).foldl (fun s l => s.evictEverywhere l) s
      let o : Op := { wave := x.wave, slot := 0, pc := 0, instr := .rlxend ⟨false, 7, 0, false, 7, 0⟩, ctr := 7, mask := 0, fence := w.lastFence }
      let s := (s.writeSegs (coreKey w.die w.core) x.wave 0 (x.segs.map Seg.atL2) x.bytes).wrote s.opSeq o x.segs x.segs
      s.modWave x.wave fun w =>
        if (s.hdr w).rrmode = 0 then w else { w with storeSum := w.storeSum + sumTerms x.addr x.bytes }

/-- The words of a guess area, the header last (Table 21-1). -/
def Region.areaWords (r : Region) (p : PassEnd) (code settled : Nat) : List Word :=
  p.guess.flatten.map (BitVec.ofNat 32) ++
    [ BitVec.ofNat 32 r.tSteps, BitVec.ofNat 32 (r.c + r.cfg.dense.toNat * 2 ^ 8 + 2 ^ 9 + code * 2 ^ 16),
      BitVec.ofNat 32 r.pass, BitVec.ofNat 32 settled ] ++ List.replicate 12 0

/-- Addresses of those words. -/
def areaAddrs (area : DWord) (guesses : Nat) : List DWord :=
  (List.range guesses).map (guessAddr area) ++ (List.range 16).map fun k => area + BitVec.ofNat 64 (4 * k)

/-- THE WRITE OF THE GUESS AREA by the wave of rank 0, which waits on it at the instruction after RLXEND: a page fault
parks the wave, a precise fault is taken at RLXEND with nothing written, a line that another team has pinned is waited for
(R222), else the words are written at module scope, the header last. A byte that the body loaded or stored is undefined (R306, R324). -/
def State.areaWrite (s : State) (id : Nat) : State :=
  match s.op id with
  | none => s
  | some o =>
      match s.wave o.wave with
      | none => s.delOp id
      | some w =>
          if id ∈ w.parked then s
          else
            let ws := tget o.data 0 []
            let as := areaAddrs (o.addr 0) (ws.length - 16)
            let places := as.map fun a => (a, match s.aperture w 0 a 4 .store with
              | .error e => (Except.error e : Except Nat (List Seg))
              | .ok g => s.translateSegs w .store g)
            let bad := places.filterMap fun x => match x.2 with | .error e => some (x.1, e) | .ok _ => none
            let hard := bad.filter fun x => x.2 < fNotResident
            if bad.any fun x => x.2 == fRetry then s else
            let low := hard.foldl (fun m x => min m x.2) 255
            match hard.find? fun x => x.2 == low, bad.head? with
            | some x, _ => ((s.releasePath o.wave id false).delOp id).takeFault o.wave
                { code := x.2, pc := o.pc, addr := x.1, mask := 1, slot := 0, late := true }
            | none, some x => s.park o.wave id 0 o.pc (BitVec.ofNat 64 (x.1.toNat % 2 ^ 57)) 1 (if x.2 = fWriteProtect then 1 else 0) 1
            | none, none =>
                if places.any fun x => match x.2 with | .ok g => s.retried w.team g | .error _ => false then s
                else
                let mark (g : List Seg) (k : Nat) (b : Byte) : Byte :=
                  if (bodyKeys g).getD k 0 ∈ o.unseen then s.free 8 (2 ^ 58 + (bodyKeys g).getD k 0) else b
                let s := (places.zip ws).foldl (fun s x => match x.1.2 with
                  | .ok g =>
                      let s := (segLines g).foldl (fun s l => s.evictEverywhere l) s
                      s.writeSegs (coreKey w.die w.core) o.wave id (g.map Seg.atL2)
                        ((leBytes 4 x.2.toNat).zipIdx.map fun b => mark g b.2 b.1)
                  | .error _ => s) s
                (s.releasePath o.wave id false).delOp id

/-- A participant goes on after RLXEND (R290, R305, R324). -/
def State.partEnd (s : State) (r : Region) (q : Participant) (xs : List Nat) : State :=
  let hold := s.endHold q
  let s := s.dropEnds q.wave
  let regs := (r.cfg.regs.zip xs).map fun (x : Nat × Nat) => laneConst (.v x.1) q.start.mask (BitVec.ofNat 64 x.2)
  s.modWave q.wave fun w =>
    { w.countLate q.endCtl.ctr s.now with
      region := none, unset := [], stack := q.stack
      regs := regs.foldl (fun g x => x.apply g) w.regs
      haz := regs.foldl (fun h x => h.filterMap fun z => z.under x) w.haz
      span := { w.span with isOpen := false }
      slot0 := some { ({ q.start with pc := q.endPc } : Path).advance with
        wait := .none, blk := none, hold := hold, pass := true }
      slot1 := none }

/-- THE REGION ENDS with a status: the committed stores perform, every participant receives its registers and goes
on, and the guess area is written (R290, R304-R306, R324). -/
def State.regionEnd (s : State) (rk : Nat) (r : Region) (p : PassEnd) (code settled : Nat) : State :=
  let s := ((r.committed code settled).foldl (fun s x => s.commitStore x) s).meet (r.parts.map Participant.wave)
  let xs := r.final p code settled
  let s := r.parts.foldl (fun s q =>
    (s.partEnd r q xs).modWave q.wave fun w => { w with rlxRegs := { w.rlxRegs with code := code, settled := settled } }) s
  let s := { s with regions := tdel s.regions rk }
  match r.cfg.area, r.parts.head? with
  | some a, some q =>
      let id := s.opSeq
      let o : Op := { wave := q.wave, slot := 0, pc := q.endPc, instr := .rlxend q.endCtl, ctr := 7, mask := 1, at_ := s.now
                      walked := false, addrs := [(0, a)], data := [(0, r.areaWords p code settled)], unseen := r.touchedBytes }
      let s := { s with opSeq := id + 1, ops := tput s.ops id o }
      (s.modWave q.wave fun w => w.setSlot 0 ((w.slot 0).map fun p => { p with wait := .op id })).areaWrite id
  | _, _ => s

/-! ## Restart after a recoverable fault (R313) -/

/-- THE REGION RESTARTS from pass 1 once no participant is parked and what its body has issued is complete: the guesses are set
again. -/
def State.regionRestart (s : State) (rk : Nat) (r : Region) : State :=
  let ps := r.parts.map Participant.wave
  let busy (o : Op) : Bool := o.wave ∈ ps && o.inBody && (match o.instr with | .rlxend _ => false | _ => true)
  if (ps.any fun p => (s.wave p).any fun w => w.parked != []) || s.ops.any (fun o => busy o.2) then s
  else
    let s := s.flushParts ps
    match ps.head?.bind s.wave with
    | none => s
    | some w0 =>
        match (s.rlxGuesses { w0 with rlx := r.cfg } r.x0).1 with
        | .wait => s
        | .precise c a => s.takeFault (ps.headD 0) { code := c, pc := (r.parts.head?.map Participant.begPc).getD 0, addr := a, mask := 1, slot := 0 }
        | .page c va => s.hwPark (ps.headD 0) 0 ((r.parts.head?.map Participant.begPc).getD 0) 1 va c false
        | .ok gs =>
            let s := ps.foldl (fun s p => s.modWave p fun w =>
              { w with rlxRegs := { w.rlxRegs with passes := 0 } }) s
            let s := s.modRegion rk fun r =>
              { r with restart := false, pass := 1, resids := [], guess := tabOf gs, mem := s.mem, scr := s.clusterScr w0 }
            s.beginPass rk s.endHold true

/-! ## The step between passes -/

/-- THE PASS ENDS when every participant is done (R299-R304, R310): the registers of Table 22-1 are set, and the region
ends, or the next pass begins. Committed stores wait for lines that another team has pinned. -/
def State.passStep (s : State) (rk : Nat) : State :=
  match tfind s.regions rk with
  | none => s
  | some r =>
      if r.restart then s.regionRestart rk r
      else if !(r.parts.all Participant.done) then s
      else if r.parts.any fun q => (s.wave q.wave).any fun w => w.parked != [] || w.trap.pend.isSome then s
      else
        let p := r.passEnd
        let res : Word := match p.resid with | some x => BitVec.ofNat 32 x | none => s.free 32 (2 ^ 59)
        let note (s : State) : State := r.parts.foldl (fun s q => s.modWave q.wave fun w =>
          { w with rlxRegs := { w.rlxRegs with passes := r.pass, settled := p.settled, resid := res } }) s
        match p.ends with
        | some (code, n) =>
            if (r.committed code n).any fun x => (s.wave x.wave).any fun w => s.retried w.team x.segs then s
            else (note s).regionEnd rk r p code n
        | none =>
            let s := (note s).modRegion rk fun r =>
              { r with pass := r.pass + 1, resids := r.resids ++ [res], guess := tabOf (r.x0 ++ p.guess.flatten.map (BitVec.ofNat 32)) }
            s.beginPass rk s.endHold true

end Sys2Proof.Machine
end

