-- ==== Sys2Proof/Machine/RelaxForms.lean ====
section
/-! DEFINITION. The relaxation forms, opcodes 0x2C0 to 0x2C7, and the end of a pass (spec 22 R317-R327; 21
R291-R316). -/

namespace Sys2Proof.Machine

/-- A configuration form acts once for the wave when a lane executes (R320). -/
def Ctx.config (c : Ctx) (f : RlxCfg → RlxCfg) : State :=
  if !c.any then c.finish c.s else c.finish (c.s.modWave c.wk fun w => { w with rlx := f w.rlx })

/-- Number of a guess source. -/
def gsrcNo (g : GSrc) : Nat := match g with | .hold => 0 | .prev => 1 | .supplied => 2

/-- RLXCFG sets mode, source, kind, T and limit, and clears the state declaration, the streams and the area (R320). -/
def rlxSet (dense : Bool) (src : GSrc) (cluster : Bool) (t limit : Rd) (c : RlxCfg) : RlxCfg :=
  { c with dense := dense, src := gsrcNo src, cluster := cluster
           t := t.val.setWidth 32, tPois := t.pois, limit := limit.val.setWidth 32, limitPois := limit.pois
           ranges := [], streams := [], area := none, areaPois := false }

/-- RLXCFG, immediate form (R320). -/
def execRlxcfg (h : Ctl) (dense : Bool) (src : GSrc) (cluster : Bool) (limit t : Nat) (s : State) :
    Host.Outcome State Fault Refusal :=
  issue (.rlxcfg h dense src cluster limit t) (fun c =>
    c.config (rlxSet dense src cluster { val := BitVec.ofNat 64 t } { val := BitVec.ofNat 64 limit })) s

/-- RLXCFG, register form (R320). -/
def execRlxcfgReg (h : Ctl) (dense : Bool) (src : GSrc) (cluster : Bool) (sl st : Nat) (s : State) :
    Host.Outcome State Fault Refusal :=
  issue (.rlxcfgReg h dense src cluster sl st) (fun c => c.config (rlxSet dense src cluster (c.rdS st) (c.rdS sl))) s

/-- RLXCFG.TOL (R320). -/
def execRlxcfgTol (h : Ctl) (sa sb : Nat) (s : State) : Host.Outcome State Fault Refusal :=
  issue (.rlxcfgTol h sa sb) (fun c => c.config fun r =>
    { r with tolabs := (c.rdS sa).val.setWidth 32, tolabsPois := (c.rdS sa).pois
             tolrel := (c.rdS sb).val.setWidth 32, tolrelPois := (c.rdS sb).pois }) s

/-- The ranges break R320. -/
def rlxRangesBad (v : Nat) (rs : List RegRange) : Bool :=
  let used := rs.filter fun r => r ≠ ⟨0xFF, 0⟩
  let ns := regsOfRanges used
  rs.head? == some ⟨0xFF, 0⟩ || used.any (fun r => r.last < r.first) || 64 < ns.length || !decide ns.Nodup || ns.any fun n => v ≤ n

/-- RLXST declares the state (R294, R320). -/
def execRlxst (h : Ctl) (r0 r1 r2 r3 : RegRange) (s : State) : Host.Outcome State Fault Refusal :=
  issue (.rlxst h r0 r1 r2 r3) (fun c =>
    let rs := [r0, r1, r2, r3]
    if c.any ∧ rlxRangesBad c.hdr.v rs then c.fault fRlxState 0 0 (causeWord 4 0)
    else c.config fun r => { r with ranges := rs.filter fun x => x ≠ ⟨0xFF, 0⟩ }) s

/-- RLXIN declares a stream, or replaces the stream of its register (R295, R320). A poisoned base keeps its origin. -/
def execRlxin (h : Ctl) (d a : Nat) (off stride : BitVec 16) (s : State) : Host.Outcome State Fault Refusal :=
  issue (.rlxin h d a off stride) (fun c =>
    let b := c.rdS a
    let t : Stream := ⟨d, if b.pois then b.org.setWidth 64 else c.sOff a off, stride, b.pois⟩
    let old : Bool := c.w.rlx.streams.any fun x => x.reg == d
    if c.any ∧ !old ∧ 8 ≤ c.w.rlx.streams.length then c.fault fRlxState 0 0 (causeWord 5 0)
    else c.config fun r =>
      { r with streams := if old then r.streams.map fun x => if x.reg = d then t else x else r.streams ++ [t] }) s

/-- RLXGS names the guess area, or none (R296, R320). -/
def execRlxgs (h : Ctl) (none_ : Bool) (a : Nat) (off : BitVec 16) (s : State) : Host.Outcome State Fault Refusal :=
  issue (.rlxgs h none_ a off) (fun c =>
    let b := c.rdS a
    let x : DWord := if b.pois then b.org.setWidth 64 else c.sOff a off
    if none_ then c.config fun r => { r with area := none, areaPois := false }
    else if c.any ∧ !b.pois ∧ x.toNat % 64 ≠ 0 then c.fault fMisaligned 0 x
    else c.config fun r => { r with area := some x, areaPois := b.pois }) s

/-- The lanes whose guard is poisoned, of a form that acts whatever its guard and consumes poison. -/
def Ctx.guardPois (c : Ctx) : Mask := maskOf fun l => c.p.mask.getLsbD l && (c.guard l).pois

/-- RLXBEG checks R293 for its wave and waits for every participant; when all wait, the region begins (R293,
R323). -/
def execRlxbeg (h : Ctl) (s : State) : Host.Outcome State Fault Refusal :=
  issue (.rlxbeg h) (fun c =>
    let bad := c.guardPois
    if c.p.mask ≠ c.w.live ∨ c.x ≠ c.w.live then c.fault fRlxState 0 0 (causeWord 2 0)
    else if bad ≠ 0 then c.fault fPoisonConsumed bad 0 0 (c.originOf (c.guard (lowest bad)).org)
    else
      let id := c.s.opSeq
      let o : Op := { c.op with ctr := 7, todo := 0, walked := false }
      let s := (c.s.addOp o).modWave c.wk fun w =>
        { (w.setSlot c.slot ((w.slot c.slot).map fun p => { p with wait := .op id, blk := none })) with issuedNow := true, fresh := false }
      s.rlxTry c.wk) s

/-- A variable-class instruction of the body is not complete: RLXEND waits (R315). -/
def Ctx.bodyLeft (c : Ctx) : Bool :=
  (c.s.opsOf c.wk).any fun o => o.2.inBody && (match o.2.instr with | .rlxend _ => false | _ => true)

/-- RLXEND: with no live region a fault; else the path's lanes arrive, once the body's variable-class instructions of
the wave have completed, and with no poisoned state register (R310, R315, R324). -/
def execRlxend (h : Ctl) (s : State) : Host.Outcome State Fault Refusal :=
  issue (.rlxend h) (fun c =>
    match c.w.region, c.s.regionOf c.w with
    | some rk, some r =>
        if c.bodyLeft then c.s.block 12
        else
          let w := c.w.waitedAll fun k => c.s.free 64 (2 ^ 43 + 2 ^ 42 + k)
          let c := { c with w := w, s := c.s.setWave c.wk w }
          let bad := maskOf fun l => c.p.mask.getLsbD l && (r.cfg.regs.any (fun n => (c.rdV n l).pois) || (c.guard l).pois)
          let org := (r.cfg.regs.map fun n => c.rdV n (lowest bad)) ++ [c.guard (lowest bad)]
          if bad ≠ 0 then c.fault fPoisonConsumed bad 0 0 (c.originOf ((org.find? Rd.pois).map Rd.org |>.getD 0))
          else c.arrive rk r c.s
    | _, _ => c.fault fRlxState 0 0 (causeWord 6 0)) s

/-- The value of a relaxation register (Table 22-1, R326). -/
def Wave.rlxValue (w : Wave) (sel : Nat) : Word :=
  let r := w.rlxRegs
  let c := w.rlx
  match sel with
  | 0 => BitVec.ofNat 32 (r.code + 16 * r.srcUsed)
  | 1 => BitVec.ofNat 32 r.settled
  | 2 => BitVec.ofNat 32 r.passes
  | 3 => r.resid
  | 4 => c.tolabs
  | 5 => c.tolrel
  | 6 => BitVec.ofNat 32 (c.streams.length * 2 ^ 17 + c.regs.length * 2 ^ 9 + c.area.isSome.toNat * 2 ^ 8 + c.cluster.toNat * 2 ^ 7
      + c.src * 2 ^ 5 + c.dense.toNat * 2 ^ 4)
  | 7 => c.t
  | 8 => c.limit
  | 9 => if r.code = 1 ∨ r.code = 2 then 1 else 0
  | _ => 0

/-- RLXQ (R326). -/
def execRlxq (h : Ctl) (sel : Nat) (d : DstP) (s : State) : Host.Outcome State Fault Refusal :=
  issue (.rlxq h sel d) (fun c =>
    let x : DWord := (c.w.rlxValue sel).setWidth 64
    let r := match d with
      | .v n => c.toV n fun l => c.lane [] x l
      | .s n => c.toS n (c.uni [] x)
      | .p k => c.toP k fun l => c.lane [] x l
    c.finish (c.put [r] c.s)) s

/-- The step that a lane seeds with RLXSEED j, when there is one (R321). -/
def Ctx.seedStep (c : Ctx) (j l : Nat) : Option Nat :=
  let k := stepsPer c.w.rlx.t.toNat (c.s.rlxP c.w c.w.rlx.cluster)
  let t := k * c.s.rlxQ c.w c.w.rlx.cluster l + j
  if t < c.w.rlx.t.toNat then some t else none

/-- The conditions of RLX_STATE cause 7 (R321). -/
def Ctx.seedBad (c : Ctx) (src j : Nat) : Bool :=
  let r := c.w.rlx
  let p := c.s.rlxP c.w r.cluster
  let n := r.regs.length
  r.area.isNone || c.hdr.v < src + n || stepsPer r.t.toNat p ≤ j || n == 0 || !stepsOk r.t.toNat p

/-- RLXSEED stores guesses for the steps of its executing lanes; a poisoned value is stored as the canonical NaN
(R321). -/
def execRlxseed (h : Ctl) (src j : Nat) (s : State) : Host.Outcome State Fault Refusal :=
  issue (.rlxseed h src j) (fun c =>
    let r := c.w.rlx
    let n := r.regs.length
    if !c.any then c.finish c.s
    else if c.seedBad src j then c.fault fRlxState 0 0 (causeWord 7 0)
    else
      let m := maskOf fun l => c.x.getLsbD l && (c.seedStep j l).isSome && !c.doomed.getLsbD l
      let word (k l : Nat) : Word := if (c.rdV (src + k) l).pois then BitVec.ofNat 32 fp32.nan else (c.rdV (src + k) l).val.setWidth 32
      let o : Op := { c.op with
        mask := m, todo := m, u := [(c.txMask).setWidth 64]
        addrs := (lanes m).map fun l => (l, guessAddr (r.area.getD 0) (n * (c.seedStep j l).getD 0))
        data := (lanes m).map fun l => (l, (List.range n).map fun k => word k l) }
      if m = 0 then c.finishNow c.s else c.access o []) s

/-- PASS_END: the end of a pass, the region's end, or its restart after a recoverable fault (R299-R304, R313). -/
def execPassEnd (region : Nat) (s : State) : Host.Outcome State Fault Refusal := .next (s.passStep region)

end Sys2Proof.Machine
end

