-- ==== Sys2Proof/Machine/Engine.lean ====
section
/-! DEFINITION. What the matrix unit and the asynchronous engines share: tensor identifiers (R238-R241), checks
at issue (R258), what a command reads and writes (R226, R237, R250, R255), completion records and event queues
(R251, R252, R257), and the numeric work of each command (R134-R138, R246, R269, R280). -/

namespace Sys2Proof.Machine

/-! ## Tensor identifiers -/

/-- Bytes of an element (Table 17-1). -/
def fmtBytes (f : Nat) : Nat := match f with | 0 | 4 | 5 => 4 | 1 | 2 => 2 | _ => 1

def Tensor.e (t : Tensor) : Nat := fmtBytes t.fmt
def Tensor.dim (t : Tensor) (k : Nat) : Nat := t.dims.getD k 1
/-- STRIDE1 to STRIDE4. -/
def Tensor.stride (t : Tensor) (k : Nat) : Nat := t.strides.getD (k - 1) 0

/-- A record of Table 17-1; none where it is malformed (R240). -/
def tensorOf (bs : List Byte) : Option Tensor :=
  let x := leNat bs
  let t : Tensor :=
    { fmt := field x 511 508, ndim := field x 507 505, sgran := field x 504 503, filt := field x 502 502 == 1
      dims := [field x 159 128, field x 191 160, field x 223 192, field x 255 224, field x 287 256]
      strides := [field x 335 288, field x 383 336, field x 431 384, field x 479 432]
      sbase := BitVec.ofNat 64 (field x 127 64), base := BitVec.ofNat 64 (field x 63 0) }
  let bad : Bool :=
    field x 501 480 != 0 || 8 ≤ t.fmt || t.ndim == 0 || 6 ≤ t.ndim || t.sgran == 3
      || (List.range 5).any (fun k => if k < t.ndim then t.dim k == 0 else t.dim k != 1)
      || [1, 2, 3, 4].any (fun k => t.ndim ≤ k && t.stride k != 0)
      || t.base.toNat % t.e != 0 || t.strides.any (fun st => st % t.e != 0)
      || (t.sgran != 0 && t.fmt != 3) || (t.sgran != 0 && t.sbase.toNat % 4 != 0)
      || (t.filt && (t.fmt != 0 || t.ndim != 2))
  if bad then none else some t

/-- Number of 2-D slices. -/
def Tensor.slices (t : Tensor) : Nat := t.dim 2 * t.dim 3 * t.dim 4
/-- Address of element 0 of row `i1` of slice `σ` (R239). -/
def Tensor.row (t : Tensor) (i1 σ : Nat) : DWord :=
  t.base + BitVec.ofNat 64 (i1 * t.stride 1 + σ % t.dim 2 * t.stride 2 + σ / t.dim 2 % t.dim 3 * t.stride 3
    + σ / (t.dim 2 * t.dim 3) * t.stride 4)
/-- Every row: i1 and the slice. -/
def Tensor.rows (t : Tensor) : List (Nat × Nat) :=
  (List.range t.slices).flatMap fun σ => (List.range (t.dim 1)).map fun i => (i, σ)
/-- Bytes of a row. -/
def Tensor.rowBytes (t : Tensor) : Nat := t.dim 0 * t.e

def ceil128 (n : Nat) : Nat := (n + 127) / 128
/-- Scales of a slice (R239). -/
def Tensor.per (t : Tensor) : Nat :=
  if t.sgran = 1 then t.dim 1 * ceil128 (t.dim 0) else ceil128 (t.dim 1) * ceil128 (t.dim 0)
/-- Scale index of an element (R239). -/
def Tensor.scaleIx (t : Tensor) (i0 i1 σ : Nat) : Nat :=
  σ * t.per + (if t.sgran = 1 then i1 else i1 / 128) * ceil128 (t.dim 0) + i0 / 128
def Tensor.scaleAt (t : Tensor) (x : Nat) : DWord := t.sbase + BitVec.ofNat 64 (4 * x)

/-- Key of an identifier of an address space. -/
def tensorKey (asid t : Nat) : Nat := 4096 * asid + t

/-- The entry of an identifier as a die holds it (R241). -/
def State.tensorAt (s : State) (die asid t : Nat) : Option Tensor := tfind s.tensors (2 ^ 24 * die + tensorKey asid t)

/-- Set the entry on some dies. -/
def State.setTensor (s : State) (dies : List Nat) (asid t : Nat) (x : Tensor) : State :=
  { s with tensors := dies.foldl (fun m d => tput m (2 ^ 24 * d + tensorKey asid t) x) s.tensors }

/-! ## Ranges and places -/

/-- Consecutive bytes at generic addresses. -/
abbrev Span := DWord × Nat

/-- The rows of a tensor, and its scales. -/
def Tensor.spans (t : Tensor) : List Span := t.rows.map fun r => (t.row r.1 r.2, t.rowBytes)
def Tensor.scales (t : Tensor) : Span := (t.sbase, 4 * (t.per * t.slices))

/-- The points of a range at which the row of Table 11-2 that a byte meets can change. -/
def checkPoints (r : Span) : List DWord :=
  if r.2 = 0 then []
  else r.1 :: ((List.range (r.2 / 16 + 1)).map fun k => 16 * k + (16 - r.1.toNat % 16)).filterMap fun o =>
    if o < r.2 then some (r.1 + BitVec.ofNat 64 o) else none

/-- Codes that the bytes of some ranges meet above translation. -/
def Ctx.engCodes (c : Ctx) (k : Acc2) (rs : List Span) : List (DWord × Nat) :=
  (rs.flatMap checkPoints).filterMap fun a => match c.s.aperture c.w (lowest c.x) a 1 k with
    | .error e => some (a, e)
    | .ok _ => none

/-- The code that stands highest, with its lowest address (R258). -/
def engWorst (cs : List (DWord × Nat)) : Option (Nat × DWord) :=
  match cs with
  | [] => none
  | x :: t =>
      let code := t.foldl (fun m y => min m y.2) x.2
      let as := (cs.filter fun y => y.2 == code).map fun y => y.1.toNat
      some (code, BitVec.ofNat 64 (as.foldl min (as.headD 0)))

/-- The pieces of a range: words of the thread view, else at most 64 bytes. -/
def pieces : Nat → DWord → Nat → List Span
  | 0, _, _ => []
  | f + 1, a, n =>
      if n = 0 then []
      else
        let step := if Config.localBase + 0x80000000 ≤ a.toNat ∧ a.toNat < Config.localBase + 2 ^ 32 then 4 else 64
        let m := min n (step - a.toNat % step)
        (a, m) :: pieces f (a + BitVec.ofNat 64 m) (n - m)

/-- Places of a range, before translation, for lane `l` of a wave. -/
def State.engSegs (s : State) (w : Wave) (l : Nat) (r : Span) : List Seg :=
  (pieces (r.2 + 1) r.1 r.2).flatMap fun p => match s.aperture w l p.1 1 .engineLoad with
    | .ok (g :: _) => [⟨g.place, p.2⟩]
    | _ => []

/-- The lane whose stack a command's thread view names. -/
def Op.lane0 (o : Op) : Nat := lowest o.mask

/-! ## Reading and writing (R226, R237, R250) -/

/-- The core of an operation's wave. -/
def Wave.ck (w : Wave) : Nat := coreKey w.die w.core

/-- What the last writer of a byte, tile row or slot is to a command: its value is defined. A write of its own wave lies before it,
one of another wave happens before an OPRFENCE of its wave, and of a command the wave, or what it heard, has seen the end
(R226, R237). -/
def State.sees (s : State) (id : Nat) (o : Op) (x : Option Writer) (g : Option Seg) : Bool :=
  match x with
  | none => true
  | some x =>
      if x.wave = o.wave then x.op < id && x.op ∉ o.unseen
      else if s.launchEnded x.wave then true
      else x.stamp ≤ o.stamp && (match tfind s.cmdLog x.op with
        | some c => c.known.any fun k => if k.1 = o.wave then k.2 ≤ o.stamp else heardOf o.opr k.1 k.2 g
        | none => heardOf o.opr x.wave x.stamp g)

/-- Bytes that a command reads and that are undefined to it: an access raced with them, or a command that has no order with this
one writes them (R226, R237, R281). -/
def State.segUndef (s : State) (id : Nat) (o : Op) (g : Seg) : Bool :=
  segsMeet o.raced [g] || segsMeet o.stale [g]
    || s.ops.any fun x => x.1 != id && x.2.isCmd && !x.2.finished && s.asidOf x.2.wave == s.asidOf o.wave && segsMeet x.2.dest [g]

/-- A scratchpad byte that a command reads holds an undefined value. -/
def State.scrUndef (s : State) (id : Nat) (o : Op) (t off : Nat) : Bool :=
  !(s.sees id o ((s.team t).bind fun x => tfind x.writers off) (some ⟨.scr t off, 1⟩)) || s.segUndef id o ⟨.scr t off, 1⟩

/-- Bytes of a place as a command reads them: a line that does not translate, or that has failed, supplies
zeros (R250, R255). -/
def State.engSeg (s : State) (id : Nat) (o : Op) (w : Wave) (g : Seg) : List Byte :=
  match g.place with
  | .scr t off => (List.range g.len).map fun k =>
      if s.scrUndef id o t (off + k) then s.free 8 (2 ^ 50 + t % 16 * 2 ^ 20 + off + k)
      else memGet ((s.team t).map Team.scr |>.getD []) (off + k)
  | .glob va => match s.translate w.die (s.hdr w).asid va .engineLoad with
    | .ok pa _ key _ =>
        if s.defects.contains (.line (pa / 128)) then List.replicate g.len 0
        else if s.segUndef id o g then ((s.l2Read key pa g.len).zipIdx).map fun x =>
          if s.segUndef id o ⟨g.place.shift x.2, 1⟩ then s.free 8 (2 ^ 69 + va + x.2) else x.1
        else s.l2Read key pa g.len
    | .code _ => List.replicate g.len 0
  | _ => List.replicate g.len 0

def State.engRead (s : State) (id : Nat) (o : Op) (w : Wave) (r : Span) : List Byte :=
  (s.engSegs w o.lane0 r).flatMap fun g => s.engSeg id o w g

def State.engNat (s : State) (id : Nat) (o : Op) (w : Wave) (a : DWord) (n : Nat) : Nat := leNat (s.engRead id o w (a, n))

/-- Write bytes at a place; a line that does not translate is not written. Bytes that an access has raced with are undefined
(R226). -/
def State.engPut (s : State) (id : Nat) (o : Op) (w : Wave) (g : Seg) (bs : List Byte) : State :=
  let bs := if segsMeet o.raced [g] then (bs.zipIdx).map fun x =>
      if segsMeet o.raced [⟨g.place.shift x.2, 1⟩] then s.free 8 (2 ^ 71 + 2 ^ 16 * x.2 + id) else x.1
    else bs
  match g.place with
  | .scr _ _ => s.writeSeg w.ck o.wave id g.place 0 bs
  | .glob va => match s.translate w.die (s.hdr w).asid va .engineStore with
    | .ok pa _ key _ => s.l2Write key pa bs
    | .code _ => s
  | _ => s

/-- Write bytes over places in order. -/
def State.engPuts (s : State) (id : Nat) (o : Op) (w : Wave) : List Seg → List Byte → State
  | [], _ => s
  | g :: gs, bs => (s.engPut id o w g (bs.take g.len)).engPuts id o w gs (bs.drop g.len)

def State.engWrite (s : State) (id : Nat) (o : Op) (w : Wave) (a : DWord) (bs : List Byte) : State :=
  s.engPuts id o w (s.engSegs w o.lane0 (a, bs.length)) bs

/-- Distinct 128-byte lines of some places that do not translate. -/
def State.failLines (s : State) (w : Wave) (k : Acc2) (gs : List Seg) : List Nat :=
  (gs.filterMap fun g => match g.place with
    | .glob va => (match s.translate w.die (s.hdr w).asid va k with | .code _ => some (va / 128) | .ok .. => none)
    | _ => none).foldl (fun t x => if x ∈ t then t else t ++ [x]) []

/-- The translation of some place waits for a pinned line (R222). -/
def State.engHeld (s : State) (w : Wave) (k : Acc2) (gs : List Seg) : Bool :=
  gs.any fun g => match g.place with
    | .glob va => (match s.translate w.die (s.hdr w).asid va k with | .code c => c == fRetry | .ok .. => false)
    | _ => false

/-- Physical lines of some places that translate. -/
def State.goodLines (s : State) (w : Wave) (k : Acc2) (gs : List Seg) : List Nat :=
  gs.filterMap fun g => match g.place with
    | .glob va => (match s.translate w.die (s.hdr w).asid va k with | .ok pa _ _ _ => some (pa / 128) | .code _ => none)
    | _ => none

/-! ## Accumulator rows and weight slots -/

/-- A cell of a tile: a granted tile starts with undefined values (R235). -/
def Acc.cell (a : Acc) (r j : Nat) : Word :=
  match tfind a.cells (128 * r + j), a.seed with
  | some x, _ => x
  | none, some n => Config.freeValue 32 (2 ^ 200 + n * 2 ^ 14 + 128 * r + j)
  | none, none => 0

/-- Rows of the executing lanes (R236). -/
def rowsOf (m : Mask) : List Nat := (lanes m).flatMap fun l => [4 * l, 4 * l + 1, 4 * l + 2, 4 * l + 3]

/-- A row as a command reads it; commands of its own wave on the tile are in order (R243), those of another wave only under
R237: while one that writes the row is pending, the row is undefined. -/
def State.accRow (s : State) (id : Nat) (o : Op) (ck n r : Nat) : List Word :=
  let a := s.acc ck n
  let writes (x : Op) : Bool := x.namesAcc n && (match x.instr with | .mst .. => false | _ => true) && r ∈ rowsOf x.mask
  let ok : Bool := (match tfind a.writers r with
    | none => true
    | some x => x.wave == o.wave || s.sees id o (some x) none)
    && !s.ops.any fun x => x.2.wave != o.wave && x.2.wave / 32 == o.wave / 32 && x.2.isCmd && !x.2.finished && writes x.2
  (List.range 128).map fun j => if ok then a.cell r j else s.free 32 (2 ^ 52 + n * 2 ^ 14 + 128 * r + j)

/-- Write a row. -/
def State.accPut (s : State) (id : Nat) (o : Op) (ck n r : Nat) (ws : List Word) : State :=
  let s := { s with stamp := s.stamp + 1 }
  s.modAcc ck n fun a =>
    { a with cells := (ws.zipIdx).foldl (fun t x => tput t (128 * r + x.2) x.1) a.cells
             writers := tput a.writers r { wave := o.wave, op := id, stamp := s.stamp } }

def State.wslot (s : State) (ck n : Nat) : WSlot := tget (s.core ck).wslots n {}
def State.modSlot (s : State) (ck n : Nat) (f : WSlot → WSlot) : State :=
  s.modCore ck fun c => { c with wslots := tput c.wslots n (f (tget c.wslots n {})) }

/-- Bytes of a slot as a command reads them. -/
def State.slotRead (s : State) (id : Nat) (o : Op) (ck n off len : Nat) : List Byte :=
  let x := s.wslot ck n
  if !x.lost && s.sees id o x.writer none then memRead x.bytes off len
  else (List.range len).map fun k => s.free 8 (2 ^ 54 + n * 2 ^ 16 + off + k)

/-! ## Completion (R251, R252, R257) -/

/-- Errors that a command met: its lines that failed, bad lines, storage errors (unit, place) and remap rows. -/
structure CmdEnd where
  s : State
  xl : Nat := 0
  un : List Nat := []
  st : List (Nat × Nat) := []
  remap : Nat := 0

/-- STATUS and COUNT: where several hold, the lowest status (log entry 30). -/
def CmdEnd.status (e : CmdEnd) : Nat × Nat :=
  if e.xl ≠ 0 then (1, e.xl)
  else if e.un ≠ [] then (2, e.un.length)
  else if e.remap ≠ 0 then (3, e.remap)
  else if e.st ≠ [] then (4, e.st.length)
  else (0, 0)

/-- The event qualifier of a command. -/
def evOf (i : Instr) : Option Nat :=
  match i with
  | .mma _ ev _ _ _ | .mmah _ ev _ _ _ _ | .mmai _ ev _ _ _ | .mzero _ ev _ | .mld _ ev _ _ _ | .mst _ ev _ _ _
  | .wbld _ ev _ _ _ _ | .cpy _ ev _ _ | .cpyr _ ev _ _ _ | .qnt _ ev _ _ | .weirget _ ev _ _ _ => ev
  | _ => none

/-- The completion record (Table 17-5). -/
def Op.recordOf (o : Op) (status count : Nat) : HWord :=
  BitVec.ofNat 128 ((o.u.getD 1 0).toNat * 2 ^ 64 + status * 2 ^ 56 + o.wave % 32 * 2 ^ 51 + min o.ctr 7 * 2 ^ 48
    + o.instr.opc * 2 ^ 32 + count % 2 ^ 32)

/-- Pending records enter the team's queue in the order of completion, while it has room; each command's counter
then falls. -/
def State.postRecords (s : State) (tk : Nat) : Nat → State
  | 0 => s
  | n + 1 =>
      let due := s.ops.filter fun x => x.2.isCmd && x.2.finished && x.2.wave / 32 == tk
      match due.foldl (fun (b : Option (Nat × Op)) x => match b with
          | none => some x
          | some y => if x.2.seqDone < y.2.seqDone then some x else some y) none, s.team tk with
      | some (id, o), some t =>
          if 64 ≤ t.events.length then s
          else ((s.modTeam tk fun t => { t with events := t.events ++ [o.record.getD 0], evOps := t.evOps ++ [id] }).opDone id
            false).postRecords tk n
      | some (id, _), none => (s.opDone id false).postRecords tk n
      | none, _ => s

/-- A storage error of a team (R255, R410). -/
def State.storageErr (s : State) (o : Op) (code : Nat) (place : DWord) : State :=
  let tk := o.wave / 32
  match s.team tk with
  | none => s
  | some t =>
      let s := s.modTeam tk fun t =>
        if t.storageErrs = 0 then { t with storageErrs := 1, storageCode := code, storagePlace := place, storagePc := o.pc }
        else { t with storageErrs := t.storageErrs + 1 }
      (s.modLaunch t.launch fun l => { l with storage := true }).event (.storage t.die tk)

/-- A command has done its writes: its errors are reported and its record is posted, or pending, before its
counter falls. -/
def State.cmdEnd (id : Nat) (o : Op) (ck : Nat) (e : CmdEnd) : State :=
  let s := e.un.foldl (fun s l => s.storageErr o fUncorr (BitVec.ofNat 64 (128 * l))) e.s
  let s := e.st.foldl (fun s x => s.storageErr o fStorage (BitVec.ofNat 64 (x.1 + x.2 * 2 ^ 8))) s
  let (st, n) := e.status
  let s := if st = 0 ∧ (evOf o.instr).isNone then s.opDone id false
    else
      let s := { s with stamp := s.stamp + 1 }
      (s.modOp id fun o => { o with finished := true, record := some (o.recordOf st n), seqDone := s.stamp }).postRecords (o.wave / 32) 65
  s.accSettle ck

/-! ## The issue of a command -/

/-- THE ISSUE OF A COMMAND (R257): it captures, and is pending; what the wave has not seen complete is noted, and
the command is itself unseen until a wait sees its counter fall (R237). -/
def Ctx.command (c : Ctx) (o : Op) (src dest : List Span) (s : State) : State :=
  let id := s.opSeq
  let segs (rs : List Span) : List Seg := rs.flatMap fun r => c.s.engSegs c.w (lowest c.x) r
  let lost (gs : List Seg) : List Seg := c.s.poolLost c.hdr.asid c.wk c.w.seen c.w.lastFence gs
  let o := { o with
    todo := 0, segs := [(0, segs dest), (1, segs src)], stale := c.s.openDests c.wk ++ lost (segs src), raced := lost (segs dest) }
  let s := (c.finish (c.pend id [] (s.addOp o))).modWave c.wk fun w =>
    { w with haz := w.haz ++ [{ reg := .p 7, lanes := 0, op := some id, ctrs := ctrList c.h.ctr, opc := c.i.opc, pc := c.p.pc }] }
  let live (x : Nat × CmdMem) : Bool := s.teams.any fun t => t.2.launch == waveLaunch x.2.wave && !t.2.freed
  ({ s with cmdLog := s.cmdLog.filter live ++ [(id, { wave := c.wk, dest := segs dest, src := segs src })] } : State).poolTouch
    c.hdr.asid (segs dest ++ segs src)

/-- The operation of a command: u holds no lanes in a transaction, the tag, and what the form adds. -/
def Ctx.cmdOp (c : Ctx) (ts : List Tensor) (u : List DWord) : Op :=
  { c.op with u := [0, (match evOf c.i with | some n => (c.rdS n).val | none => 0)] ++ u, tens := ts }

/-- The issue of a form that names identifiers: each must be defined (R241, R258). -/
def Ctx.named (c : Ctx) (ts : List Nat) (body : List Tensor → State) : State :=
  if !c.any then c.finish c.s
  else
    let at_ (t : Nat) : Option Tensor := c.s.tensorAt c.w.die c.hdr.asid t
    match ts.find? fun t => (at_ t).isNone with
    | some t => c.fault fTensorUndef 0 0 (BitVec.ofNat 64 t)
    | none => body (ts.filterMap at_)

/-- The checks of R258 step 4, then the body. -/
def Ctx.checked (c : Ctx) (extra : List (DWord × Nat)) (src dest : List Span) (body : State) : State :=
  match engWorst (extra ++ c.engCodes .engineLoad src ++ c.engCodes .engineStore dest) with
  | some (code, a) => c.fault code 0 a
  | none => body

/-- Offset of an address in the team's own scratchpad, whichever window names it. -/
def Ctx.ownOff (c : Ctx) (a : DWord) : Option Nat :=
  if !canonical a || isGlobal a then none
  else
    let x := a.toNat - Config.localBase
    let y := 0x1000000 + c.team.lti * 0x100000
    if x < 0x80000 then some x
    else if y ≤ x ∧ x < y + 0x80000 then some (x - y)
    else none

/-- Bytes of the team's scratchpad allocation. -/
def Ctx.scrSize (c : Ctx) : Nat := 4096 * c.stage.gran

/-- The team holds the tile (R268, R270). -/
def Ctx.holds (c : Ctx) (n : Nat) : Bool :=
  let a := c.s.acc c.ck n
  a.holder == some c.w.team && !a.freeing

/-- The issue of a form that needs the tile (ACC_STATE before its other conditions). -/
def Ctx.withAcc (c : Ctx) (n : Nat) (body : State) : State :=
  if !c.any then c.finish c.s
  else if c.holds n then body else c.fault fAccState 0 0 (BitVec.ofNat 64 n)

end Sys2Proof.Machine
end

