-- ==== Sys2Proof/Machine/EngineWork.lean ====
section
/-! DEFINITION. What each command does when it completes, and the step that completes it (R226, R243, R246-R255,
R257, R269-R274, R279-R281; 08 R136-R138). -/

namespace Sys2Proof.Machine

/-! ## Errors of a command -/

/-- Lines of the source that have failed (R255), with the physical lines. -/
def State.badLines (s : State) (w : Wave) (gs : List Seg) : List Nat :=
  ((s.goodLines w .engineLoad gs).filter fun l => s.defects.contains (.line l)).foldl
    (fun t l => if l ∈ t then t else t ++ [l]) []

/-- The bad words met are gone once they are reported. -/
def State.clearDefects (s : State) (p : Defect → Bool) : State := { s with defects := s.defects.filter fun d => !p d }

/-- A bad scratchpad word in a range (R255). -/
def State.scrBad (s : State) (w : Wave) (l : Nat) (r : Span) : Bool :=
  s.defects.any fun d => match d with
    | .scr t off => segsMeet (s.engSegs w l r) [⟨.scr t (off / 4 * 4), 4⟩]
    | _ => false

/-- Granules of the bad scratchpad words in some ranges, one for each word. -/
def State.scrUnits (s : State) (w : Wave) (l : Nat) (rs : List Span) : List (Nat × Nat) :=
  s.defects.filterMap fun d => match d with
    | .scr t off => if rs.any fun r => segsMeet (s.engSegs w l r) [⟨.scr t (off / 4 * 4), 4⟩] then some (3, off / 4096) else none
    | _ => none

/-! ## Matrix products (R136, R137, R246, R269) -/

/-- The elements of a sparse slot, expanded: element (k, j) of 256 rows (R246). -/
def sparseAt (kept meta_ : List Byte) (k j : Nat) : Nat :=
  let g := k / 4
  let i := 128 * g + j
  let nib := (meta_.getD (i / 2) 0).toNat / (if i % 2 = 0 then 1 else 16) % 16
  let a := nib % 4
  let b := nib / 4
  if b ≤ a then 0
  else if k % 4 = a then (kept.getD (256 * g + j) 0).toNat
  else if k % 4 = b then (kept.getD (256 * g + 128 + j) 0).toNat
  else 0

/-- The promotion of one block: p, q and the fused step (R136). -/
def promote (acc : Nat) (a b : List Nat) (sa sb : Nat) : Nat :=
  let p := fp32.sum ((a.zip b).map fun (x : Nat × Nat) => (e4m3.dec x.1).mul (e4m3.dec x.2))
  fp32.fma p (fp32.mul sa sb) acc

/-- An element of an MMA: its blocks in ascending order (R137). -/
def mmaElem (acc : Nat) (a b : List Nat) (sa sb : List Nat) : Nat :=
  (List.range (sa.length)).foldl (fun x β =>
    promote x ((a.drop (128 * β)).take 128) ((b.drop (128 * β)).take 128) (sa.getD β 0) (sb.getD β 0)) acc

/-- An element of an MMAH: two roundings. -/
def mmahElem (f : Fmt) (acc : Nat) (a b : List Nat) : Nat :=
  fp32.add acc (fp32.sum ((a.zip b).map fun x => (f.dec x.1).mul (f.dec x.2)))

/-- An element of an MMAI. -/
def mmaiElem (acc : Nat) (a b : List Nat) : Nat :=
  let sg (x : Nat) : Int := (BitVec.ofNat 8 x).toInt
  (((acc : Int) + ((a.zip b).map fun (x : Nat × Nat) => sg x.1 * sg x.2).sum) % 2 ^ 32).toNat

/-- Little-endian elements of `e` bytes. -/
def elemsOf (e : Nat) (bs : List Byte) : List Nat := (List.range (bs.length / e)).map fun k => leNat ((bs.drop (e * k)).take e)

/-- The columns of a slot's tile as the form reads it: K elements each, and the scales. -/
def State.slotCols (s : State) (id : Nat) (o : Op) (ck slot : Nat) : List (List Nat) × List Nat :=
  let cols (k : Nat) (at_ : Nat → Nat → Nat) : List (List Nat) :=
    (List.range 128).map fun j => (List.range k).map fun i => at_ i j
  match o.instr with
  | .mmah .. =>
      let m := elemsOf 2 (s.slotRead id o ck slot 0 0x4000) ++ elemsOf 2 (s.slotRead id o ck (slot + 1) 0 0x4000)
      (cols 128 fun i j => m.getD (128 * i + j) 0, [])
  | .mmai .. =>
      let m := elemsOf 1 (s.slotRead id o ck slot 0 0x4000)
      (cols 128 fun i j => m.getD (128 * i + j) 0, [])
  | _ =>
      let m := s.slotRead id o ck slot 0 0x4000
      let sc := elemsOf 4 (s.slotRead id o ck slot 0x5000 8)
      if o.u.getD 2 0 = 2 then
        let md := s.slotRead id o ck slot 0x4000 0x1000
        (cols 256 fun i j => sparseAt m md i j, sc)
      else (cols 128 fun i j => (m.getD (128 * i + j) 0).toNat, sc.take 1)

/-- A matrix product of the rows of R; a bad word writes NaN, or 0x80000000, to every row that it enters. -/
def State.runProduct (s : State) (id : Nat) (o : Op) (w : Wave) (acc slot : Nat) (t : Tensor) : CmdEnd :=
  let ck := w.ck
  let (cols, sb) := s.slotCols id o ck slot
  let isI : Bool := match o.instr with | .mmai .. => true | _ => false
  let slots := match o.instr with | .mmah .. => [slot, slot + 1] | _ => [slot]
  let slotBad := slots.filter fun n => s.defects.contains (.slot ck n)
  let aspan (r : Nat) : Span := (t.row r 0, t.rowBytes)
  let sspan (r : Nat) : Span := (t.scaleAt (r * ceil128 (t.dim 0)), 4 * sb.length)
  let bad (r : Nat) : Bool := !slotBad.isEmpty || s.defects.contains (.acc ck acc r) || s.scrBad w o.lane0 (aspan r)
    || (sb != [] && s.scrBad w o.lane0 (sspan r))
  let row (r : Nat) : List Word :=
    if bad r then List.replicate 128 (if isI then 0x80000000 else BitVec.ofNat 32 fp32.nan)
    else
      let a := elemsOf t.e (s.engRead id o w (aspan r))
      let sa := if sb = [] then [] else elemsOf 4 (s.engRead id o w (sspan r))
      let old := s.accRow id o ck acc r
      (cols.zipIdx).map fun x =>
        let c0 := (old.getD x.2 0).toNat
        BitVec.ofNat 32 (match o.instr with
          | .mmah _ _ bf _ _ _ => mmahElem (if bf then bf16 else fp16) c0 a x.1
          | .mmai .. => mmaiElem c0 a x.1
          | _ => mmaElem c0 a x.1 sa sb)
  let rs := rowsOf o.mask
  let spans := rs.flatMap fun r => aspan r :: (if sb = [] then [] else [sspan r])
  let st := (slotBad.map fun n => (1, n)) ++ ((rs.filter fun r => s.defects.contains (.acc ck acc r)).map fun _ => (0, acc))
    ++ s.scrUnits w o.lane0 spans
  let out := rs.map fun r => (r, row r)
  let s := s.clearDefects fun d => match d with
    | .slot c n => c == ck && n ∈ slots
    | .acc c n r => c == ck && n == acc && r ∈ rs
    | .scr t off => spans.any fun sp => segsMeet (s.engSegs w o.lane0 sp) [⟨.scr t (off / 4 * 4), 4⟩]
    | _ => false
  { s := out.foldl (fun s x => s.accPut id o ck acc x.1 x.2) s, st := st }

/-! ## Accumulator rows and weight slots (R267, R270) -/

def State.runMzero (s : State) (id : Nat) (o : Op) (w : Wave) (acc : Nat) : CmdEnd :=
  { s := (rowsOf o.mask).foldl (fun s r => s.accPut id o w.ck acc r (List.replicate 128 0)) s }

def State.runMld (s : State) (id : Nat) (o : Op) (w : Wave) (acc : Nat) : CmdEnd :=
  let sp (r : Nat) : Span := (o.u.getD 2 0 + BitVec.ofNat 64 (512 * r), 512)
  let rs := rowsOf o.mask
  let row (r : Nat) : List Word := if s.scrBad w o.lane0 (sp r) then List.replicate 128 (BitVec.ofNat 32 fp32.nan)
    else wordsOf 128 (s.engRead id o w (sp r))
  let out := rs.map fun r => (r, row r)
  let st := s.scrUnits w o.lane0 (rs.map sp)
  let s := s.clearDefects fun d => match d with
    | .scr t off => rs.any fun r => segsMeet (s.engSegs w o.lane0 (sp r)) [⟨.scr t (off / 4 * 4), 4⟩]
    | _ => false
  { s := out.foldl (fun s x => s.accPut id o w.ck acc x.1 x.2) s, st := st }

def State.runMst (s : State) (id : Nat) (o : Op) (w : Wave) (acc : Nat) : CmdEnd :=
  let rs := rowsOf o.mask
  let bad (r : Nat) : Bool := s.defects.contains (.acc w.ck acc r)
  let row (r : Nat) : List Byte :=
    bytesOf (if bad r then List.replicate 128 (BitVec.ofNat 32 fp32.nan) else s.accRow id o w.ck acc r)
  let out := rs.map fun r => (o.u.getD 2 0 + BitVec.ofNat 64 (512 * r), row r)
  let st := (rs.filter bad).map fun _ => (0, acc)
  let s := s.clearDefects fun d => match d with
    | .acc c n r => c == w.ck && n == acc && r ∈ rs
    | _ => false
  { s := out.foldl (fun s x => s.engWrite id o w x.1 x.2) s, st := st }

/-- Bytes of a weight image. -/
def imageBytes (l : WLayout) : Nat := match l with | .e4m3 => 0x4004 | .sp => 0x5008 | .h16 => 0x8000 | .i8 => 0x4000
/-- Layout tags. -/
def layoutTag (l : WLayout) : Nat := match l with | .e4m3 => 1 | .sp => 2 | .h16 => 3 | .i8 => 4

/-- Load a slot: two resident teams that load one slot leave its contents undefined (R245). -/
def State.slotPut (s : State) (id : Nat) (o : Op) (ck n : Nat) (m : Memory) : State :=
  let tk := o.wave / 32
  let s := { s with stamp := s.stamp + 1 }
  let others := (s.wslot ck n).teams.filter fun t => t != tk && (s.team t).any fun t => t.base.isSome
  s.modSlot ck n fun x => { x with
    bytes := m, writer := some { wave := o.wave, op := id, stamp := s.stamp }, lastTeam := some tk, lost := others != [], teams := tk :: others }

def State.runWbld (s : State) (id : Nat) (o : Op) (w : Wave) (l : WLayout) (slot : Nat) : CmdEnd :=
  let bs := s.engRead id o w (o.u.getD 2 0, imageBytes l)
  let xl := s.failLines w .engineLoad o.src
  let un := s.badLines w o.src
  let mem (k : Nat) (xs : List Byte) : Memory := memWrite [] k xs
  let s := s.clearDefects fun d => match d with | .line a => a ∈ un | _ => false
  let s := match l with
    | .e4m3 => s.slotPut id o w.ck slot (memWrite (mem 0 (bs.take 0x4000)) 0x5000 (bs.drop 0x4000))
    | .sp => s.slotPut id o w.ck slot (memWrite (mem 0 (bs.take 0x5000)) 0x5000 (bs.drop 0x5000))
    | .h16 => (s.slotPut id o w.ck slot (mem 0 (bs.take 0x4000))).slotPut id o w.ck (slot + 1) (mem 0 (bs.drop 0x4000))
    | .i8 => s.slotPut id o w.ck slot (mem 0 bs)
  { s := s, xl := xl.length, un := un }

/-! ## Copies (R248, R249, R271, R272, R279) -/

/-- Places that a command reaches, whichever address names them: translated where they translate. -/
def State.engPlaces (s : State) (w : Wave) (k : Acc2) (gs : List Seg) : List Seg :=
  gs.map fun g => match g.place with
    | .glob va => (match s.translate w.die (s.hdr w).asid va k with
        | .ok pa mt key _ => ⟨.phys pa mt key, g.len⟩
        | .code _ => g)
    | _ => g

/-- A row's bytes with those free that two elements of the destination share, or that overlap the source (R239, R248). -/
def State.copyBytes (s : State) (w : Wave) (l : Nat) (a : DWord) (src dest : List Seg) (bs : List Byte) : List Byte :=
  let at_ := (s.engPlaces w .engineStore (s.engSegs w l (a, bs.length))).flatMap fun g =>
    (List.range g.len).map fun k => (⟨g.place.shift k, 1⟩ : Seg)
  (bs.zip at_).map fun x =>
    if segsMeet src [x.2] ∨ 2 ≤ (dest.filter fun g => g.meets x.2).length then
      s.free 8 (2 ^ 75 + (match x.2.place with | .scr t o => 2 ^ 74 + t * 2 ^ 20 + o | .glob va => 2 ^ 73 + va | .phys pa _ _ => 2 ^ 72 + pa | _ => 0))
    else x.1

/-- The floating formats of an element code. -/
def fmtOf (f : Nat) : Option Fmt := match f with | 0 => some fp32 | 1 => some fp16 | 2 => some bf16 | _ => none

/-- An element converted, or its bits (R271). -/
def convElem (fs fd x : Nat) : Nat :=
  if fs = fd then x
  else match fmtOf fs, fmtOf fd with
    | some a, some b => b.convert .rn (a.dec x)
    | _, _ => x

/-- The rows of a filtered identifier that a copy has written become touched (R279). -/
def State.touch (s : State) (key : Nat) (rows : List Nat) : State :=
  { s with touched := tput s.touched key (rows.foldl (fun t r => if r ∈ t then t else t ++ [r]) (tget s.touched key [])) }

/-- Some byte of a row is written: its line translates. -/
def State.rowWritten (s : State) (w : Wave) (l : Nat) (r : Span) : Bool :=
  (s.engSegs w l r).any fun g => match g.place with
    | .glob va => (match s.translate w.die (s.hdr w).asid va .engineStore with | .ok .. => true | .code _ => false)
    | _ => true

/-- Both identifiers carry scales that a CPY copies (R271). -/
def copiesScales (d t : Tensor) : Bool := d.fmt == 3 && t.fmt == 3 && d.sgran == t.sgran && d.sgran != 0

/-- Write the rows of a destination: each with its bytes. `src` is what the command reads. -/
def State.putRows (s : State) (id : Nat) (o : Op) (w : Wave) (td : Nat) (d : Tensor) (src : List Seg)
    (out : List ((Nat × Nat) × List Byte)) : State :=
  let src := s.engPlaces w .engineLoad src
  let dest := s.engPlaces w .engineStore o.dest
  let s1 := out.foldl (fun s x =>
    s.engWrite id o w (d.row x.1.1 x.1.2) (s.copyBytes w o.lane0 (d.row x.1.1 x.1.2) src dest x.2)) s
  if d.filt then
    s1.touch (tensorKey (s.hdr w).asid td) ((out.filter fun x => s.rowWritten w o.lane0 (d.row x.1.1 x.1.2, d.rowBytes)).map fun x => x.1.1)
  else s1

/-- What the source `src` and the destination of a command in memory met: lines not performed, each counted once, and bad
lines. -/
def State.cmdLines (s : State) (w : Wave) (o : Op) (src : List Seg) : Nat × List Nat :=
  ((addLines (s.failLines w .engineLoad src) (s.failLines w .engineStore o.dest)).length, s.badLines w src)

def State.runCpy (s : State) (id : Nat) (o : Op) (w : Wave) (td : Nat) (d t : Tensor) : CmdEnd :=
  let row (r : Nat × Nat) : List Byte :=
    ((elemsOf t.e (s.engRead id o w (t.row r.1 r.2, t.rowBytes))).map fun x => convElem t.fmt d.fmt x).flatMap fun x => leBytes d.e x
  let out := d.rows.map fun r => (r, row r)
  let sc := s.engRead id o w t.scales
  let (xl, un) := s.cmdLines w o o.src
  let s := s.clearDefects fun x => match x with | .line a => a ∈ un | _ => false
  let s := s.putRows id o w td d o.src out
  let scs := s.copyBytes w o.lane0 d.scales.1 (s.engPlaces w .engineLoad o.src) (s.engPlaces w .engineStore o.dest) sc
  { s := if copiesScales d t then s.engWrite id o w d.scales.1 scs else s, xl := xl, un := un }

def State.runCpyr (s : State) (id : Nat) (o : Op) (w : Wave) (td : Nat) (d t : Tensor) : CmdEnd :=
  let tab : Span := (o.u.getD 2 0, 4 * d.dim 1)
  let map := elemsOf 4 (s.engRead id o w tab)
  let row (r : Nat × Nat) : List Byte :=
    let m := map.getD r.1 0
    if t.dim 1 ≤ m then List.replicate d.rowBytes 0 else s.engRead id o w (t.row m r.2, t.rowBytes)
  let out := d.rows.map fun r => (r, row r)
  let read : List Span := tab :: (d.rows.filter fun r => map.getD r.1 0 < t.dim 1).map fun r => (t.row (map.getD r.1 0) r.2, t.rowBytes)
  let src := read.flatMap fun r => s.engSegs w o.lane0 r
  let (xl, un) := s.cmdLines w o src
  let s := s.clearDefects fun x => match x with | .line a => a ∈ un | _ => false
  { s := s.putRows id o w td d src out, xl := xl, un := un
    remap := (map.filter fun m => t.dim 1 ≤ m ∧ m ≠ 0xFFFFFFFF).length }

/-! ## Quantisation (R138, R247, R273) -/

/-- The scale of a block and the conversion of its elements (Table 8-7). -/
def qntScale (f : Fmt) (xs : List Nat) : Nat :=
  let vs := (xs.map f.dec).filter fun v => !v.isNan
  if vs.any FVal.isInf then fp32.inf
  else
    let m := vs.foldl (fun (m : Frac) v => if m.lt v.abs.frac then v.abs.frac else m) (Frac.ofInt 0)
    fp32.roundFrac .rn false (m.div (Frac.ofInt 448))

def qntElem (f : Fmt) (sc x : Nat) : Nat :=
  let v := f.dec x
  let z := e4m3.signed v.sign 0
  if v.isNan then e4m3.nan
  else match fp32.dec sc with
    | .inf _ => if v.isInf then e4m3.signed v.sign e4m3.maxFin else z
    | d => if d.isZero then z else e4m3.roundFrac .rn v.sign (v.frac.div d.frac)

/-- QNT reads its whole source before it writes (R247). A bad staging or scratchpad word enters the element row that holds it and the
scale of its block, and through that scale the block's elements (R255, log entry 30). -/
def State.runQnt (s : State) (id : Nat) (o : Op) (w : Wave) (td : Nat) (d t : Tensor) : CmdEnd :=
  let f := (fmtOf t.fmt).getD fp32
  let ck := w.ck
  let src := t.rows.map fun r => (r, elemsOf t.e (s.engRead id o w (t.row r.1 r.2, t.rowBytes)))
  let elems : List (Nat × Nat × Nat × Nat) := src.flatMap fun x => (x.2.zipIdx).map fun y =>
    (d.scaleIx y.2 x.1.1 x.1.2, y.1, y.2, x.1.1 + x.1.2 * t.dim 1)
  let staged (k : Nat) : Bool := s.defects.contains (.stage ck k)
  let badElems (r : Nat × Nat) : List Nat := if s.defects = [] then [] else (List.range (t.dim 0)).filter fun i =>
    s.scrBad w o.lane0 (t.row r.1 r.2 + BitVec.ofNat 64 (t.e * i), t.e) || staged ((r.1 + r.2 * t.dim 1) * t.dim 0 + i)
  let bad := src.flatMap fun x => (badElems x.1).map fun i => d.scaleIx i x.1.1 x.1.2
  let scale (x : Nat) : Nat := if x ∈ bad then fp32.nan
    else qntScale f ((elems.filter fun e => e.1 == x).map fun e => e.2.1)
  let scs := (List.range (d.per * d.slices)).map scale
  let out := src.map fun x => (x.1, (x.2.zipIdx).map fun y =>
    let k := d.scaleIx y.2 x.1.1 x.1.2
    BitVec.ofNat 8 (if k ∈ bad ∨ badElems x.1 ≠ [] then e4m3.nan else qntElem f (scs.getD k 0) y.1))
  let (xl, un) := s.cmdLines w o o.src
  let n := t.slices * t.dim 1 * t.dim 0
  let st := s.scrUnits w o.lane0 t.spans
    ++ (s.defects.filterMap fun x => match x with | .stage c k => if c = ck ∧ k < n then some (2, 0) else none | _ => none)
  let s := s.clearDefects fun x => match x with
    | .line a => a ∈ un
    | .stage c k => c == ck && k < n
    | .scr u off => t.spans.any fun sp => segsMeet (s.engSegs w o.lane0 sp) [⟨.scr u (off / 4 * 4), 4⟩]
    | _ => false
  let s := s.putRows id o w td d [] out
  let scb := s.copyBytes w o.lane0 d.sbase [] (s.engPlaces w .engineStore o.dest) (scs.flatMap fun x => leBytes 4 x)
  { s := s.engWrite id o w d.sbase scb, xl := xl, un := un, st := st }

/-! ## The Weir filter (R280, R281, Table 18-4) -/

/-- Insert a candidate into the shortlist order: descending value, −0 and +0 equal, then ascending column. -/
def insertCand (x : Nat × Nat) : List (Nat × Nat) → List (Nat × Nat)
  | [] => [x]
  | y :: t => if fp32.below y.1 x.1 && !((fp32.dec x.1).isZero && (fp32.dec y.1).isZero) then x :: y :: t else y :: insertCand x t

/-- The normalising sum of a row with maximum `mx` (Table 8-8). -/
def normSum (xs : List Nat) (mx : Nat) : Nat :=
  let e (x : Nat) : Nat := Fn.eval .exp (fp32.sub x mx)
  let chunk (c : Nat) : Nat := fp32.sum (((xs.drop (512 * c)).take 512).map fun x => fp32.dec (e x))
  (List.range ((xs.length + 511) / 512)).foldl (fun a c => if c = 0 then chunk 0 else fp32.add a (chunk c)) 0

/-- The record of a row. -/
def weirRecord (touched : Bool) (row : Nat) (xs : List Nat) : List Byte :=
  let cands := ((xs.zipIdx).filter fun x => !(fp32.dec x.1).isNan && fp32.dec x.1 != .inf true).foldl
    (fun t x => insertCand x t) []
  let list := if touched then cands.take 256 else []
  let mx := match list with | [] => 0xFF800000 | x :: _ => x.1
  let sum := if list.isEmpty then 0 else normSum xs mx
  leBytes 4 mx ++ leBytes 4 sum ++ leBytes 4 list.length ++ leBytes 4 row ++ List.replicate 48 0
    ++ (list.flatMap fun x => leBytes 4 x.1 ++ leBytes 4 x.2) ++ List.replicate (8 * (256 - list.length)) 0

/-- A row holds a write that has no order with the WEIRGET: one of another wave that does not happen before its issue, or a pending
one (R281). -/
def State.weirRaced (s : State) (o : Op) (w : Wave) (g : Seg) : Bool :=
  let gs := s.placesNow w [g]
  (gs.any fun p => (List.range p.len).any fun k => (tget s.memBy (p.place.off + k) []).any fun x =>
    x.wave != o.wave && !s.launchEnded x.wave && !(heardOf o.hb x.wave x.stamp (some ⟨g.place.shift k, 1⟩)))
  || s.ops.any fun x => x.2.writesMem && x.2.wave != o.wave && s.asidOf x.2.wave == s.asidOf o.wave &&
      (lanes x.2.todo).any fun l => segsMeet (s.placesNow w (x.2.seg l)) gs

def State.runWeir (s : State) (id : Nat) (o : Op) (w : Wave) (ts : Nat) (t : Tensor) : CmdEnd :=
  let f := (o.u.getD 3 0).toNat % 2 ^ 32
  let n := (o.u.getD 3 0).toNat / 2 ^ 32 % 2 ^ 16
  let on := tget s.touched (tensorKey (s.hdr w).asid ts) []
  let rec_ (i : Nat) : List Byte :=
    if (s.engSegs w o.lane0 (t.row (f + i) 0, t.rowBytes)).any fun g => s.segUndef id o g || s.weirRaced o w g then
      (List.range 2112).map fun k => s.free 8 (2 ^ 76 + 2112 * i + k)
    else weirRecord (decide (f + i ∈ on)) (f + i) (elemsOf 4 (s.engRead id o w (t.row (f + i) 0, t.rowBytes)))
  let out := (List.range n).map fun i => (o.u.getD 2 0 + BitVec.ofNat 64 (2112 * i), rec_ i)
  let (xl, un) := s.cmdLines w o o.src
  let s := s.clearDefects fun x => match x with | .line a => a ∈ un | _ => false
  { s := out.foldl (fun s x => s.engWrite id o w x.1 x.2) s, xl := xl, un := un }

/-! ## The completion of a command -/

/-- The tile that a command names. -/
def Op.accOf (o : Op) : Option Nat :=
  match o.instr with
  | .mma _ _ a _ _ | .mmah _ _ _ a _ _ | .mmai _ _ a _ _ | .mzero _ _ a | .mld _ _ a _ _ | .mst _ _ a _ _ => some a
  | _ => none

/-- The work of a command. -/
def State.runCmd (s : State) (id : Nat) (o : Op) (w : Wave) : CmdEnd :=
  let t0 := o.tens.getD 0 ⟨0, 1, 0, false, [1, 1, 1, 1, 1], [0, 0, 0, 0], 0, 0⟩
  let t1 := o.tens.getD 1 t0
  match o.instr with
  | .mma _ _ acc _ slot | .mmah _ _ _ acc _ slot | .mmai _ _ acc _ slot => s.runProduct id o w acc slot t0
  | .mzero _ _ acc => s.runMzero id o w acc
  | .mld _ _ acc _ _ => s.runMld id o w acc
  | .mst _ _ acc _ _ => s.runMst id o w acc
  | .wbld _ _ l slot _ _ => s.runWbld id o w l slot
  | .cpy _ _ td _ => s.runCpy id o w td t0 t1
  | .cpyr _ _ td _ _ => s.runCpyr id o w td t0 t1
  | .qnt _ _ td _ => s.runQnt id o w td t0 t1
  | .weirget _ _ _ ts _ => s.runWeir id o w ts t0
  | _ => { s := s }

/-- A command may do its work: the wave's earlier writes have performed (R226), its earlier commands on the tile
are done (R243), a QNT is the oldest of its core (R247), and no line it reaches is pinned by another team (R222). -/
def State.cmdReady (s : State) (id : Nat) (o : Op) (w : Wave) : Bool :=
  let before := s.ops.filter fun x => x.1 < id && x.2.wave == o.wave
  !(before.any fun x => x.2.writesMem && x.2.todo != 0)
    && !(before.any fun x => x.2.isCmd && !x.2.finished && o.accOf.isSome && x.2.accOf == o.accOf)
    && (match o.instr with | .qnt .. => (s.core w.ck).qnts.head? == some id | _ => true)
    && !(s.engHeld w .engineLoad o.src || s.engHeld w .engineStore o.dest)
    && !((s.goodLines w .engineLoad o.src ++ s.goodLines w .engineStore o.dest).any fun l => s.pinnedAway w.team l)

/-- What a command writes races with what other pending commands write and read (R226, R237). -/
def State.raceCmds (s : State) (id : Nat) (o : Op) : State :=
  { s with ops := s.ops.map fun (x : Nat × Op) =>
      if x.1 ≠ id ∧ x.2.isCmd ∧ !x.2.finished ∧ s.asidOf x.2.wave = s.asidOf o.wave ∧ segsMeet (x.2.dest ++ x.2.src) o.dest
      then (x.1, { x.2 with raced := x.2.raced ++ o.dest }) else x }

/-- COMMAND_COMPLETION: a command reads its operands, makes all of its writes and reports; one whose record waits
for room in the event queue posts it. -/
def execCommandCompletion (op : Nat) (s : State) : Host.Outcome State Fault Refusal :=
  match s.op op with
  | none => .next s
  | some o =>
      let w := (s.actor o).1
      if !o.isCmd then .next s
      else if o.finished then .next (s.postRecords (o.wave / 32) 65)
      else if !s.cmdReady op o w then .next s
      else
        let s := ((s.flushL1 w.ck).raceCmds op o).reachSegs (s.engPlaces w .engineLoad o.src)
        let e := s.runCmd op o w
        let e := { e with s := e.s.modCore w.ck fun c => { c with qnts := c.qnts.filter (· ≠ op) } }
        .next (State.cmdEnd op o w.ck e)

end Sys2Proof.Machine
end

