-- ==== Sys2Proof/Machine/MemForms.lean ====
section
/-! DEFINITION. The memory, atomic, transaction, ring and synchronisation forms, opcodes 0x180 to 0x195
(spec 12 R180-R209; 10 R154-R159; 14 R222, R223). -/

namespace Sys2Proof.Machine

/-! ## Loads, stores, prefetch and page requests -/

/-- The lanes of a load whose places translate now. -/
def Ctx.resident (c : Ctx) (m : Addr) (ls : Mask) : Mask :=
  maskOf fun l => ls.getLsbD l && (match c.s.aperture c.w l (c.addr m l).val 1 .txLoad with
    | .ok gs => (match c.s.translateSegs c.w .txLoad gs with | .ok _ => true | .error _ => false)
    | .error _ => false)

/-- A load of `n` registers from vD, with the residency predicate of LD.NF (R158, R184): poisoned lanes make no
access and pass the poison on; a doomed lane's load returns zero (R192), its residency predicate tells residency all the same. -/
def Ctx.loadForm (c : Ctx) (m : Addr) (d n : Nat) (pf : Option Nat) : State :=
  if !c.any then c.finish c.s
  else
    let ds := (List.range n).map fun k => OneReg.v (d + k)
    let ps := pf.toList.map OneReg.p
    let zero := c.doomed &&& ~~~ c.poisLanes m
    let ws := (ds ++ ps).map (c.loadTag m) ++ ds.map (fun r => laneConst r zero 0)
      ++ ps.map fun r => { reg := r, mask := zero, vals := (lanes (c.resident m zero)).map fun l => (l, 1) }
    c.access { c.memOp m (c.x &&& ~~~ c.poisLanes m &&& ~~~ c.doomed) with writes := ws } ((ds ++ ps).map fun r => destOf r c.x)

/-- LD (R184). -/
def execLd (h : Ctl) (cache : Cache) (sign : Bool) (width : Width) (d : Nat) (m : Addr) (s : State) :
    Host.Outcome State Fault Refusal :=
  issue (.ld h cache sign width d m) (fun c => c.loadForm m d width.regs none) s

/-- LD.NF (R158). -/
def execLdNf (h : Ctl) (cache : Cache) (sign : Bool) (width : Width) (d pf : Nat) (m : Addr) (s : State) :
    Host.Outcome State Fault Refusal :=
  issue (.ldNf h cache sign width d pf m) (fun c => c.loadForm m d width.regs (some pf)) s

/-- A store of `n` registers from vS: a doomed lane's store is discarded (R185, R192). -/
def Ctx.storeForm (c : Ctx) (m : Addr) (src n : Nat) : State :=
  if !c.any then c.finish c.s
  else
    let x := c.x &&& ~~~ c.doomed
    c.access { c.memOp m x with mask := x, data := (lanes x).map fun l => (l, c.words src n l) } []

/-- ST (R185). -/
def execSt (h : Ctl) (cache : Cache) (width : Width) (src : Nat) (m : Addr) (s : State) :
    Host.Outcome State Fault Refusal :=
  issue (.st h cache width src m) (fun c => c.storeForm m src width.regs) s

/-- The line and key slot that a lane's PREF brings in (R186). -/
def Ctx.prefLine (c : Ctx) (m : Addr) (l : Nat) : Option (Nat × Nat) :=
  let a := c.addr m l
  if a.pois || (c.guard l).pois || !isGlobal a.val then none
  else match c.s.translate c.w.die c.hdr.asid (a.val.toNat % 2 ^ 57) .load with
    | .ok pa 0 key _ => if c.s.pinnedAway c.w.team (pa / 128) then none else some (pa / 128, key)
    | _ => none

/-- PREF brings lines into the L1, and never faults (R186). -/
def execPref (h : Ctl) (cache : Cache) (m : Addr) (s : State) : Host.Outcome State Fault Refusal :=
  issue (.pref h cache m) (fun c =>
    c.finishNow (((lanes c.x).filterMap (c.prefLine m)).foldl (fun s x => s.touchLine c.ck x.2 x.1) c.s)) s

/-- The virtual address that a lane's PGREQ names, when its page is not resident (R159). -/
def Ctx.pgreqVa (c : Ctx) (m : Addr) (l : Nat) : Option Nat :=
  let a := c.addr m l
  if a.pois then none
  else match c.s.aperture c.w l a.val 1 .load with
    | .ok [⟨.glob va, _⟩] =>
        (match c.s.translate c.w.die c.hdr.asid va .load with
        | .code e => if e = fNotResident then some va else none
        | .ok .. => none)
    | _ => none

/-- A lane's translation waits for a pinned line (R222). -/
def Ctx.pgreqHeld (c : Ctx) (m : Addr) (l : Nat) : Bool :=
  let a := c.addr m l
  !a.pois && (match c.s.aperture c.w l a.val 1 .load with
    | .ok [⟨.glob va, _⟩] => (match c.s.translate c.w.die c.hdr.asid va .load with | .code e => e == fRetry | .ok .. => false)
    | _ => false)

/-- PGREQ writes one entry for each page that is not resident, in ascending order of its lowest lane, and waits for
their completion under its counter (R159). -/
def execPgreq (h : Ctl) (m : Addr) (s : State) : Host.Outcome State Fault Refusal :=
  issue (.pgreq h m) (fun c =>
    if (lanes c.x).any (c.pgreqHeld m) then c.s.block 1 else
    let vs := (lanes c.x).filterMap fun l => (c.pgreqVa m l).map fun va => (l, va)
    let page (x : Nat × Nat) : Nat × Nat := c.s.pageOf c.w x.2
    if vs.isEmpty then c.finishNow c.s
    else
      let first := vs.foldl (fun t x => if t.any fun y => page y == page x then t else t ++ [x]) ([] : List (Nat × Nat))
      let entry (x : Nat × Nat) : FqEntry :=
        { va := BitVec.ofNat 64 x.2, pc := c.p.pc, mask := maskOf fun l => vs.any fun y => y.1 == l && page y == page x
          gen := c.s.gen c.hdr.asid, asid := c.hdr.asid, cause := 0, kind := 4, path := c.w.pathIx c.slot, wslot := c.w.wslot
          core := c.w.core, team := c.team.lti, wave := c.wk, op := some c.s.opSeq }
      c.finish (first.foldl (fun s x => s.fqAdd c.w.die (entry x)) (c.s.addOp c.op))) s

/-! ## Atomics -/

/-- An atomic on the lanes whose done bit is clear; when it is issued again after a pre-emption, the lanes that have
performed receive the values held for them (R187, R190). -/
def Ctx.atomicForm (c : Ctx) (op : AOp) (w : Width) (d : Option Nat) (src : Nat) (m : Addr) : State :=
  if !c.any then c.finish c.s
  else
    let again : Bool := c.w.barDone.any fun b => b.1 == c.p.pc
    let made := if again then c.w.done &&& c.x else 0
    let c := { c with s := c.s.modWave c.wk fun w => { w with done := if again then w.done else 0, doneOf := some c.s.opSeq } }
    let ds := (d.toList).flatMap fun d => (List.range w.regs).map fun k => (OneReg.v (d + k), k)
    let ws := ds.map fun r => ({ reg := r.1, mask := made, vals := (lanes made).map fun l =>
      (l, BitVec.ofNat 64 ((tget c.w.olds l 0).toNat / 2 ^ (32 * r.2) % 2 ^ 32)) } : RegWrite)
    let x := c.x &&& ~~~ made
    c.access { c.memOp m x with data := (lanes x).map fun l => (l, c.words src (op.regs w) l), writes := ws }
      (ds.map fun r => destOf r.1 c.x)

/-- ATOM (R187). -/
def execAtom (h : Ctl) (op : AOp) (cache : Cache) (scope : Scope) (width : Width) (d src : Nat) (m : Addr) (s : State) :
    Host.Outcome State Fault Refusal :=
  issue (.atom h op cache scope width d src m) (fun c => c.atomicForm op width (some d) src m) s

/-- RED (R187). -/
def execRed (h : Ctl) (op : AOp) (cache : Cache) (scope : Scope) (width : Width) (src : Nat) (m : Addr) (s : State) :
    Host.Outcome State Fault Refusal :=
  issue (.red h op cache scope width src m) (fun c => c.atomicForm op width none src m) s

/-! ## Transactions (R191-R196) -/

/-- TXBEGIN puts each executing lane into a transaction, once its abort target is checked (R191). -/
def execTxbegin (h : Ctl) (target : Word) (s : State) : Host.Outcome State Fault Refusal :=
  issue (.txbegin h target) (fun c =>
    let t := inRegion c.p.pc target
    if !c.any then c.finish c.s
    else
      match c.badTarget fun _ => t with
      | some x => c.stopAt x
      | none =>
          c.variable [] (c.s.modWave c.wk fun w =>
            { w.setSlot c.slot ((w.slot c.slot).map fun p => { p with abortTo := t }) with
              tx := (lanes c.x).foldl (fun m l => tput m l { active := true, born := c.s.opSeq }) w.tx })) s

/-- Two sets share a line. -/
def linesMeet (xs ys : List Nat) : Bool := xs.any fun x => x ∈ ys

/-- The conflicts inside the wave, in ascending lane order: the lanes that stay, and those that fail (R194). -/
def txIntra (tx : Tab TxLane) (ls : List Nat) : List Nat × List Nat :=
  ls.foldl (fun (a : List Nat × List Nat) l =>
    let t := tget tx l {}
    if a.1.any fun k => linesMeet t.lines ((tget tx k {}).lines ++ (tget tx k {}).reads) || linesMeet t.reads (tget tx k {}).lines
    then (a.1, a.2 ++ [l]) else (a.1 ++ [l], a.2)) ([], [])

/-- The core of a wave writes back and drops the lines of a transaction. -/
def State.txLinesOut (s : State) (w : Wave) (t : TxLane) : State :=
  (t.reads ++ t.lines).foldl (fun s x => s.evictLine (coreKey w.die w.core) x) s

/-- Every byte that a lane read from memory still holds, at the L2, every value it read of it (R194, R224). -/
def State.txValid (s : State) (w : Wave) (t : TxLane) : Bool :=
  !t.torn && t.seen.all fun x => (s.txLinesOut w t).l2Byte (tget t.keys (x.1 / 128) 0) x.1 == x.2

/-- The buffered writes of a committing lane perform, a release of its write set at module scope (R194). -/
def State.txWrite (s : State) (w : Wave) (t : TxLane) : State :=
  (t.buf.foldl (fun s x => (s.soil x.1).l2Set (tget t.keys (x.1 / 128) 0) x.1 x.2) ((s.txLinesOut w t).release w .module t.lines)).noteWrite
    (waveKey w.team w.ix) 0 w.lastFence (t.buf.map fun x => ⟨.phys x.1 0 (tget t.keys (x.1 / 128) 0), 1⟩)

/-- The end of a lane's transaction: its code and cause stay. -/
def TxLane.over (t : TxLane) (cause : Nat) : TxLane := { code := t.code, cause := cause }

/-- The lanes that commit, and the lanes that fail with INTRA and with CONFLICT (R194). Lanes that stay after the
first test share no written line, so their tests at the L2 do not touch one another. -/
def Ctx.txPlan (c : Ctx) : List Nat × List Nat × List Nat :=
  let (good, intra) := txIntra c.w.tx (lanes (c.txLanes &&& ~~~ c.doomed))
  let ok (l : Nat) : Bool := c.s.txValid c.w (tget c.w.tx l {})
  (good.filter ok, intra, good.filter fun l => !ok l)

/-- The transactions of the executing lanes end. -/
def Ctx.txEnd (c : Ctx) (s : State) : State :=
  let (good, intra, conf) := c.txPlan
  let s := good.foldl (fun s l => s.txWrite c.w (tget c.w.tx l {})) s
  s.modWave c.wk fun w => { w with tx := (lanes c.txLanes).foldl (fun t l =>
    tmod t l fun x => x.over (if l ∈ intra then 3 else if l ∈ conf then 4 else x.cause)) w.tx }

/-- What holds a TXEND: the wave's transactional accesses, or pinned lines of its sets (R192, R222); the stall reason. -/
def Ctx.txHold (c : Ctx) : Option Nat :=
  let m := c.txLanes
  let on := (c.s.opsOf c.wk).filter fun o => o.2.tx &&& m &&& o.2.todo ≠ 0
  if !on.isEmpty then some (if on.all fun o => o.2.retry &&& o.2.tx ≠ 0 then 9 else 1)
  else if (lanes (m &&& ~~~ c.doomed)).any fun l =>
      ((tget c.w.tx l {}).reads ++ (tget c.w.tx l {}).lines).any fun x => c.s.pinnedAway c.w.team x then some 9
  else none

/-- The lanes that a TXEND sends to the abort target: those that fail, and executing lanes that are in no transaction, which
follow the guard as a BRA's would (R194). -/
def Ctx.txGone (c : Ctx) : Mask :=
  (c.x &&& ~~~ c.txLanes) ||| c.doomed ||| maskOf fun l => l ∈ c.txPlan.2.1 ++ c.txPlan.2.2

/-- TXEND commits or fails the executing lanes that are in a transaction; committed lanes and lanes whose guard is false fall
through (R194). -/
def execTxend (h : Ctl) (s : State) : Host.Outcome State Fault Refusal :=
  issue (.txend h) (fun c =>
    if !c.any then c.finish c.s
    else match c.txHold, (if c.x &&& ~~~ c.txLanes = 0 then none else c.s.targetBad c.w c.p.pc c.p.abortTo) with
    | some r, _ => c.s.block r
    | none, some x => c.stopAt x
    | none, none =>
      let f := c.txGone
      let eff (s : State) : State :=
        let s := c.txEnd s
        (c.count s).modWave c.wk fun w =>
          { w with due := if h.ctr < 6 then w.due ++ [(h.ctr, s.now + 1)] else w.due }
      if f = 0 then c.move (eff c.s)
      else if f = c.p.mask then c.moveTo c.p.abortTo (eff c.s)
      else c.diverge { c.p.at (nextPc c.p.pc) with mask := c.p.mask &&& ~~~ f } { c.p.at c.p.abortTo with mask := f } eff) s

/-- TXABORT dooms the executing lanes that are in a transaction (R195). -/
def execTxabort (h : Ctl) (code : Src) (s : State) : Host.Outcome State Fault Refusal :=
  issue (.txabort h code) (fun c =>
    let k := (c.rd code (lowest c.x)).val.toNat % 256
    c.variable [] (c.s.modWave c.wk fun w =>
      { w with tx := (lanes c.txLanes).foldl (fun t l => tmod t l fun x => { x.doom 1 with code := k }) w.tx })) s

/-- The status word of a lane (Table 12-7). -/
def TxLane.status (t : TxLane) : DWord :=
  BitVec.ofNat 64 (t.active.toNat * 2 ^ 31 + (t.active && t.doomed).toNat * 2 ^ 30 + t.code * 2 ^ 8 + t.cause)

/-- TXSTAT (R195). -/
def execTxstat (h : Ctl) (d : Nat) (s : State) : Host.Outcome State Fault Refusal :=
  issue (.txstat h d) (fun c => c.variable [c.toV d fun l => c.lane [] (tget c.w.tx l {}).status l] c.s) s

/-! ## Rings -/

/-- ENQ (R198, R199). -/
def execEnq (h : Ctl) (ps src : Nat) (m : Addr) (s : State) : Host.Outcome State Fault Refusal :=
  issue (.enq h ps src m) (fun c =>
    if !c.any then c.finish c.s
    else c.access { c.memOp m c.x with data := (lanes c.x).map (fun l => (l, c.words src 4 l)), early := c.ringEarly src true } [destOf (.p ps) c.x]) s

/-- DEQ (R198, R199). -/
def execDeq (h : Ctl) (d ps : Nat) (m : Addr) (s : State) : Host.Outcome State Fault Refusal :=
  issue (.deq h d ps m) (fun c =>
    if !c.any then c.finish c.s
    else c.access { c.memOp m c.x with early := c.ringEarly d false } [destOf (.v d) c.x, destOf (.p ps) c.x]) s

/-! ## Binding, flags and fences -/

/-- Number of a BIND kind (R202). -/
def bindNo (k : BindKind) : Nat := match k with | .bar => 0 | .ring => 1 | .flag => 2 | .tile => 3

/-- The object that a BIND names. -/
def Ctx.bindObj (c : Ctx) (k : BindKind) (obj : Nat) : HWord :=
  match k with
  | .bar => BitVec.ofNat 128 obj
  | .ring | .flag => (c.rdS obj).val.setWidth 128
  | .tile => tileObj (c.rdH obj)

/-- A range lies wholly in the global window, and neither is empty nor wraps (R201). -/
def bindRangeOk (a : DWord) (n : Nat) : Bool :=
  let e := a.toNat + n
  0 < n && (e ≤ 2 ^ 56 || (2 ^ 64 - 2 ^ 56 ≤ a.toNat && e ≤ Config.localBase)
    || (Config.localBase + 2 ^ 32 ≤ a.toNat && e ≤ 2 ^ 64))

/-- The issue of BIND and UNBIND over what they do with the entry (R201, R202). -/
def Ctx.bindForm (c : Ctx) (k : BindKind) (obj a : Nat) (off : BitVec 16) (len : BindLen) (add : Bool) : State :=
  if !c.any then c.finish c.s
  else
    let n := match len with | .imm v => (v + 1) * 16 | .reg r => (c.rdS r).val.toNat
    let start := c.sOff a off
    let b : BindEntry := ⟨bindNo k, c.bindObj k obj, start, n⟩
    let word : DWord := BitVec.ofNat 64 (obj * 2 ^ 52 + bindNo k * 2 ^ 50 + n % 2 ^ 32)
    let objBad : Bool := match k with
      | .bar => c.team.bars ≤ obj
      | .flag => b.obj.toNat % 4 != 0
      | .tile => hKind (c.rdH obj) == 0
      | .ring => false
    if !bindRangeOk start n || objBad then c.fault fBindRange 0 start word
    else if add && 64 ≤ c.team.binds.length then c.fault fBindFull 0 start word
    else c.finish (c.s.modTeam c.w.team fun t => { t with binds := if add then t.binds ++ [b] else t.binds.erase b })

/-- BIND (R201). -/
def execBind (h : Ctl) (kind : BindKind) (obj : Nat) (a : Nat) (off : BitVec 16) (len : BindLen) (s : State) :
    Host.Outcome State Fault Refusal :=
  issue (.bind h kind obj a off len) (fun c => c.bindForm kind obj a off len true) s

/-- UNBIND (R201). -/
def execUnbind (h : Ctl) (kind : BindKind) (obj : Nat) (a : Nat) (off : BitVec 16) (len : BindLen) (s : State) :
    Host.Outcome State Fault Refusal :=
  issue (.unbind h kind obj a off len) (fun c => c.bindForm kind obj a off len false) s

/-- ACQ (R204). -/
def execAcq (h : Ctl) (scope : Scope) (d : Nat) (m : Addr) (s : State) : Host.Outcome State Fault Refusal :=
  issue (.acq h scope d m) (fun c =>
    if !c.any then c.finish c.s else c.access (c.memOp m c.x) [destOf (.v d) c.x]) s

/-- REL (R204). -/
def execRel (h : Ctl) (scope : Scope) (src : Nat) (m : Addr) (s : State) : Host.Outcome State Fault Refusal :=
  issue (.rel h scope src m) (fun c => c.storeForm m src 1) s

/-- FENCE holds its path until every operation of the wave has completed; wide, the core's lines are written back and
dropped, those of host memory at .SYSTEM only, and the team's pins end (R205, R223, R227). -/
def execFence (h : Ctl) (scope : Scope) (s : State) : Host.Outcome State Fault Refusal :=
  issue (.fence h scope) (fun c =>
    if !c.any then c.finish c.s
    else if !(c.s.opsOf c.wk).isEmpty then c.s.block 1
    else
      let s := (c.s.modWave c.wk fun w => w.waitedAll fun k => c.s.free 64 (2 ^ 43 + 2 ^ 42 + k)).fenceOf c.wk scope.code |>.poolFence c.wk scope.code
      c.finishNow (if scope.wide then (if scope = .system then s.flushL1 c.ck else s.flushModule c.ck).unpinTeam c.w.team scope.code else s)) s

/-! ## Named barriers (R206-R209) -/

/-- The extra word of BAR_RANGE (Table 28-11). -/
def barWord (b x : Nat) : DWord := BitVec.ofNat 64 (b * 2 ^ 32 + x % 2 ^ 32)

/-- The issue of a barrier form: its number is checked (R206). -/
def Ctx.barForm (c : Ctx) (b : Nat) (body : Barrier → State) : State :=
  if !c.any then c.finish c.s
  else if c.team.bars ≤ b then c.fault fBarRange 0 0 (barWord b c.team.bars)
  else body (c.s.barrier c.w.team b)

/-- The path waits on a new operation of the form. -/
def Ctx.waitOn (c : Ctx) (o : Op) (rs : List RegWrite) (s : State) : State :=
  let id := s.opSeq
  (c.count (c.pend id rs (s.addOp o))).modWave c.wk fun w => w.setSlot c.slot ((w.slot c.slot).map fun p =>
    { p.issued c.h.stall with wait := .op id })

/-- The waves that BARINIT enrols; none where R207 refuses them. -/
def Ctx.enrolled (c : Ctx) (m : BarSet) : Option (List Nat) :=
  match m with
  | .imm n => if n = 0 ∨ c.team.waves < n then none else some (List.range n)
  | .reg r =>
      let x := (c.rdS r).val.toNat % 2 ^ 32
      if 2 ^ c.team.waves ≤ x then none else some ((List.range 32).filter fun i => x.testBit i)

/-- BARINIT (R207). -/
def execBarinit (h : Ctl) (b : Nat) (m : BarSet) (s : State) : Host.Outcome State Fault Refusal :=
  issue (.barinit h b m) (fun c => c.barForm b fun _ =>
    match c.enrolled m with
    | none => c.fault fBarRange 0 0 (barWord b (match m with | .imm n => n | .reg r => (c.rdS r).val.toNat))
    | some ws => c.finish ((c.s.barBreak c.w.team b).modBar c.w.team b fun _ => { enrolled := ws })) s

/-- Lines bound to a barrier. -/
def Ctx.barLines (c : Ctx) (b : Nat) : List Nat := c.s.barLines c.w b

/-- An arrival at the barrier is held (R203, R208, R222). -/
def Ctx.barHeld (c : Ctx) (b : Nat) : Bool := c.s.barHeld c.wk c.w (c.barLines b)

/-- A barrier operation that waits for a phase; `held` says that its arrival is held for the next. -/
def Ctx.barOp (c : Ctx) (phase : Nat) (held : Bool) : Op := { c.op with u := [BitVec.ofNat 64 phase, if held then 1 else 0] }

/-- The wait that was made before a pre-emption, when this form is issued again (R400): its phase. -/
def Ctx.barMade (c : Ctx) : Option Nat :=
  match c.w.barDone with
  | some (pc, [ph, held]) => if pc = c.p.pc ∧ held = 0 then some ph.toNat else none
  | _ => none

/-- The barrier broke while a pre-emption had taken the wave off in this form's wait: it wakes broken (R37, R207, R400). -/
def Ctx.barBroke (c : Ctx) : Bool :=
  match c.w.barDone with
  | some (pc, [_, held]) => pc == c.p.pc && held == 2
  | _ => false

/-- The form arrives at a barrier that is not broken, and its arrival is held. -/
def Ctx.barWaits (c : Ctx) (b : Nat) : Bool :=
  let x := c.s.barrier c.w.team b
  let made : Bool := match c.i with | .baraw .. => c.barMade.isSome | _ => false
  b < c.team.bars && c.w.ix ∈ x.enrolled && !x.broken && !c.barBroke && !made && c.barHeld b

/-- BARA: the arrival in the current phase, as a release (R208). -/
def execBara (h : Ctl) (b : Nat) (s : State) : Host.Outcome State Fault Refusal :=
  issue (.bara h b) (fun c => c.barForm b fun x =>
    if c.w.ix ∉ x.enrolled ∨ x.broken ∨ c.barBroke then c.finishNow c.s
    else if c.barHeld b then c.s.block 1
    else
      let s := c.s.release c.w .team (c.barLines b)
      if c.w.ix ∈ x.arrived then c.waitOn (c.barOp x.phase true) [] s
      else
        let s := s.modBar c.w.team b fun x => { x with pending := tput x.pending c.w.ix x.phase }
        c.variable [] (s.barArrive c.w.team b c.w.ix true)) s

/-- The status of a wait that ends at once. -/
def Ctx.barStatus (c : Ctx) (b pb : Nat) (broken : Bool) (s : State) : State :=
  c.variable [c.toP pb fun l => c.lane [] (if broken then 1 else 0) l] (if broken then s else s.barHear c.wk b)

/-- A wait for a phase, with an arrival in it or, where the wave has arrived already, held for the next (R208). -/
def Ctx.barArriveWait (c : Ctx) (b pb : Nat) (x : Barrier) (tell : Bool) (s : State) : State :=
  let held : Bool := decide (c.w.ix ∈ x.arrived)
  let s := c.waitOn (c.barOp x.phase held) [destOf (.p pb) c.x] s
  if held then s else s.barArrive c.w.team b c.w.ix tell

/-- A wait for a phase that the wave has arrived in, or is not enrolled in. -/
def Ctx.barWait (c : Ctx) (b pb ph : Nat) (x : Barrier) (s : State) : State :=
  if x.phase ≠ ph then c.barStatus b pb false s else c.waitOn (c.barOp ph false) [destOf (.p pb) c.x] s

/-- BARW (R208). -/
def execBarw (h : Ctl) (b pb : Nat) (s : State) : Host.Outcome State Fault Refusal :=
  issue (.barw h b pb) (fun c => c.barForm b fun x =>
    if x.broken || c.barBroke then c.barStatus b pb true c.s
    else match c.barMade, tfind x.pending c.w.ix with
      | some ph, _ => c.barWait b pb ph x c.s
      | none, some ph => c.barWait b pb ph x (c.s.modBar c.w.team b fun x => { x with pending := tdel x.pending c.w.ix })
      | none, none =>
          if c.w.ix ∈ x.enrolled then c.barArriveWait b pb x false c.s
          else if x.allExited c.team.exited then c.barStatus b pb false c.s
          else c.barWait b pb x.phase x c.s) s

/-- BARAW: BARA, then BARW (R208). -/
def execBaraw (h : Ctl) (b pb : Nat) (s : State) : Host.Outcome State Fault Refusal :=
  issue (.baraw h b pb) (fun c => c.barForm b fun x =>
    if x.broken || c.barBroke then c.barStatus b pb true c.s
    else match c.barMade with
      | some ph => c.barWait b pb ph x c.s
      | none =>
          if c.w.ix ∉ x.enrolled then
            (if x.allExited c.team.exited then c.barStatus b pb false c.s else c.barWait b pb x.phase x c.s)
          else if c.barHeld b then c.s.block 1
          else
            let s := (c.s.release c.w .team (c.barLines b)).modBar c.w.team b fun x => { x with pending := tdel x.pending c.w.ix }
            c.barArriveWait b pb x true s) s

/-- The word of BARQ (R209). -/
def Barrier.word (x : Barrier) (ix : Nat) : DWord :=
  BitVec.ofNat 64 ((x.arrived.map fun i => 2 ^ i).sum * 2 ^ 32 + x.phase % 65536 * 2 ^ 16 + x.enrolled.length % 256 * 2 ^ 8
    + (thas x.pending ix).toNat * 2 + x.broken.toNat)

/-- BARQ (R209). -/
def execBarq (h : Ctl) (b d : Nat) (s : State) : Host.Outcome State Fault Refusal :=
  issue (.barq h b d) (fun c => c.barForm b fun x => c.fixed [c.toS d (c.uni [] (x.word c.w.ix))]) s

end Sys2Proof.Machine
end

