-- ==== Sys2Proof/Machine/EngineForms.lean ====
section
/-! DEFINITION. The tensor, engine, task and matrix forms, opcodes 0x240 to 0x24B and 0x280 to 0x289 (spec 18
R256-R277; 17 R238-R254; 19 R278-R281), and the completion of TDEF. -/

namespace Sys2Proof.Machine

/-! ## Tensor identifiers -/

/-- An identifier's entry is undefined on every die. -/
def State.dropTensor (s : State) (asid t : Nat) : State :=
  { s with tensors := s.tensors.filter fun x => x.1 % 2 ^ 24 ≠ tensorKey asid t }

/-- TDEF: one load of 64 bytes, which holds the path until the record has been read and validated (R262); with a
poisoned address it reads nothing and its entry becomes undefined (R260). -/
def execTdef (h : Ctl) (t a : Nat) (off : BitVec 16) (s : State) : Host.Outcome State Fault Refusal :=
  issue (.tdef h t a off) (fun c =>
    let l := lowest c.x
    let x := c.sOff a off
    if !c.any then c.finish c.s
    else if (c.rdS a).pois then c.variable [] (c.s.dropTensor c.hdr.asid t)
    else match c.s.aperture c.w l x 64 .load with
      | .error e => c.fault e c.x x
      | .ok gs => c.holdOn { c.op with todo := laneBit l, addrs := [(l, x)], segs := [(l, gs)], walked := false } [] c.s) s

/-- The identifier of a TDEF. -/
def Op.tdefId (o : Op) : Nat := match o.instr with | .tdef _ t _ _ => t | _ => 0

/-- Dies other than a wave's own on which an address space has a resident launch (R241). -/
def State.tensorDies (s : State) (asid die : Nat) : List Nat :=
  (List.range 8).filter fun d => d != die && s.launches.any fun l => l.2.hdr.asid == asid && l.2.st == .running && d ∈ l.2.dieList

/-- Some dies take the entry that a TDEF has read. Of concurrent TDEFs of one identifier the one that began to give its entry last
(`began`) gives it to every die, and no earlier one gives it to a die after that: all of them end with one entry (R241). -/
def State.spreadTensor (s : State) (op began : Nat) (dies : List Nat) (asid t : Nat) (x : Tensor) : State :=
  let s := s.setTensor dies asid t x
  { s with ops := s.ops.map fun (y : Nat × Op) =>
      if y.1 ≠ op ∧ y.2.isTdef ∧ y.2.tens ≠ [] ∧ y.2.seqDone < began ∧ y.2.tdefId = t ∧ s.asidOf y.2.wave = asid
      then (y.1, { y.2 with u := y.2.u.filter fun d => d.toNat ∉ dies }) else y }

/-- TDEF_COMPLETION: the record is read; a malformed one is TENSOR_FORMAT, a valid one becomes the entry on the issuing die,
with the touched bits of a filtered identifier clear, and the path goes on. Each further step gives the entry to one more die
(`u`) on which the address space has a resident launch; then the counter falls (R240, R241, R262, R279). -/
def execTdefCompletion (op : Nat) (s : State) : Host.Outcome State Fault Refusal :=
  match s.op op with
  | none => .next s
  | some o =>
      if !o.isTdef then .next s
      else match o.tens, o.u with
      | x :: _, d :: ds =>
          let s := (s.spreadTensor op o.seqDone [d.toNat] (s.asidOf o.wave) o.tdefId x).modOp op fun o => { o with u := ds }
          .next (if ds.isEmpty then s.opDone op false else s)
      | _ :: _, [] => .next (s.opDone op false)
      | [], _ =>
      match s.wave o.wave with
      | none => .next (s.delOp op)
      | some w =>
          let l := lowest o.todo
          if !o.walked || !o.ready l || s.heldBack op o l || s.retried w.team (o.seg l) then .next s
          else
            let bs := s.racedBytes w op o l (s.readSegs w.ck (o.seg l))
            let s := ((o.seg l).foldl (fun s g => s.touchPlace w.ck g.place) s).didRead w.ck op o (s.lanePlaces w o l) (o.seg l)
            match tensorOf bs with
            | none => .next (s.opFault op fTensorFormat 0 0 (o.addr l))
            | some t =>
                let a := (s.hdr w).asid
                let ds := s.tensorDies a w.die
                let s : State := { s with stamp := s.stamp + 1 }
                let s := s.spreadTensor op s.stamp ((List.range 8).filter fun d => d ∉ ds) a o.tdefId t
                let s : State := { s with touched := if t.filt then tdel s.touched (tensorKey a o.tdefId) else s.touched }
                .next (if ds.isEmpty then s.opDone op true
                  else (s.goOn op).modOp op fun o => { o with tens := [t], u := ds.map (BitVec.ofNat 64 ·), todo := 0, seqDone := s.stamp })

/-- The values that TQRY reads (R263). -/
def tqryVal (t : Option Tensor) (sel : Nat) : DWord :=
  match t with
  | none => 0
  | some t =>
      match sel with
      | 0 => t.base
      | 1 => t.sbase
      | 2 => BitVec.ofNat 64 (t.fmt * 2 ^ 28 + t.ndim * 2 ^ 25 + t.sgran * 2 ^ 23 + t.filt.toNat * 2 ^ 22)
      | 12 => 1
      | n => if n < 8 then BitVec.ofNat 64 (t.dim (n - 3)) else BitVec.ofNat 64 (t.stride (n - 7))

/-- TQRY (R263). -/
def execTqry (h : Ctl) (d : Dst) (t sel : Nat) (s : State) : Host.Outcome State Fault Refusal :=
  issue (.tqry h d t sel) (fun c =>
    c.variable (c.res64 d (fun _ => []) fun _ => tqryVal (c.s.tensorAt c.w.die c.hdr.asid t) sel) c.s) s

/-! ## Copies, quantisation and filter fetches -/

/-- The extra word of TENSOR_SHAPE (Table 28-11). -/
def shapeWord (td ts : Nat) : DWord := BitVec.ofNat 64 (td * 2 ^ 16 + ts)

/-- Both have the dimensions that CPY and QNT require equal. -/
def sameDims (d t : Tensor) : Bool := d.ndim == t.ndim && d.dims == t.dims

/-- The pairs of formats that CPY accepts (R271). -/
def cpyPair (d t : Tensor) : Bool :=
  if d.fmt = t.fmt then d.fmt != 3 || d.sgran == t.sgran else (fmtOf d.fmt).isSome && (fmtOf t.fmt).isSome

/-- CPY (R271). -/
def execCpy (h : Ctl) (ev : Option Nat) (td ts : Nat) (s : State) : Host.Outcome State Fault Refusal :=
  issue (.cpy h ev td ts) (fun c => c.named [td, ts] fun xs => match xs with
    | [d, t] =>
        if !sameDims d t || !cpyPair d t then c.fault fTensorShape 0 0 (shapeWord td ts)
        else
          let src := t.spans ++ (if copiesScales d t then [t.scales] else [])
          let dest := d.spans ++ (if copiesScales d t then [d.scales] else [])
          c.checked [] src dest (c.command (c.cmdOp xs []) src dest c.s)
    | _ => c.finish c.s) s

/-- An address that is not aligned, as a code. -/
def misAt (a : DWord) (n : Nat) : List (DWord × Nat) := if a.toNat % n = 0 then [] else [(a, fMisaligned)]

/-- CPYR (R272). -/
def execCpyr (h : Ctl) (ev : Option Nat) (td ts a : Nat) (s : State) : Host.Outcome State Fault Refusal :=
  issue (.cpyr h ev td ts a) (fun c => c.named [td, ts] fun xs => match xs with
    | [d, t] =>
        let x := (c.rdS a).val
        if d.fmt ≠ t.fmt ∨ d.ndim ≠ t.ndim ∨ d.ndim < 2 ∨ ([0, 2, 3, 4].any fun k => d.dim k != t.dim k) then
          c.fault fTensorShape 0 0 (shapeWord td ts)
        else
          let src := (x, 4 * d.dim 1) :: t.spans
          c.checked (misAt x 4) src d.spans (c.command (c.cmdOp xs [x]) src d.spans c.s)
    | _ => c.finish c.s) s

/-- QNT joins the quantiser's order of its core (R247, R273). -/
def execQnt (h : Ctl) (ev : Option Nat) (td ts : Nat) (s : State) : Host.Outcome State Fault Refusal :=
  issue (.qnt h ev td ts) (fun c => c.named [td, ts] fun xs => match xs with
    | [d, t] =>
        if (fmtOf t.fmt).isNone || d.fmt != 3 || d.sgran == 0 || !sameDims d t || 65536 < t.dims.prod * t.e then
          c.fault fTensorShape 0 0 (shapeWord td ts)
        else
          let dest := d.spans ++ [d.scales]
          c.checked [] t.spans dest (c.command (c.cmdOp xs []) t.spans dest
            (c.s.modCore c.ck fun k => { k with qnts := k.qnts ++ [c.s.opSeq] }))
    | _ => c.finish c.s) s

/-- WEIRGET: with a poisoned address or row operand it issues no command and posts a record (R260, R274). -/
def execWeirget (h : Ctl) (ev : Option Nat) (a ts r : Nat) (s : State) : Host.Outcome State Fault Refusal :=
  issue (.weirget h ev a ts r) (fun c =>
    let x := (c.rdS a).val
    let y := (c.rdS r).val
    if !c.any then c.finish c.s
    else if (c.rdS a).pois || (c.rdS r).pois then
      let o := c.cmdOp [] []
      let s := c.command { o with finished := true, record := some (o.recordOf 1 0xFFFFFFFF), seqDone := c.s.stamp + 1 } [] []
        { c.s with stamp := c.s.stamp + 1 }
      s.postRecords c.w.team 65
    else c.named [ts] fun xs => match xs with
      | [t] =>
          let f := y.toNat % 2 ^ 32
          let n := y.toNat / 2 ^ 32 % 2 ^ 16
          if !t.filt || n = 0 || 4096 < n || t.dim 1 < f + n then c.fault fTensorShape 0 0 (shapeWord 0 ts)
          else
            let src := (List.range n).map fun i => (t.row (f + i) 0, t.rowBytes)
            let dest := [(x, 2112 * n)]
            c.checked (misAt x 64) src dest (c.command (c.cmdOp xs [x, y]) src dest c.s)
      | _ => c.finish c.s) s

/-! ## Event queues -/

/-- The oldest record in vD to vD+3 (R275). -/
def Ctx.recWrites (c : Ctx) (d : Nat) (x : HWord) : List RegWrite :=
  [0, 1, 2, 3].map fun k => c.toV (d + k) fun l => c.lane [] (BitVec.ofNat 64 (x.toNat / 2 ^ (32 * k) % 2 ^ 32)) l

/-- A wave has taken the record of its own command `id`, and sees it complete (R226). -/
def Wave.sawRecord (v : Wave) (id : Nat) : Wave := { v with haz := v.haz.filter fun z => z.reg ≠ .p 7 ∨ z.op ≠ some id }

/-- Take the oldest record, the acquire of what its command wrote; a pending record enters the queue (R226, R252). -/
def Ctx.takeEvent (c : Ctx) : State :=
  let id := c.team.evOps.headD 0
  let s := c.s.modTeam c.w.team fun t =>
    { t with events := t.events.drop 1, evOps := t.evOps.drop 1, evReady := t.evReady - 1, evLast := some c.w.ix }
  let s := (s.modWave c.wk fun w => w.sawRecord id).noteTaken c.wk id
  s.postRecords c.w.team 65

/-- What a form that takes a record finds (R275): of the records in the queue when the cycle began, the oldest that no wave has
taken. -/
def Ctx.nextRecord (c : Ctx) : Option HWord := if c.team.evReady = 0 then none else c.team.events.head?

/-- A wave of a higher index has taken a record in this cycle: this one is not taken after it in the same cycle, whatever is left,
since of the forms of one cycle the lower index takes first (R275). -/
def Ctx.evLate (c : Ctx) : Bool := c.team.evLast.any fun k => c.w.ix < k

/-- EVPOP (R275); a lane whose guard is poisoned has its destinations poisoned, with or without a record (R68). -/
def execEvpop (h : Ctl) (d ps : Nat) (s : State) : Host.Outcome State Fault Refusal :=
  issue (.evpop h d ps) (fun c =>
    if !c.any then c.finish c.s
    else if c.evLate then c.s.block 0
    else match c.nextRecord with
      | some x => c.variable (c.recWrites d x ++ [c.toP ps fun l => c.lane [] 1 l]) c.takeEvent
      | none => c.variable ([0, 1, 2, 3].map (fun k => c.guardTag (.v (d + k))) ++ [c.toP ps fun l => c.lane [] 0 l]) c.s) s

/-- EVWAIT does not issue while the queue is empty (R275). -/
def execEvwait (h : Ctl) (d : Nat) (s : State) : Host.Outcome State Fault Refusal :=
  issue (.evwait h d) (fun c =>
    if !c.any then c.finish c.s
    else if c.evLate then c.s.block 0
    else match c.nextRecord with
      | some x => c.variable (c.recWrites d x) c.takeEvent
      | none => c.s.block 14) s

/-! ## Task forms (R253, R254, R276) -/

/-- The extra word of TASK_STATE. -/
def taskWord (cause ix : Nat) : DWord := BitVec.ofNat 64 (cause * 2 ^ 57 + ix)

def State.task (s : State) (die ix : Nat) : Task := tget (s.die die).tasks ix {}
def State.setTask (s : State) (die ix : Nat) (t : Task) : State :=
  s.modDie die fun d => { d with tasks := tput d.tasks ix t }

/-- A task form holds its path until the table has applied it. -/
def Ctx.taskForm (c : Ctx) (u : List DWord) (rs : List RegWrite) : State :=
  if !c.any then c.finish c.s else c.holdOn { c.op with u := 0 :: u } rs c.s

/-- TKDEF (R276). -/
def execTkdef (h : Ctl) (x : Nat) (s : State) : Host.Outcome State Fault Refusal :=
  issue (.tkdef h x) (fun c => c.taskForm [(c.rdS x).val, (c.rdS (x + 1)).val, (c.rdS (x + 2)).val] []) s

/-- TKDEC (R276). -/
def execTkdec (h : Ctl) (i n : Nat) (s : State) : Host.Outcome State Fault Refusal :=
  issue (.tkdec h i n) (fun c => c.taskForm [(c.rdS i).val] []) s

/-- TKPULL (R276). -/
def execTkpull (h : Ctl) (wait : Bool) (d ps types : Nat) (s : State) : Host.Outcome State Fault Refusal :=
  issue (.tkpull h wait d ps types) (fun c =>
    c.taskForm [] [destOf (.s d) (if c.any then 1 else 0), destOf (.s (d + 1)) (if c.any then 1 else 0), destOf (.p ps) c.x]) s

/-- TKDONE (R276). -/
def execTkdone (h : Ctl) (i : Nat) (s : State) : Host.Outcome State Fault Refusal :=
  issue (.tkdone h i) (fun c => c.taskForm [(c.rdS i).val] []) s

/-- A decrement by `n` of a WAITING or READY entry (Table 17-7). -/
def Task.dec (t : Task) (n : Nat) : Task :=
  if t.st = 1 then
    { t with count := t.count - n, under := t.under || decide (t.count < n), st := if t.count ≤ n then 2 else 1 }
  else { t with under := t.under || decide (1 ≤ n) }

/-- A successor's decrement by a TKDONE: on a FREE or TAKEN entry it only sets UNDER and sends an event (R276). -/
def State.taskSucc (s : State) (die ix : Nat) : State :=
  if ix = 0x3FFF then s
  else
    let t := s.task die ix
    if t.st = 1 ∨ t.st = 2 then s.setTask die ix (t.dec 1)
    else (s.setTask die ix { t with under := true }).event (.under die ix)

/-- The entry that a TKPULL takes: READY, of its address space and types, of lowest PRIO and then index (R254). -/
def pullPick (ts : Tab Task) (asid types : Nat) : Option (Nat × Task) :=
  (ts.filter fun x => x.2.st == 2 && x.2.asid == asid && types / 2 ^ x.2.ty % 2 == 1).foldl
    (fun (b : Option (Nat × Task)) x => match b with
      | none => some x
      | some y => if x.2.prio < y.2.prio then some x else some y) none

/-- The successors of an entry that a TKDONE decrements. -/
def Task.succs (t : Task) : List Nat := t.succ.filter (· ≠ 0x3FFF)

/-- An operation on a task entry is a read-modify-write of it: its wave meets the FENCEs before the earlier ones, and leaves its
own there (R278). -/
def State.taskRmw (s : State) (die k : Nat) (o : Op) : State :=
  let fs := tget (s.die die).taskFences k []
  let s := if fs.isEmpty then s else s.modWave o.wave fun w => { w with metFences := w.metFences ++ fs.filter (· ∉ w.metFences) }
  match o.fence with
  | some f => if f ∈ fs then s else s.modDie die fun d => { d with taskFences := tput d.taskFences k (fs ++ [f]) }
  | none => s

/-- The task table applies the operation of a pending task form (Table 17-7); of a TKDONE first the return to FREE, and then,
each time, one successor's decrement, each an operation of its own (R254). -/
def State.taskApply (s : State) (id : Nat) (o : Op) (w : Wave) : State :=
  let a := (s.hdr w).asid
  let v (k : Nat) : Nat := (o.u.getD (k + 1) 0).toNat
  let bad (cause ix : Nat) : State := s.opFault id fTaskState 0 0 (taskWord cause ix)
  let ix := v 0 % 2 ^ 14
  let t := s.task w.die ix
  match o.instr with
  | .tkdef _ _ =>
      if field (v 0) 63 34 ≠ 0 ∨ field (v 2) 63 56 ≠ 0 then bad 1 ix
      else if t.st ≠ 0 then bad (if t.asid = a then 0 else 2) ix
      else
        let n := field (v 0) 29 14
        ((s.taskRmw w.die ix o).setTask w.die ix
          { arg := o.u.getD 2 0, succ := [0, 1, 2, 3].map fun k => field (v 2) (14 * k + 13) (14 * k), count := n, asid := a
            ty := field (v 0) 31 30, prio := field (v 0) 33 32, st := if n = 0 then 2 else 1 }).opDone id true
  | .tkdec _ _ n =>
      if t.st = 0 then bad 0 ix
      else if t.asid ≠ a then bad 2 ix
      else if t.st = 3 then bad 0 ix
      else
        let s := s.taskRmw w.die ix o
        (if n = 0 then s else s.setTask w.die ix (t.dec n)).opDone id true
  | .tkdone _ _ =>
      match o.u.drop 2 with
      | k :: ks =>
          let s := (s.taskRmw w.die k.toNat o).taskSucc w.die k.toNat
          if ks.isEmpty then s.opDone id true else s.modOp id fun o => { o with u := o.u.take 2 ++ ks }
      | [] =>
          if t.st = 0 then bad 0 ix
          else if t.asid ≠ a then bad 2 ix
          else if t.st ≠ 3 then bad 0 ix
          else
            let s := (s.taskRmw w.die ix o).setTask w.die ix { t with st := 0 }
            if t.succs.isEmpty then s.opDone id true
            else s.modOp id fun o => { o with u := o.u.take 2 ++ t.succs.map (BitVec.ofNat 64 ·) }
  | .tkpull _ wait d ps types =>
      match pullPick (s.die w.die).tasks a types with
      | some (k, t) =>
          let s := (s.taskRmw w.die k o).setTask w.die k { t with st := 3 }
          (s.opWrite id [laneConst (.s d) 1 (BitVec.ofNat 64 (k + t.ty * 2 ^ 14 + t.prio * 2 ^ 16)), laneConst (.s (d + 1)) 1 t.arg,
            laneConst (.p ps) o.mask 1]).opDone id true
      | none => if wait then s else (s.opWrite id [laneConst (.p ps) o.mask 0]).opDone id true
  | _ => s

/-! ## Matrix products -/

/-- A matrix form's operand conditions (Table 18-3): its cause, if any is broken. The K that it needs and the
scales of a row come with it. -/
def Ctx.matrixBad (c : Ctx) (t : Tensor) (fmt k sgran : Nat) (slotCause : Option Nat) : Option Nat :=
  let off (a : DWord) (n : Nat) : Bool := match c.ownOff a with
    | some o => o + n ≤ c.scrSize
    | none => false
  let rs := rowsOf c.x
  if t.fmt ≠ fmt ∨ t.ndim ≠ 2 ∨ t.dim 1 ≠ 128 ∨ t.dim 0 ≠ k ∨ t.sgran ≠ sgran then some 0
  else match slotCause with
    | some x => some x
    | none =>
        if off t.base 0 && (sgran == 0 || off t.sbase 0) && rs.all (fun r => off (t.row r 0) t.rowBytes)
            && (sgran == 0 || rs.all fun r => off (t.scaleAt (r * ceil128 k)) (4 * ceil128 k)) then none
        else some 1

/-- The issue of a matrix product: TENSOR_UNDEF, ACC_STATE, the operand conditions, then the command. -/
def Ctx.product (c : Ctx) (acc ts : Nat) (fmt k sgran : Nat) (slotCause : Option Nat) (sparse : Bool) : State :=
  c.named [ts] fun xs => c.withAcc acc (match xs with
    | [t] =>
        match c.matrixBad t fmt k sgran slotCause with
        | some cause => c.fault fMatrixOperand 0 0 (causeWord cause 0)
        | none =>
            let src := (rowsOf c.x).flatMap fun r => (t.row r 0, t.rowBytes) ::
              (if sgran = 0 then [] else [(t.scaleAt (r * ceil128 k), 4 * ceil128 k)])
            c.checked [] src [] (c.command (c.cmdOp xs [if sparse then 2 else 1]) src [] c.s)
    | _ => c.finish c.s)

/-- Tag of a slot. -/
def Ctx.slotTag (c : Ctx) (n : Nat) : Nat := (c.s.wslot c.ck n).tag

/-- MMA (R268, R269). -/
def execMma (h : Ctl) (ev : Option Nat) (acc ts slot : Nat) (s : State) : Host.Outcome State Fault Refusal :=
  issue (.mma h ev acc ts slot) (fun c =>
    let sparse : Bool := c.slotTag slot == 2
    c.product acc ts 3 (if sparse then 256 else 128) 1 (if c.slotTag slot = 1 ∨ sparse then none else some 2) sparse) s

/-- MMAH (R268, R269). -/
def execMmah (h : Ctl) (ev : Option Nat) (bf : Bool) (acc ts slot : Nat) (s : State) : Host.Outcome State Fault Refusal :=
  issue (.mmah h ev bf acc ts slot) (fun c =>
    c.product acc ts (if bf then 2 else 1) 128 0
      (if slot % 2 = 1 then some 3 else if c.slotTag slot = 3 ∧ c.slotTag (slot + 1) = 3 then none else some 2) false) s

/-- MMAI (R268, R269). -/
def execMmai (h : Ctl) (ev : Option Nat) (acc ts slot : Nat) (s : State) : Host.Outcome State Fault Refusal :=
  issue (.mmai h ev acc ts slot) (fun c =>
    c.product acc ts 6 128 0 (if c.slotTag slot = 4 then none else some 2) false) s

/-! ## Accumulator rows, weight loads, grants -/

/-- MZERO (R270). -/
def execMzero (h : Ctl) (ev : Option Nat) (acc : Nat) (s : State) : Host.Outcome State Fault Refusal :=
  issue (.mzero h ev acc) (fun c => c.withAcc acc (c.command (c.cmdOp [] []) [] [] c.s)) s

/-- MLD and MST: the address lies in the own scratchpad and is 128-byte aligned, and R's rows in the allocation (R270). -/
def Ctx.accMove (c : Ctx) (acc a : Nat) (off : BitVec 16) (load : Bool) : State :=
  c.withAcc acc (
    let x := c.sOff a off
    match c.ownOff x with
    | none => c.fault fMatrixOperand 0 0 (causeWord 1 0)
    | some o =>
        let ovf := maskOf fun l => c.x.getLsbD l && c.scrSize < o + 512 * (4 * l + 3) + 512
        if x.toNat % 128 ≠ 0 then c.fault fMisaligned 0 x
        else if ovf ≠ 0 then c.fault fScratchBounds ovf (x + BitVec.ofNat 64 (max (2048 * lowest ovf) (c.scrSize - o)))
        else
          let rows := (rowsOf c.x).map fun r => (x + BitVec.ofNat 64 (512 * r), 512)
          c.command (c.cmdOp [] [x]) (if load then rows else []) (if load then [] else rows) c.s)

/-- MLD (R270). -/
def execMld (h : Ctl) (ev : Option Nat) (acc a : Nat) (off : BitVec 16) (s : State) : Host.Outcome State Fault Refusal :=
  issue (.mld h ev acc a off) (fun c => c.accMove acc a off true) s

/-- MST (R270). -/
def execMst (h : Ctl) (ev : Option Nat) (acc a : Nat) (off : BitVec 16) (s : State) : Host.Outcome State Fault Refusal :=
  issue (.mst h ev acc a off) (fun c => c.accMove acc a off false) s

/-- Bytes of an image that lie in the stack aperture: the fault of that row (R267). -/
def imageCodes (r : Span) : List (DWord × Nat) :=
  (checkPoints r).filterMap fun a =>
    let x := a.toNat - Config.localBase
    if canonical a && !isGlobal a && ((0x2000000 ≤ x && x < 0x2004000) || 0x80000000 ≤ x) then some (a, fStackBounds) else none

/-- WBLD: the layout tags are written at issue, the image by completion (R267). -/
def execWbld (h : Ctl) (ev : Option Nat) (layout : WLayout) (slot a : Nat) (off : BitVec 16) (s : State) :
    Host.Outcome State Fault Refusal :=
  issue (.wbld h ev layout slot a off) (fun c =>
    let x := c.sOff a off
    let src : List Span := [(x, imageBytes layout)]
    if !c.any then c.finish c.s
    else if layout = .h16 ∧ slot % 2 = 1 then c.fault fMatrixOperand 0 0 (causeWord 3 0)
    else c.checked (misAt x 64 ++ src.flatMap imageCodes) src [] (
      let tag (s : State) (n : Nat) : State := s.modSlot c.ck n fun y =>
        { y with tag := layoutTag layout, writer := some { wave := c.wk, op := c.s.opSeq, stamp := c.s.stamp + 1 } }
      c.command (c.cmdOp [] [x]) src [] ((if layout = .h16 then [slot, slot + 1] else [slot]).foldl tag
        { c.s with stamp := c.s.stamp + 1 }))) s

/-- ACCALLOC (R235, R244, R264). -/
def execAccalloc (h : Ctl) (try_ : Bool) (ps acc : Nat) (s : State) : Host.Outcome State Fault Refusal :=
  issue (.accalloc h try_ ps acc) (fun c =>
    let a := c.s.acc c.ck acc
    let say (x : DWord) (s : State) : State := c.variable [c.toP ps fun l => c.lane [] x l] s
    if !c.any then c.finish c.s
    else if c.holds acc then say 1 c.s
    else if a.holder.isNone then say 1 (c.s.accGive c.ck acc c.w.team)
    else if try_ then say 0 c.s
    else
      let id := c.s.opSeq
      let s := c.finish (c.pend id [destOf (.p ps) c.x] (c.s.addOp { c.op with writes := [c.guardTag (.p ps)] }))
      (s.modAcc c.ck acc fun a => { a with waiters := a.waiters ++ [id] }).breakCycles c.ck 16) s

/-- ACCFREE (R265). -/
def execAccfree (h : Ctl) (acc : Nat) (s : State) : Host.Outcome State Fault Refusal :=
  issue (.accfree h acc) (fun c => c.withAcc acc (c.finish (c.s.accFree c.ck acc c.w.team))) s

/-- A pending write that OPRFENCE waits for: to the team's scratchpad, the core's accumulators or its slots (R266). -/
def Ctx.oprWrite (c : Ctx) (o : Op) : Bool :=
  let here : Bool := ((c.s.actor o).1).ck == c.ck
  let scr (gs : List Seg) : Bool := gs.any fun g => match g.place with | .scr t _ => t == c.w.team | _ => false
  here && ((o.writesMem && (lanes o.todo).any fun l => scr (o.seg l))
    || (o.isCmd && !o.finished && (scr o.dest || (match o.instr with
      | .mma .. | .mmah .. | .mmai .. | .mzero .. | .mld .. | .wbld .. => true
      | _ => false))))

/-- A write that OPRFENCE waits for is pending. -/
def Ctx.oprLeft (c : Ctx) : Bool := c.s.ops.any fun x => x.1 < c.p.fence.getD c.s.cycleOp && c.oprWrite x.2

/-- OPRFENCE waits for the writes that were issued before the cycle in which it became a candidate for issue (R266). -/
def execOprfence (h : Ctl) (s : State) : Host.Outcome State Fault Refusal :=
  issue (.oprfence h) (fun c =>
    if !c.any then c.finish c.s
    else if c.oprLeft then
      (c.s.modWave c.wk fun w => w.setSlot c.slot ((w.slot c.slot).map fun p =>
        { p with fence := some (p.fence.getD c.s.cycleOp) })).block 11
    else (c.finish c.s).modWave c.wk fun w => { w with oprStamp := c.s.stamp, oprSeen := w.seen }) s

end Sys2Proof.Machine
end

