-- ==== Sys2Proof/Machine/Gauge.lean ====
section
/-! DEFINITION. The Gauge unit: samples, the reorder window, the merge, the check and the stop (23 R329-R334; 24
R335-R342), and the Gauge forms, opcodes 0x2E0 to 0x2E4 (25 R353-R358). Binary64 values are encodings. -/

namespace Sys2Proof.Machine

/-! ## The merge (R331) -/

/-- Merge a sample. -/
def GaugeUnit.merge (g : GaugeUnit) (x : Nat) : GaugeUnit :=
  let c := g.c + 1
  let m := g.mean.toNat
  let d := fp64.sub x m
  let m' := fp64.add m (fp64.div d (fp64.roundFrac .rn false (Frac.ofInt c)))
  let m2 := fp64.add g.m2.toNat (fp64.mul d (fp64.sub x m'))
  { g with c := c, mean := BitVec.ofNat 64 m', m2 := BitVec.ofNat 64 m2 }

/-- RNE64(M2 / (c − 1)) (R331). -/
def GaugeUnit.quot (g : GaugeUnit) : Nat := fp64.div g.m2.toNat (fp64.roundFrac .rn false (Frac.ofInt ((g.c : Int) - 1)))

/-- The variance register: the canonical NaN while c is below 2 (Table 25-1). -/
def GaugeUnit.var (g : GaugeUnit) : Nat := if g.c < 2 then fp64.nan else g.quot

/-- a ≤ b, exactly; false where a NaN takes part. -/
def le64 (a b : Nat) : Bool := ordered fp64 a b && fcompare fp64 a b ≤ 0

/-- The half-width of a check at rank n. -/
def GaugeUnit.halfWidth (g : GaugeUnit) (e : EstBlock) (n : Nat) : Nat :=
  fp64.mul e.z.toNat (fp64.sqrt (fp64.div g.quot (fp64.roundFrac .rn false (Frac.ofInt n))))

/-- |x| of a binary64 encoding. -/
def abs64 (x : Nat) : Nat := x % fp64.signBit

/-- THE CHECK when rank n − 1 closes: the first that passes fixes the stop rank (R331, R333). -/
def GaugeUnit.check (g : GaugeUnit) (e : EstBlock) : GaugeUnit :=
  let n := g.low
  if n < e.nmin ∨ (n - e.nmin) % e.stride ≠ 0 ∨ e.n < n then g
  else
    let hw := g.halfWidth e n
    let g := { g with hw := some (BitVec.ofNat 64 hw) }
    if 2 ≤ g.c ∧ (le64 hw e.tol.toNat || le64 hw (fp64.mul e.tolrel.toNat (abs64 g.mean.toNat))) then { g with st := 1, nstop := n }
    else g

/-- THE LOWEST OPEN RANK CLOSES, when its sample has come or its thread has ended (R331, R338, R339); when every rank
is closed, the merge is exhausted. -/
def GaugeUnit.step (g : GaugeUnit) (e : EstBlock) : GaugeUnit :=
  if g.st ≠ 0 then g
  else
    let next (g : GaugeUnit) : GaugeUnit :=
      let g := ({ g with low := g.low + 1 } : GaugeUnit).check e
      if g.st = 0 ∧ e.n ≤ g.low then { g with st := 2 } else g
    match tfind g.window g.low with
    | some x => next { (g.merge x.toNat) with window := tdel g.window g.low, merged := g.merged ++ [g.low] }
    | none => if g.low ∈ g.closed then next { g with closed := g.closed.filter (· ≠ g.low) } else g

/-! ## Samples (R337, R338) -/

/-- An FP32 sample as binary64. -/
def sample64 (x : Word) : DWord := BitVec.ofNat 64 (fp64.convert .rn (fp32.dec x.toNat))

/-- The rank is closed. -/
def GaugeUnit.isClosed (g : GaugeUnit) (r : Nat) : Bool := r < g.low || r ∈ g.closed

/-- Hand a sample to the unit; a rank that lies beyond the window is not admitted yet. -/
def GaugeUnit.hand (g : GaugeUnit) (r : Nat) (x : Word) : GaugeUnit :=
  if g.st ≠ 0 || g.isClosed r || r ∈ g.taken || g.low + 65536 ≤ r then g
  else { g with window := tput g.window r (sample64 x), taken := g.taken ++ [r] }

/-- The status of a lane's GADD; none while its rank is open (R332, R357). -/
def GaugeUnit.gadd (g : GaugeUnit) (r : Nat) : Option Bool :=
  if g.st = 1 ∧ g.nstop ≤ r then some false
  else if r ∈ g.merged then some true
  else if g.isClosed r then some false
  else none

/-- The status of a lane's GTEST; none while it waits (R332, R357). -/
def GaugeUnit.gtest (g : GaugeUnit) (r : Nat) : Option Bool := g.gadd r

/-- The Gauge unit of a wave's die and the block of its launch. -/
def State.unitOfWave (s : State) (w : Wave) : GaugeUnit := (s.die w.die).gauge
def State.estOf (s : State) (w : Wave) : Option EstBlock := (s.launch w.launch).bind Launch.est
def State.modGauge (s : State) (d : Nat) (f : GaugeUnit → GaugeUnit) : State := s.modDie d fun x => { x with gauge := f x.gauge }

/-- The samples of the pending GADDs of a wave that the window admits now, in the order of their issue: a lane's first GADD is
the one whose sample counts (R337). The wave may have ended. -/
def State.gaugeAdmit (s : State) (wk : Nat) (w : Wave) : State :=
  if !s.gaugeServes w then s
  else (s.opsOf wk).foldl (fun s o => match o.2.instr with
    | .gadd .. => (lanes o.2.todo).foldl (fun s l =>
        s.modGauge w.die fun g => g.hand (s.rank w l) ((tget o.2.data l []).headD 0)) s
    | _ => s) s

/-- GADD or GTEST of every lane: it completes when each has a status. -/
def State.gaugeAnswer (s : State) (id : Nat) (o : Op) (w : Wave) (k : Nat) (f : Nat → Option Bool) : State :=
  let ls := lanes o.mask
  if ls.any fun l => (f (s.rank w l)).isNone then s
  else
    (s.opWrite id [{ reg := .p k, mask := o.mask, vals := ls.map fun l => (l, if f (s.rank w l) = some true then 1 else 0) }]).opDone id false

/-! ## The forms -/

/-- GCFG loads an estimation block and replaces the generator context (R355). -/
def execGcfg (h : Ctl) (ps a : Nat) (off : Word) (s : State) : Host.Outcome State Fault Refusal :=
  issue (.gcfg h ps a off) (fun c =>
    if !c.any then c.finish c.s
    else c.access { c.op with
      todo := laneBit (lowest c.x), u := [0]
      addrs := [(lowest c.x, (c.rdS a).val + off.signExtend 64)] } [destOf (.p ps) c.x]) s

/-- π(r) under a context (R356). -/
def GaugeCtx.item (g : GaugeCtx) (r : Nat) : Word :=
  if r < g.n.toNat then BitVec.ofNat 32 (permute g.gen g.n.toNat g.seed.toNat g.a.toNat g.c.toNat r) else 0xFFFFFFFF

/-- GPERM (R356). -/
def execGperm (h : Ctl) (d : Nat) (a : Src) (s : State) : Host.Outcome State Fault Refusal :=
  issue (.gperm h d a) (fun c =>
    c.variable [c.toV d fun l => c.lane [c.rd a l] ((c.w.gctx.item ((c.rd a l).val.setWidth 32).toNat).setWidth 64) l] c.s) s

/-- GADD hands the samples of the executing lanes to the unit, and completes lane by lane (R337, R357). -/
def execGadd (h : Ctl) (ps : Nat) (a : Src) (s : State) : Host.Outcome State Fault Refusal :=
  issue (.gadd h ps a) (fun c =>
    if !c.any then c.finish c.s
    else if (c.s.estOf c.w).isNone then c.fault fGaugeState
    else
      let o : Op := { c.op with data := (lanes c.x).map fun l => (l, [(c.rd a l).val.setWidth 32]) }
      c.finish (c.pend c.s.opSeq [destOf (.p ps) c.x] ((c.s.addOp o).gaugeAdmit c.wk c.w))) s

/-- GTEST (R332, R357). -/
def execGtest (h : Ctl) (pd : Nat) (s : State) : Host.Outcome State Fault Refusal :=
  issue (.gtest h pd) (fun c =>
    if !c.any then c.finish c.s
    else if (c.s.estOf c.w).isNone then c.fault fGaugeState
    else c.finish (c.pend c.s.opSeq [destOf (.p pd) c.x] (c.s.addOp c.op))) s

/-- The value of a Gauge register for a wave (Table 25-1). -/
def State.gaugeValue (s : State) (w : Wave) (sel : Nat) : DWord :=
  let g := s.unitOfWave w
  let x := w.gctx
  match sel with
  | 10 => BitVec.ofNat 64 (x.gen * 2 ^ 32 + x.n.toNat)
  | 11 => x.seed
  | 12 => BitVec.ofNat 64 (x.a.toNat * 2 ^ 32 + x.c.toNat)
  | _ =>
      match s.estOf w with
      | none => if sel = 6 then BitVec.ofNat 64 (3 * 2 ^ 32 + 0xFFFFFFFF) else 0
      | some e =>
          match sel with
          | 0 => BitVec.ofNat 64 g.c
          | 1 => g.mean
          | 2 => g.m2
          | 3 => BitVec.ofNat 64 g.var
          | 4 => g.hw.getD (BitVec.ofNat 64 fp64.nan)
          | 5 => BitVec.ofNat 64 g.low
          | 6 => BitVec.ofNat 64 (g.st * 2 ^ 32 + g.nstop)
          | 7 => e.tol
          | 8 => e.tolrel
          | 9 => e.z
          | _ => 0

/-- GQ reads its register when it completes (R358). -/
def execGq (h : Ctl) (sel : Nat) (d : Dst) (s : State) : Host.Outcome State Fault Refusal :=
  issue (.gq h sel d) (fun c =>
    if !c.any then c.finish c.s
    else
      let rs := c.res64 d (fun _ => []) fun _ => 0
      c.finish (c.pend c.s.opSeq (rs.map fun r => destOf r.reg r.mask) (c.s.addOp { c.op with writes := rs }))) s

/-- GQ completes: its destinations receive the register's value now, the poison of a guard apart. -/
def State.gqDone (s : State) (id : Nat) (w : Wave) (sel : Nat) (d : Dst) : State :=
  let x := s.gaugeValue w sel
  let val (r : RegWrite) : DWord := match d, r.reg with
    | .v n, .v k => if k = n then (x.setWidth 32).setWidth 64 else x >>> 32
    | _, _ => x
  (s.modOp id fun o => { o with writes := o.writes.map fun r =>
    { r with vals := r.vals.map fun y => if r.pois.getLsbD y.1 then y else (y.1, val r) } }).opDone id false

/-- At the stop, the clusters none of whose teams has begun are released unrun (R340, Table 24-2). -/
def State.releaseUnrun (s : State) (lk : Nat) : State :=
  let ran (cl : Nat) : Bool := s.teams.any fun u => u.2.launch == lk && u.2.cluster == cl && u.2.begun
  (s.teams.filter fun t => t.2.launch == lk && !t.2.freed && !ran t.2.cluster).foldl (fun s t =>
    let ck := coreKey t.2.die t.2.core
    let v := ((s.launch lk).map fun l => l.hdr.v).getD 8
    let s : State := { s with waves := s.waves.filter (fun (w : Nat × Wave) => w.2.team != t.1), teams := tdel s.teams t.1 }
    let s := match t.2.base with
      | some b => s.granFree ck (blockGrans b t.2.waves v)
      | none => s
    let s := (s.granFree ck t.2.gran).modCore ck fun c => { c with barUsed := c.barUsed - t.2.bars }
    s.modDie t.2.die fun d => { d with slots := d.slots.map fun (b : Nat × BindRec) =>
      (b.1, { b.2 with waiting := b.2.waiting.filter (· ≠ t.1) }) }) s

/-- GAUGE_MERGE: waiting samples are admitted, and the lowest open rank of a die's unit closes (R331, R338). -/
def State.gaugeMerge (s : State) (d : Nat) : State :=
  match (s.die d).gauge.launch.bind s.launch |>.bind Launch.est with
  | none => s
  | some e =>
      if ((s.die d).gauge.launch.bind s.launch).any fun l => l.aborted.isSome then s else
      let s := s.ops.foldl (fun s o => match o.2.instr with
        | .gadd .. => if (s.actor o.2).1.die = d then s.gaugeAdmit o.2.wave (s.actor o.2).1 else s
        | _ => s) s
      let s := s.modGauge d fun g => g.step e
      match (s.die d).gauge.st, (s.die d).gauge.launch with
      | 1, some lk => s.releaseUnrun lk
      | _, _ => s

def execGaugeMerge (die : Nat) (s : State) : Host.Outcome State Fault Refusal := .next (s.gaugeMerge die)

end Sys2Proof.Machine
end

