-- ==== Sys2Proof/Machine/Place.lean ====
section
/-! DEFINITION. Placing teams on cores: the granules, barrier slots and wave slots that a core has left (R83-R85,
R386), an attempt to place a cluster on a polder (R384), and the claim that follows it (R86). -/

namespace Sys2Proof.Machine

/-- What a core holds, as an attempt sees it. -/
structure Room where
  /-- bit g: granule g is in REG or SCR, or is claimed -/
  used : Nat := 0
  /-- bit g: granule g is in DRAIN for no claim any more -/
  drain : Nat := 0
  bars : Nat := 0
  /-- wave slots in use -/
  slots : List Nat := []
  /-- waves of the launch that is placed -/
  mine : Nat := 0
  /-- waves of another launch, and of another deterministic launch -/
  alien : Bool := false
  alienDet : Bool := false
  deriving DecidableEq, Repr

/-- Where a team goes: its register base granule, scratchpad granules in allocation order, and wave slots. -/
structure Spot where
  base : Nat
  scr : List Nat
  slots : List Nat
  deriving DecidableEq, Repr

/-- Granules of a register block (R83). -/
def blockGran (waves v : Nat) : Nat := blockSlots waves v / 32

/-- Granules left in CACHE or DRAIN. -/
def Room.free (r : Room) : List Nat := (List.range Config.granules).filter fun g => !r.used.testBit g

/-- The lowest base of `n` granules in CACHE or DRAIN at a multiple of 256 register slots (R83); with `contig` false, any `n`
granules will do (R388). -/
def Room.block (r : Room) (contig : Bool) (n : Nat) : Option (List Nat) :=
  if contig then
    ((List.range (Config.granules / 8)).find? fun k => 8 * k + n ≤ Config.granules && r.used / 2 ^ (8 * k) % 2 ^ n == 0).map
      fun k => (List.range n).map fun j => 8 * k + j
  else if n ≤ r.free.length then some (r.free.take n) else none

/-- Granules as bits. -/
def granBits (gs : List Nat) : Nat := gs.foldl (fun x g => x ||| 2 ^ g) 0

/-- Wave count of a team of m threads (R18). -/
def wavesOf (threads : Nat) : Nat := (threads + 31) / 32

/-- R386: a team of a stage passes a core, with what the core then holds. -/
def Room.fit (r : Room) (contig : Bool) (v wpc : Nat) (det : Bool) (st : Stage) : Option (Spot × Room) :=
  let w := wavesOf st.threads
  let n := blockGran w v
  if r.free.length < n + st.gran + Config.minCacheGranules then none
  else if Config.barrierSlots < r.bars + st.bars ∨ Config.waveSlots < r.slots.length + w ∨ wpc < r.mine + w then none
  else if r.alienDet ∨ (det ∧ r.alien) then none
  else match r.block contig n with
    | none => none
    | some b =>
        let used := r.used ||| granBits b
        let scr := (((List.range Config.granules).filter fun g => !used.testBit g && !r.drain.testBit g).reverse).take st.gran
        let ws := ((List.range Config.waveSlots).filter fun k => k ∉ r.slots).take w
        if scr.length < st.gran then none
        else some (⟨b.headD 0, scr, ws⟩, { r with
          used := used ||| granBits scr, bars := r.bars + st.bars, slots := r.slots ++ ws, mine := r.mine + w })

/-- Teams of a cluster in ascending logical team index: each goes on the first core, from the one after the last
placed on, that passes (R384). `rooms` are the polder's cores that may receive teams, ascending. -/
def placeTeams (contig : Bool) (h : LaunchRec) (wpc : Nat) : List Nat → Nat → List (Nat × Room) → Option (List (Nat × Nat × Spot))
  | [], _, _ => some []
  | j :: js, k, rooms =>
      let n := rooms.length
      let st := h.stages.getD (stageOf h j) ⟨0, 0, 1, 0⟩
      match (List.range n).findSome? fun i =>
          let x := (k + i) % n
          (rooms[x]?).bind fun r => (r.2.fit contig h.v wpc h.det st).map fun f => (x, r.1, f) with
      | none => none
      | some (x, core, sp, room) =>
          (placeTeams contig h wpc js ((x + 1) % n) (rooms.set x (core, room))).map fun t => (j, core, sp) :: t

/-- Teams of a cluster. -/
def LaunchRec.ltis (h : LaunchRec) : List Nat := List.range (h.s * h.n)

/-- One cluster fits an empty polder whose four cores are all bound, with WPC 64 (R21, R386). -/
def LaunchRec.fits (h : LaunchRec) : Bool := (placeTeams true h 64 h.ltis 0 [(0, {}), (1, {}), (2, {}), (3, {})]).isSome

/-- The waves that are on a core. -/
def State.wavesOn (s : State) (ck : Nat) : List (Nat × Wave) :=
  s.waves.filter fun x => coreKey x.2.die x.2.core == ck && !(s.teamOf x.2).out

/-- What a core holds for a launch. -/
def State.roomOf (s : State) (ck lk : Nat) : Room :=
  let c := s.core ck
  let ws := s.wavesOn ck
  let others := ws.filter fun x => x.2.launch != lk
  let loose (g : Nat × Gran) : Bool := g.2 == .drain && tfind c.drains g.1 == some .cache
  { used := granBits ((c.grans.filter fun g => !loose g).map (·.1)), drain := granBits ((c.grans.filter loose).map (·.1)), bars := c.barUsed, slots := ws.map (·.2.wslot)
    mine := (ws.filter fun x => x.2.launch == lk).length, alien := !others.isEmpty
    alienDet := others.any fun x => (s.hdr x.2).det }

/-- Cores of a polder that a bind record names, ascending. -/
def polderCores (cores : BitVec 128) (p : Nat) : List Nat := ((List.range 4).map fun k => 4 * p + k).filter fun k => cores.getLsbD k

/-- An attempt to place a cluster of a launch on a polder (R384). -/
def State.attempt (s : State) (contig : Bool) (die : Nat) (b : BindRec) (h : LaunchRec) (p : Nat) : Option (List (Nat × Nat × Spot)) :=
  let cs := polderCores b.cores p
  if cs.isEmpty then none
  else placeTeams contig h b.wpc h.ltis 0 (cs.map fun k => (k, s.roomOf (coreKey die k) b.launch))

/-- Claim granules: they enter DRAIN, and then the state `goal`; the lines that the core's L1 has no granules for any more are
written back and invalidated (R86). -/
def State.claimGrans (s : State) (ck : Nat) (gs : List Nat) (goal : Gran) : State :=
  (s.modCore ck fun c => { c with grans := gs.foldl (fun t g => tput t g .drain) c.grans
                                  drains := gs.foldl (fun t g => tput t g goal) c.drains }).trimL1 ck

/-- Lanes of wave `ix` that are not permanently inactive (R18, R329): `rank0` is the rank of the team's thread 0. -/
def liveLanes (threads ix rank0 : Nat) (est : Option EstBlock) : Mask :=
  maskOf fun l => 32 * ix + l < threads && (match est with | none => true | some e => rank0 + 32 * ix + l < e.n)

/-- A wave as it starts (R24, R81, R353, R377). -/
def startWave (lk : Nat) (l : Launch) (tk cluster lti die core wslot ix : Nat) : Wave :=
  let h := l.hdr
  let st := h.stages.getD (stageOf h lti) ⟨0, 0, 1, 0⟩
  let live := liveLanes st.threads ix ((cluster * h.n + teamInStage h lti) * st.threads) l.est
  { launch := lk, team := tk, ix := ix, die := die, core := core, wslot := wslot, priv := l.priv, live := live, seen := l.seen
    regs := { s := h.args.zipIdx.foldl (fun t x => tset t x.2 x.1 0) [] }
    slot0 := if live = 0 then none else some { pc := st.entry, mask := live }
    gctx := match l.est with
      | none => {}
      | some e => { n := BitVec.ofNat 32 e.n, gen := e.gen, seed := e.seed, a := e.a, c := e.c } }

/-- A team takes its place: its granules are claimed, its barrier slots taken, and its waves stand in their slots
(R86, R386). -/
def State.placeTeam (s : State) (lk : Nat) (l : Launch) (die cluster : Nat) (x : Nat × Nat × Spot) : State :=
  let (lti, core, sp) := x
  let h := l.hdr
  let st := h.stages.getD (stageOf h lti) ⟨0, 0, 1, 0⟩
  let tk := teamKey lk cluster lti
  let w := wavesOf st.threads
  let ck := coreKey die core
  let s := s.claimGrans ck ((List.range (blockGran w h.v)).map fun k => sp.base + k) (.reg tk)
  let s := s.claimGrans ck sp.scr (.scr tk)
  let s := s.modCore ck fun c => { c with barUsed := c.barUsed + st.bars }
  let s := { s with
    opSeq := s.opSeq + 1
    teams := tput s.teams tk { launch := lk, cluster := cluster, lti := lti, die := die, core := core, waves := w
                               base := some (32 * sp.base), gran := sp.scr, bars := st.bars, age := s.opSeq } }
  (List.range w).foldl (fun s i =>
    s.setWave (waveKey tk i) (startWave lk l tk cluster lti die core (sp.slots.getD i 0) i)) s

end Sys2Proof.Machine
end

