-- ==== Sys2Proof/Machine/Queue.lean ====
section
/-! DEFINITION. The launch record (Tables 27-1, 27-2), the refusals (R378, Table 27-3), the launch queue (R379),
the completion record and its ring (Table 27-4, R381). -/

namespace Sys2Proof.Machine

/-! ## The record -/

/-- A stage descriptor (Table 27-2). -/
def stageRec (y : Nat) : Stage :=
  { bars := field y 97 88, gran := field y 87 80, threads := field y 74 64, entry := BitVec.ofNat 64 (field y 63 0) }

/-- A header and its stage descriptors (Table 27-1). -/
def launchRecOf (x : Nat) (ys : List Nat) : LaunchRec :=
  let d (hi lo : Nat) : DWord := BitVec.ofNat 64 (field x hi lo)
  { cring := d 703 640, log := d 639 576, dump := d 575 512, estb := d 511 448, sb := d 447 384
    dumpsz := field x 319 288, g := field x 287 256, dep1 := field x 255 224, dep0 := field x 223 192, lid := field x 191 160
    dept1 := field x 159 144, dept0 := field x 143 128, stagger := field x 127 112, lstk := field x 111 99
    asid := field x 95 84, v := field x 83 75, s := field x 74 71 + 1, n := field x 70 67 + 1, opp := field x 66 64
    dmax := field x 56 54 + 1, dmin := field x 53 51 + 1, fact := field x 50 49, rrmode := field x 48 47
    scb := field x 46 46 == 1, det := field x 45 45 == 1, prio := field x 44 43, stages := ys.map stageRec }

/-- NARG and ARGS. -/
def recNarg (x : Nat) : Nat := field x 63 57
def recArgs (x : Nat) : DWord := BitVec.ofNat 64 (field x 383 320)

/-- A reserved field of the record is set. -/
def recReserved (x : Nat) (ys : List Nat) : Bool :=
  field x 1023 704 != 0 || field x 98 96 != 0 || field x 42 0 != 0 || field x 158 158 != 0 || field x 142 142 != 0
    || ys.any fun y => field y 127 98 != 0 || field y 79 75 != 0

/-- The record's own fields are refused (REFUSED_FORMAT). -/
def recBad (x : Nat) (ys : List Nat) : Bool :=
  let h := launchRecOf x ys
  recReserved x ys || h.fact == 3 || h.rrmode == 3 || 5 ≤ h.opp || 64 < recNarg x
    || (recNarg x != 0 && (recArgs x).toNat % 8 != 0)
    || h.g < 1 || 2 ^ 31 < h.g || 16 < h.n * h.s
    || h.stages.any (fun st => st.threads < 1 || 1024 < st.threads || 128 < st.gran || 512 < st.bars)
    || h.v < 8 || 256 < h.v || h.v % 8 != 0 || 4096 < h.lstk || h.sb.toNat % 0x4000 != 0 || !isGlobal h.sb
    || h.stages.any (fun st => !pcForm st.entry)
    || h.stages.any (fun st => st.entry.toNat / 2 ^ 32 != (h.stages.headD ⟨0, 0, 1, 0⟩).entry.toNat / 2 ^ 32)
    || h.dmax < h.dmin || h.g % h.dmax != 0
    || (h.fact == 2 && (h.dump.toNat % 64 != 0 || h.dumpsz % 64 != 0))

/-- The estimation block (Table 23-1). -/
def estBlock (x : Nat) : EstBlock :=
  let d (hi lo : Nat) : DWord := BitVec.ofNat 64 (field x hi lo)
  let w (hi lo : Nat) : Word := BitVec.ofNat 32 (field x hi lo)
  { result := d 511 448, tolrel := d 447 384, tol := d 383 320, z := d 319 256, c := w 255 224, a := w 223 192
    gen := field x 161 160, stride := field x 159 128, nmin := field x 127 96, n := field x 95 64, seed := d 63 0 }

/-- R329 and R335 refuse the block. -/
def estBad (h : LaunchRec) (x : Nat) : Bool :=
  let e := estBlock x
  h.s != 1 || h.g * h.n * (h.stages.headD ⟨0, 0, 1, 0⟩).threads < e.n || field x 191 162 != 0 || 1 < e.gen || e.n < 2
    || e.nmin < 2 || e.stride == 0 || (e.gen == 1 && Nat.gcd e.a.toNat e.n != 1)

/-! ## Reads of the firmware -/

/-- The first address of a range whose page meets a code. -/
def State.fwBad (s : State) (die asid : Nat) (a : DWord) (n : Nat) : DWord :=
  ((List.range (n / 4096 + 2)).map fun k => if k = 0 then a else BitVec.ofNat 64 ((a.toNat / 4096 + k) * 4096)).find?
    (fun x => match s.translate die asid (x.toNat % 2 ^ 57) .load with | .code _ => true | .ok .. => false) |>.getD a

/-! ## Logs (R211-R214) -/

/-- A log header as a number (Table 13-3). -/
def logBad (x : Nat) : Bool :=
  field x 0 0 != 1 || field x 1 1 != 0 || field x 2 2 != 0 || field x 31 8 != 0 || field x 127 96 != 0 || field x 511 256 != 0

/-- The records of a log, each as a number. -/
def State.logRecords (s : State) (die : Nat) (h : LaunchRec) (n : Nat) : Except Nat (List Nat) :=
  match s.fwRead die h.asid (h.log + 64) (16 * n) with
  | .error c => .error c
  | .ok bs => .ok ((List.range n).map fun k => leNat ((bs.drop (16 * k)).take 16))

/-- The chunks of a log, by unit, in log order. -/
def chunksOf (rs : List Nat) : Tab (List Chunk) :=
  rs.foldl (fun t r => let u := field r 127 74
                       tput t u (tget t u [] ++ [⟨field r 73 34, field r 33 18⟩])) []

/-- What the log of a launch gives at queueing: none when a replay is refused. While a line of it is pinned, `fRetry` (R222). -/
def State.logOpen (s : State) (die : Nat) (h : LaunchRec) : Except Nat (Option RR) :=
  let stop (c : Nat) (r : Option RR) : Except Nat (Option RR) := if c = fRetry then .error c else .ok r
  if h.rrmode = 0 then .ok (some {})
  else
    match s.fwRead die h.asid h.log 64 with
    | .error c => stop c (if h.rrmode = 1 then some { ovf := true } else none)
    | .ok bs =>
        let x := leNat bs
        if h.rrmode = 1 then .ok (some { limit := field x 95 64 })
        else if logBad x then .ok none
        else match s.logRecords die h (field x 63 32) with
          | .error c => stop c none
          | .ok rs =>
              if rs.any fun r => field r 0 0 != 1 || field r 33 18 == 0 || field r 17 1 != 0 then .ok none
              else .ok (some { chunks := chunksOf rs, count := field x 63 32, logHash := BitVec.ofNat 64 (field x 191 128) })

/-- RCAUSE := 5 and RDONE := 1 in a refused log (R214). -/
def State.logRefused (s : State) (die : Nat) (h : LaunchRec) : State :=
  match s.fwRead die h.asid h.log 1 with
  | .error _ => s
  | .ok bs => match s.asidWrite die h.asid h.log [BitVec.ofNat 8 (leNat bs % 8 + 8 + 16 * 5)] with
    | .ok s => s
    | .error _ => s

/-! ## The queue -/

/-- A launch stands in its die's queue until its last cluster is dispatched (R379). -/
def State.inQueue (s : State) (lk : Nat) (l : Launch) : Bool :=
  match l.st with
  | .queued | .eligible => true
  | .done => false
  | .running => l.aborted.isNone && s.dies.any fun d => d.2.slots.any fun b => b.2.launch == lk && b.2.next ≤ b.2.cllast

/-- What the checks of R378 come to. -/
inductive QCheck where
  | refused (status detail : Nat) (h : Option LaunchRec)
  /-- a page of the record or of the argument block is not resident -/
  | park (va : DWord) (h : Option LaunchRec)
  /-- a line that is read is pinned by a team: the checks are made again (R222) -/
  | wait
  | ok (l : Launch)
  deriving DecidableEq, Repr

/-- The record at an address: its header and descriptors, or the code and address of a read that fails. -/
def State.readRecord (s : State) (die asid : Nat) (addr : DWord) : Except (Nat × DWord) (Nat × List Nat) :=
  match s.fwRead die asid addr 128 with
  | .error c => .error (c, s.fwBad die asid addr 128)
  | .ok bs =>
      let x := leNat bs
      let n := field x 74 71 + 1
      match s.fwRead die asid (addr + 128) (16 * n) with
      | .error c => .error (c, s.fwBad die asid (addr + 128) (16 * n))
      | .ok ys => .ok (x, (List.range n).map fun k => leNat ((ys.drop (16 * k)).take 16))

/-- The lines of a record and of its argument block are reached through their mappings (R177). -/
def State.recReach (s : State) (die asid : Nat) (addr : DWord) : State :=
  match s.readRecord die asid addr with
  | .error _ => s
  | .ok (x, ys) => (s.asidReach die asid addr (128 + 16 * ys.length)).asidReach die asid (recArgs x) (8 * recNarg x)

/-- THE CHECKS OF A LAUNCH, in the order of R378, on the die where it is to be queued; the record and the argument
block are read in the address space `asid`, translated on `die`. `priv` says that its waves are privileged (R411), `opp` that
its OPP may be honoured (R390). -/
def State.checkLaunch (s : State) (die home asid : Nat) (addr : DWord) (priv opp : Bool) : QCheck :=
  if addr.toNat % 128 ≠ 0 then .refused 1 0 none
  else match s.readRecord die asid addr with
  | .error (c, va) => if c = fRetry then .wait else if c = fNotResident then .park va none else .refused 7 0 none
  | .ok (x, ys) =>
    let h := launchRecOf x ys
    let no (st detail : Nat) : QCheck := .refused st detail (some h)
    if recBad x ys then no 1 0
    else if !s.asEnabled home h.asid then no 3 0
    else
      let n := 8 * recNarg x
      match s.fwRead die asid (recArgs x) n with
      | .error c => if c = fRetry then .wait else if c = fNotResident then .park (s.fwBad die asid (recArgs x) n) (some h) else no 7 0
      | .ok as =>
        let h := { h with args := (List.range (recNarg x)).map fun k => BitVec.ofNat 64 (leNat ((as.drop (8 * k)).take 8)) }
        if h.cring != 0 && s.asidHeld home h.asid h.cring 32 then .wait
        else if h.cring != 0 && !(s.fwRead home h.asid h.cring 32).isOk then no 7 0
        else if h.estb ≠ 0 ∧ (h.estb.toNat % 64 ≠ 0 ∨ 1 < h.dmax) then no 4 0
        else
          match (if h.estb = 0 then .ok [] else s.fwRead home h.asid h.estb 64 : Except Nat (List Byte)) with
          | .error c => if c = fRetry then .wait else no 7 0
          | .ok eb =>
            if h.estb ≠ 0 ∧ estBad h (leNat eb) then no 4 0
            else match s.logOpen home h with
            | .error _ => .wait
            | .ok none => no 5 5
            | .ok (some rr) =>
              if !h.fits then no 2 0
              else if 1024 ≤ (s.launches.filter fun l => l.2.home == home && s.inQueue l.1 l.2).length then no 6 0
              else .ok { home := home, qseq := (s.die home).qnext, hdr := h, rr := rr, priv := priv, oppOk := opp
                         est := if h.estb = 0 then none else some (estBlock (leNat eb)) }

/-- The lines that the checks of a launch read in its own address space are reached through their mappings (R177). -/
def State.queueReach (s : State) (l : Launch) : State :=
  let h := l.hdr
  let s := if h.cring = 0 then s else s.asidReach l.home h.asid h.cring 32
  let s := if h.estb = 0 then s else s.asidReach l.home h.asid h.estb 64
  if h.rrmode = 0 then s else s.asidReach l.home h.asid h.log (64 + (if h.rrmode = 2 then 16 * l.rr.count else 0))

/-- THE ENTRY INTO THE QUEUE (R379): the launch takes its number. What stood before is visible to its fetches and to
its accesses (R51, R414), so every core's dirty lines are written back and the instruction caches are emptied. -/
def State.enqueue (s : State) (l : Launch) : State :=
  let s := s.cores.foldl (fun s c => s.flushL1 c.1) s
  let s := s.queueReach l
  let s := s.modDie l.home fun d => { d with qnext := d.qnext + 1 }
  { s with icache := [], opSeq := s.opSeq + 1, launches := tput s.launches (launchKey l.home l.qseq) { l with order := s.opSeq } }

/-- A refused launch: its log is marked, and its completion record is owed where the record names a ring (R378). -/
def State.refuse (s : State) (home status detail : Nat) (h : Option LaunchRec) : State :=
  match h with
  | none => s
  | some h =>
      let s := if status = 5 then s.logRefused home h else s
      if h.cring = 0 then s
      else { s with opSeq := s.opSeq + 1
                    launches := tput s.launches (2 ^ 72 + s.opSeq)
                      { home := home, qseq := 2 ^ 64 - 1, hdr := h, st := .done, owed := true, refused := some (status, detail) } }

/-- The value that LAUNCH and START report (R414). -/
def refusedWord (status : Nat) : DWord := BitVec.ofNat 64 (2 ^ 64 - 256 + status)

/-! ## The completion record -/

/-- The status of a completed launch and its DETAIL (Table 27-3, R378): the lowest row that holds. -/
def Launch.status (l : Launch) : Nat × Nat :=
  match l.refused with
  | some x => x
  | none =>
      if l.dumpFailed then (11, 0)
      else if l.aborted = some 10 then (10, l.faultCode)
      else if l.aborted = some 12 then (12, l.faultCode)
      else if l.aborted = some 13 then (13, 0)
      else match l.rr.cause with
        | some c => (9, c)
        | none =>
            if l.resultCode ≠ 0 then (14, l.resultCode)
            else if l.storage then (8, 0)
            else (0, 0)

/-- The record (Table 27-4). -/
def Launch.completion (l : Launch) : List Byte :=
  let (st, detail) := l.status
  leBytes 8 l.qseq ++ leBytes 2 detail ++ [0, BitVec.ofNat 8 st] ++ leBytes 4 l.hdr.lid

/-- Enqueue one element on a ring as ENQ does (R198); none while the ring is full or does not translate, or its block
is not that of a ring of such elements. -/
def State.ringPush (s : State) (die asid : Nat) (a : DWord) (bs : List Byte) : Option State :=
  match s.fwRead die asid a 32 with
  | .error _ => none
  | .ok cb =>
      match ringOf cb with
      | none => none
      | some b =>
          let s := s.asidReach die asid a 32
          if b.size ≠ bs.length ∨ b.cap ≤ (b.tail + 2 ^ 64 - b.head) % 2 ^ 64 then none
          else match s.asidWrite die asid (b.elem b.tail) bs with
            | .error _ => none
            | .ok s => match s.asidWrite die asid (a + 16) (leBytes 8 ((b.tail + 1) % 2 ^ 64)) with
              | .error _ => none
              | .ok s => some s

/-- Dequeue one element of a ring as DEQ does (R198). -/
def State.ringPop (s : State) (die asid : Nat) (a : DWord) : Option (State × List Byte) :=
  match s.fwRead die asid a 32 with
  | .error _ => none
  | .ok cb =>
      match ringOf cb with
      | none => none
      | some b =>
          if b.tail = b.head then none
          else match s.fwRead die asid (b.elem b.head) b.size with
            | .error _ => none
            | .ok bs => match ((s.asidReach die asid a 32).asidReach die asid (b.elem b.head) b.size).asidWrite die asid (a + 8) (leBytes 8 ((b.head + 1) % 2 ^ 64)) with
              | .error _ => none
              | .ok s => some (s, bs)

end Sys2Proof.Machine
end

