-- ==== Sys2Proof/Machine/LaunchForms.lean ====
section
/-! DEFINITION. The launch and collective forms, opcodes 0x310 to 0x314 (spec 29 R414-R420), and the steps at which
what they wait for is done. -/

namespace Sys2Proof.Machine

/-- A form that waits whatever its guard: with no executing lane its counter is not held (R15). -/
def Ctx.waitAlways (c : Ctx) (o : Op) (rs : List RegWrite) (s : State) : State :=
  c.waitOn { o with ctr := if c.any then o.ctr else 7 } rs s

/-- The instance that a wait made before a pre-emption belongs to, when the form is issued again (R400). -/
def Ctx.instMade (c : Ctx) : Option Nat :=
  match c.w.barDone with
  | some (pc, [k]) => if pc = c.p.pc then some k.toNat else none
  | _ => none

/-- A store or other write that the wave issued has not performed. -/
def Ctx.writesLeft (c : Ctx) : Bool := (c.s.opsOf c.wk).any fun o => o.2.writesMem && o.2.todo != 0

/-! ## LAUNCH (R414) -/

/-- LAUNCH holds its path until the record has been read and the launch queued or refused. -/
def execLaunch (h : Ctl) (d a : Nat) (s : State) : Host.Outcome State Fault Refusal :=
  issue (.launch h d a) (fun c =>
    if !c.any then c.finish c.s
    else c.holdOn { c.op with u := [0, (c.rdS a).val], walked := false } [destOf (.s d) 1] c.s) s

/-- sD of a LAUNCH. -/
def Op.launchReg (o : Op) : Nat := match o.instr with | .launch _ d _ => d | _ => 0

/-- The value is known: it is written when the operation completes, and the path goes on. -/
def State.opResult (s : State) (id : Nat) (rs : List RegWrite) : State :=
  match s.op id with
  | none => s
  | some _ => (s.modOp id fun o => { o with writes := rs, finished := true, walked := true }).goOn id

/-- The record names an address space that the wave may not launch into (R414). -/
def State.launchDenied (s : State) (w : Wave) (addr : DWord) : Bool :=
  !w.priv && addr.toNat % 128 == 0 && (match s.readRecord w.die (s.hdr w).asid addr with
    | .ok (x, _) => field x 95 84 != (s.hdr w).asid
    | .error _ => false)

/-- A LAUNCH acts once the wave's earlier writes have performed: the launch is queued or refused; a page that is not
resident parks the wave. -/
def State.launchWalk (s : State) (id : Nat) : State :=
  match s.op id with
  | none => s
  | some o =>
      match s.wave o.wave with
      | none => s.delOp id
      | some w =>
          let addr := o.u.getD 1 0
          let res (x : DWord) (s : State) : State := s.opResult id [laneConst (.s o.launchReg) 1 x]
          if (s.opsOf o.wave).any fun x => x.1 < id && x.2.writesMem && x.2.todo != 0 then s
          else if s.launchDenied w addr then s.opFault id fPrivileged 0 0 (causeWord 2 0)
          else
          let s := s.recReach w.die (s.hdr w).asid addr
          match s.checkLaunch w.die w.die (s.hdr w).asid addr false w.priv with
            | .wait => s
            | .park va _ => (s.modOp id fun o => { o with walked := true }).park o.wave id o.slot o.pc va o.mask 0 0
            | .refused st d h => res (refusedWord st) (s.refuse w.die st d h)
            | .ok l =>
                let (s, hs) := s.publish o.wave none
                res (BitVec.ofNat 64 l.qseq) (s.enqueue { l with seen := hs })

/-! ## STEPMK (R392, R415) -/

/-- The share of a cluster (R391). -/
def LaunchRec.perShare (h : LaunchRec) : Nat := h.g / max h.dmax 1
def LaunchRec.share (h : LaunchRec) (cluster : Nat) : Nat := cluster / max h.perShare 1

/-- The share of a wave is withdrawn. -/
def State.withdrawn (s : State) (w : Wave) : Bool :=
  (s.launch w.launch).any fun l => l.withdrawn.contains (l.hdr.share (s.teamOf w).cluster)

/-- STEPMK arrives at the wave's next boundary whatever its guard, once the wave's writes have performed, and waits for
the boundary. -/
def execStepmk (h : Ctl) (pw : Nat) (s : State) : Host.Outcome State Fault Refusal :=
  issue (.stepmk h pw) (fun c =>
    if c.writesLeft then c.s.block 6
    else
      let k := c.instMade.getD c.w.stepN
      let s := if c.instMade.isSome then c.s else c.s.modWave c.wk fun w => { w with stepN := w.stepN + 1 }
      if ((c.s.launch c.w.launch).map Launch.boundary).getD 0 ≤ k then
        c.waitAlways { c.op with u := [BitVec.ofNat 64 k] } [destOf (.p pw) c.x] s
      else c.variable [laneConst (.p pw) c.x (if c.s.withdrawn c.w then 1 else 0)] s) s

/-! ## DIEQ (R416) -/

/-- The values of Table 29-5a. -/
def Ctx.dieq (c : Ctx) (sel : Nat) : Word :=
  let h := c.hdr
  let k := h.share c.team.cluster
  BitVec.ofNat 32 (match sel with
    | 0 => k
    | 1 => ((c.s.launch c.w.launch).map Launch.d).getD 0
    | 2 => h.dmax
    | 3 => h.dmin
    | 4 => h.perShare
    | 5 => k * h.perShare
    | 6 => c.w.die
    | _ => ((c.s.launch c.w.launch).map Launch.home).getD 0)

def execDieq (h : Ctl) (sel : Nat) (d : Dst) (s : State) : Host.Outcome State Fault Refusal :=
  issue (.dieq h sel d) (fun c => c.fixed [c.res d [] fun _ => c.dieq sel]) s

/-! ## TREESET (R417, R418) -/

/-- TREESET holds its path until the table has been read and checked. -/
def execTreeset (h : Ctl) (a : Nat) (off : BitVec 16) (s : State) : Host.Outcome State Fault Refusal :=
  issue (.treeset h a off) (fun c =>
    if !c.any then c.finish c.s
    else c.holdOn { c.op with u := [0, c.sOff a off], walked := false } [] c.s) s

/-- One 4-byte load of the wave: the word, or a code with the address and, when it is not translated, the page; code 0 when it
waits, as the line is pinned by another team (R222) or an earlier access of the wave `wk` comes first (R182, R166). -/
def State.waveWord (s : State) (wk : Nat) (w : Wave) (l : Nat) (a : DWord) : Except (Nat × DWord) Word :=
  match s.aperture w l a 4 .load with
  | .error e => .error (e, a)
  | .ok vs => match s.translateSegs w .load vs with
    | .error e => .error (if e = fRetry then 0 else e, if e < fNotResident then a else BitVec.ofNat 64 (s.badVa w .load vs))
    | .ok gs => if s.hwHeld wk vs gs || s.retried w.team gs then .error (0, a) else .ok (BitVec.ofNat 32 (leNat (s.readSegs w.ck gs)))

/-- `n` words from an address on. -/
def State.waveWords (s : State) (wk : Nat) (w : Wave) (l : Nat) : Nat → DWord → Except (Nat × DWord) (List Word)
  | 0, _ => .ok []
  | n + 1, a =>
      match s.waveWord wk w l a with
      | .error e => .error e
      | .ok x => match s.waveWords wk w l n (a + 4) with
        | .error e => .error e
        | .ok xs => .ok (x :: xs)

/-- The header and the entries of a table; the entries are read only where the header counts a lawful number. -/
def State.readTopo (s : State) (wk : Nat) (w : Wave) (l : Nat) (a : DWord) : Except (Nat × DWord) (Word × List Word) :=
  match s.waveWord wk w l a with
  | .error e => .error e
  | .ok hd =>
      let k := field hd.toNat 11 0
      match s.waveWords wk w l (if 2047 < k ∨ field hd.toNat 31 12 ≠ 0 then 0 else k) (a + 4) with
      | .error e => .error e
      | .ok es => .ok (hd, es)

/-- The extra word of TOPO (Table 28-11). -/
def topoWord (x : Nat × Nat × Nat) : DWord := causeWord x.1 (x.2.2 * 2 ^ 32 + x.2.1)

/-- TREESET reads and checks its table (R418). -/
def State.treeWalk (s : State) (id : Nat) : State :=
  match s.op id with
  | none => s
  | some o =>
      match s.wave o.wave with
      | none => s.delOp id
      | some w =>
          match s.readTopo o.wave w (lowest o.mask) (o.u.getD 1 0) with
          | .error (e, a) =>
              if e = 0 then s
              else if e < fNotResident then s.opFault id e o.mask a 0
              else (s.modOp id fun o => { o with walked := true }).park o.wave id o.slot o.pc a o.mask 0 0
          | .ok (hd, es) =>
              match topoCheck (s.stageFor w).threads hd es with
              | some x => s.opFault id fTopo 0 0 (topoWord x)
              | none => (s.modTeam w.team fun t => { t with topo := some (es.map topoNode) }).opResult id []

def execTreesetCanon (h : Ctl) (s : State) : Host.Outcome State Fault Refusal :=
  issue (.treesetCanon h) (fun c =>
    if !c.any then c.finish c.s
    else c.finishNow (c.s.modTeam c.w.team fun t => { t with topo := none })) s

/-! ## CRED (R419) -/

/-- An arrival of the wave in an instance: its executing lanes contribute the leaves of their threads. -/
def Ctx.credArrive (c : Ctx) (k id : Nat) (op : COp) (ty : CTy) (a : Nat) (s : State) : State :=
  let ls := (lanes c.x).map fun l => (32 * c.w.ix + l, ((c.rdV a l).val.setWidth 32 : Word))
  let add (i : CredInst) : CredInst :=
    { i with arrived := i.arrived ++ [c.w.ix], ops := i.ops ++ [(id, op, ty)], leaves := ls.foldl (fun t x => tput t x.1 x.2) i.leaves }
  ((s.modTeam c.w.team fun t => { t with creds := tput t.creds k (add (tget t.creds k {})) }).modWave c.wk fun w =>
    { w with credN := w.credN + 1 }).credSettle c.w.team

/-- CRED arrives in the wave's next instance whatever its guard and waits for its completion. -/
def execCred (h : Ctl) (op : COp) (ty : CTy) (d : Dst) (a : Nat) (s : State) : Host.Outcome State Fault Refusal :=
  issue (.cred h op ty d a) (fun c =>
    let k := c.instMade.getD c.w.credN
    let inst : CredInst := tget c.team.creds k {}
    let dest : List RegWrite := match d with
      | .v n => [destOf (.v n) c.x]
      | .s n => [destOf (.s n) (if c.any then 1 else 0)]
    let o : Op := { c.op with u := [BitVec.ofNat 64 k] }
    match c.instMade, inst.root with
    | some _, some x => c.variable (o.credWrite x) c.s
    | some _, none =>
        (c.waitAlways o dest c.s).modTeam c.w.team fun t => { t with creds := tput t.creds k { inst with ops := inst.ops ++ [(c.s.opSeq, op, ty)] } }
    | none, _ => c.credArrive k c.s.opSeq op ty a (c.waitAlways o dest c.s)) s

end Sys2Proof.Machine
end

