-- ==== Sys2Proof/Machine/Ready.lean ====
section
/-! DEFINITION. Readiness of a path and the reason of a hold (R34, R35). -/

namespace Sys2Proof.Machine

/-- Something that the wave has issued is not complete: ERET waits (R423). -/
def Ctx.pending (c : Ctx) : Bool := !(c.s.opsOf c.wk).isEmpty || !c.w.waitOk 63

/-! ## Readiness (R34) -/

/-- What holds a form back in its own meaning, with the stall reason. Table 3-4 names the barrier reason for the wait on a phase; a
BARA or BARAW whose arrival is held for the wave's own writes counts counter wait (DESIGN CHOICE, log entry 27). -/
def Ctx.bodyHold (c : Ctx) : Option Nat :=
  let on (b : Bool) (r : Nat) : Option Nat := if b then some r else none
  match c.i with
  | .waitc _ m => on (!c.w.waitOk m) (c.s.waitReason c.wk m)
  | .eret _ => on (c.w.trap.inHandler && c.pending) 1
  | .rlxend _ => on (c.w.region.isSome && c.bodyLeft) 12
  | .stepmk _ _ => on c.writesLeft 6
  | i =>
      if !c.any then none
      else match i with
      | .evpop .. => on c.evLate 0
      | .evwait .. => if c.evLate then some 0 else on c.nextRecord.isNone 14
      | .oprfence _ => on c.oprLeft 11
      | .txend _ => c.txHold
      | .fence _ _ => on (!(c.s.opsOf c.wk).isEmpty) 1
      | .bara _ b | .baraw _ b _ => on (c.barWaits b) 1
      | _ => none

/-- How far the path of a slot is from issuing. -/
inductive PathAt where
  /-- held back, with the stall reason of Table 3-4 or R35 -/
  | held (reason : Nat)
  /-- ready: its fault, or a word that poisons, is next -/
  | ready
  /-- a candidate for issue: only the instruction's own rule may hold it -/
  | candidate (c : Ctx)

/-- Where the path of a slot stands. `stall` says that its stall count counts as a hold (R56). -/
def State.pathAt (s : State) (wk : Nat) (w : Wave) (k : Nat) (stall : Bool) : PathAt :=
  match w.slot k with
  | none => .held 1
  | some p =>
      if !w.parked.isEmpty then .held 8
      else if (s.regionOf w).any (·.restart) then .held 12
      else if w.trap.pend.isSome then .held 1
      else if w.trap.faulted.isSome then .held 14
      else if !s.waveRuns w || p.jw then .held 1
      else if (p.stopped || s.halted w) && !p.oneStep then .held 14
      else match p.wait with
      | .sleep (_ + 1) => .held 14
      | .op id => .held (match s.op id with | some o => opReason o | none => 1)
      | _ =>
          if (w.slot 0).any (·.miss) || (w.slot 1).any (·.miss) then .held 5
          else if stall && p.hold.any (· != 0) then .held (if p.pass then 12 else 2)
          else match s.fetch w p with
          | .miss | .parity _ => .held 5
          | .fault _ _ => .ready
          | .line l =>
              let s := { s with cur := some (wk, k) }
              match decode (s.hdr w).v l.ver (l.words.getD (p.pc.toNat % 8) 0) with
              | .poison h _ => (match (s.ctx (.nop h)).bind Ctx.holdReason with | some r => .held r | none => .ready)
              | .instr i => match s.ctx i with
                  | none => .ready
                  | some c => match c.gate with
                    | .hold r => .held r
                    | .go => .candidate c
                    | _ => .ready

/-- What holds the path of a slot back, with the stall reason of Table 3-4 or R35; none when the path is ready. -/
def State.pathHold (s : State) (wk : Nat) (w : Wave) (k : Nat) (stall : Bool) : Option Nat :=
  match s.pathAt wk w k stall with
  | .held r => some r
  | .ready => none
  | .candidate c => c.bodyHold

/-- An OPRFENCE that is a candidate for issue at the end of a cycle covers the writes issued before that cycle; where its wave has
issued in the cycle, before the next (R266). -/
def State.oprMark (s : State) (wk : Nat) (w : Wave) (k : Nat) : Option Path :=
  (w.slot k).map fun p => match p.fence, s.pathAt wk w k true with
    | none, .candidate c => (match c.i with
      | .oprfence _ => { p with fence := some (if w.issuedNow then s.opSeq else s.cycleOp) }
      | _ => p)
    | _, _ => p

/-- A path of the wave is ready. -/
def State.anyReady (s : State) (wk : Nat) (w : Wave) (stall : Bool) : Bool :=
  (s.pathHold wk w 0 stall).isNone || (s.pathHold wk w 1 stall).isNone

end Sys2Proof.Machine
end

