-- ==== Sys2Proof/Machine/Dump.lean ====
section
/-! DEFINITION. Halts and the core dump (R369-R375, Tables 26-2 to 26-5), and the end of a diverged replay (R215). -/

namespace Sys2Proof.Machine

/-! ## The completion of a halt (R371) -/

/-- A Gauge form has no answer, and the unit has nothing to merge that would bring one. -/
def State.gaugeIdle (s : State) (o : Op) : Bool :=
  let w := (s.actor o).1
  let t := match s.wave o.wave with
    | some _ => s.gaugeAdmit o.wave w
    | none => s
  let g := (t.die w.die).gauge
  (lanes o.mask).any (fun l => (g.gadd (t.rank w l)).isNone) && ((t.estOf w).all fun e => g.step e == g)

/-- The wait of a region's participants at RLXBEG or RLXEND, which a participant that does not wait, or is parked, holds up. -/
def State.rlxStuck (s : State) (o : Op) : Bool :=
  match s.wave o.wave with
  | none => true
  | some w =>
      let down (wk : Nat) : Bool := (s.wave wk).all fun v => v.parked != [] || v.trap.pend.isSome || v.off
      match s.regionOf w with
      | some r => r.restart || r.parts.any fun q => !q.done || down q.wave
      | none => (s.rlxParts w).any fun p => (s.begOp p).isNone || down p

/-- The operation waits for an event that cannot happen while its launch is halted (R371): a full event queue, a
fault-queue entry, a basin park, a frozen team's pin, a barrier, an instance, a rank, a task, a tile of the launch, a record, the
restart of its own team, or a replay's chunk. -/
def State.stuck (s : State) (id : Nat) (o : Op) : Bool :=
  let parked : Bool := (s.wave o.wave).any fun w => id ∈ w.parked
  let frozenPin : Bool := o.retry != 0 && (lanes o.todo).any fun l => (segLines (o.seg l)).any fun x =>
    (tfind s.pins x).any fun p => ((s.team p.team).map Team.launch) == some o.launch
  let shut : Bool := o.todo != 0 && (lanes o.todo).all fun l => s.gateShut o l
  let w := (s.actor o).1
  parked || frozenPin || shut || (o.isCmd && o.finished && ((s.team (o.wave / 32)).any fun t => 64 ≤ t.events.length)) ||
    (!o.finished && match o.instr with
      | .bara _ _ | .barw _ _ _ | .baraw _ _ _ | .stepmk _ _ | .cred _ _ _ _ _ | .pgreq _ _ => true
      | .accalloc _ _ _ _ => [0, 1, 2, 3].any fun n =>
          let a := s.acc w.ck n
          id ∈ a.waiters && !a.freeing && a.holder.any fun h => ((s.team h).map Team.launch) == some o.launch
      | .rlxbeg _ => s.rlxStuck o
      | .rlxend _ => o.data.isEmpty && s.rlxStuck o
      | .gadd _ _ _ | .gtest _ _ => s.gaugeIdle o
      | .tkpull _ wait _ _ types => wait && (pullPick (s.die w.die).tasks (s.hdr w).asid types).isNone
      | .hld _ _ _ _ _ _ _ =>
          let h := o.record.getD 0
          o.holding && hLocal h && hKind h == 2 && (s.tile (hDie h) (hIndex h)).st == 1 && !s.handleStale h
      | .sysw _ _ _ => s.dies.any fun d => d.2.repackOps.any fun x => x.2 == id
      | _ => false)

/-- An operation that cannot go on now because of another one of its launch. -/
def State.waitsBehind (s : State) (id : Nat) (o : Op) : Bool :=
  let w := (s.actor o).1
  let other (f : Nat → Op → Bool) : Bool := (s.opsOf o.wave).any fun x => x.1 < id && f x.1 x.2
  if o.isCmd then !o.finished && !s.cmdReady id o w
  else if o.finished then s.behind id o
  else if o.isMem then (lanes o.todo).all fun l => s.heldBack id o l || (match o.instr with
    | .rel .. => s.writesLeft id o (s.relLines w o l)
    | .enq .. => s.writesLeft id o (s.boundLines w (o.bound 1 ((o.addr l).setWidth 128)))
    | .hstm .. => let old := s.slotHandle w.ck (o.seg l); hKind old == 1 && s.dropWaits id o w old
    | _ => false)
  else match o.instr with
    | .launch .. => other fun _ x => x.writesMem && x.todo != 0
    | .sysw .. => (other fun _ x => match x.instr with | .sysw .. => true | _ => false) || s.asgen.any fun a => a.op == some id
    | .rlxbeg _ => ((s.wave o.wave).map fun v => s.partOpen (s.rlxParts v)).getD false
    | .hdrop .. | .hst .. | .hld .. => s.carryHeld id o
    | _ => false

/-- The operations of a launch that count as drained, in order of issue: those that are stuck, and those that wait
behind one of them (R371). -/
def State.drained (s : State) (lk : Nat) : List Nat :=
  (s.ops.filter fun o => o.2.launch == lk).foldl (fun d o =>
    if s.stuck o.1 o.2 || (s.waitsBehind o.1 o.2 && d != []) then d ++ [o.1] else d) []

/-- HALT_COMPLETE: every instruction issued before the halt has completed, or counts as drained. -/
def State.haltDone (s : State) (lk : Nat) : State :=
  match s.launch lk with
  | none => s
  | some l =>
      match l.halt with
      | none => s
      | some h =>
          let d := s.drained lk
          let left : Bool := s.ops.any fun o => o.2.launch == lk && o.1 ∉ d
          let due : Bool := s.waves.any fun w => w.2.launch == lk && w.2.due.any fun x => s.now < x.2
          if h.complete ∨ left ∨ due then s
          else
            let s := { s with waves := s.waves.map fun (w : Nat × Wave) => if w.2.launch = lk then (w.1, w.2.settle s.now) else w }
            s.modLaunch lk fun l => { l with halt := some { h with complete := true } }

/-! ## The sections (R373) -/

/-- Team number (R372). -/
def Team.number (t : Team) : Nat := t.cluster * 16 + t.lti

/-- The state of a path as Table 26-4 numbers it: what would hold it but for the halt. -/
def State.pathState (s : State) (wk : Nat) (w : Wave) (k : Nat) : Nat :=
  let s := s.modLaunch w.launch fun l => { l with halt := none }
  match w.slot k with
  | none => 2
  | some p =>
      if !w.parked.isEmpty then 5
      else if p.stopped then 7
      else if p.wait == .none && p.hold.any (· != 0) then 1
      else match s.pathHold wk w k true with
        | none | some 0 | some 5 => 0
        | some 6 => 3
        | some 7 => 4
        | some 9 => 6
        | some 14 => 7
        | some _ => 2

/-- The state of a wave (Table 26-4). -/
def State.waveState (s : State) (w : Wave) : Nat :=
  let wk := waveKey w.team w.ix
  if w.trap.pend.isSome || w.trap.faulted.isSome then 8
  else match w.slot0, w.slot1 with
    | some p, some q => if p.jw && q.jw then 9 else s.pathState wk w (if p.jw then 1 else 0)
    | none, some _ => s.pathState wk w 1
    | _, none => s.pathState wk w 0

/-- SLEEP cycles left of a path. -/
def Path.asleep (p : Path) : Option Nat := match p.wait with | .sleep (n + 1) => some (n + 1) | _ => none

/-- A wave record (Table 26-4). -/
def State.waveRecord (s : State) (w : Wave) : List Byte :=
  let v := (s.hdr w).v
  let g := w.regs
  let seven (f : Nat → Nat) : List Byte := (List.range 7).flatMap fun k => leBytes 4 (f k)
  let nap := match w.slot0.bind Path.asleep with | some n => n | none => (w.slot1.bind Path.asleep).getD 0
  let code := match w.trap.pend with | some f => f.code | none => if w.trap.faulted.isSome then w.trap.own else 0
  leBytes 4 w.ix ++ leBytes 4 (s.waveState w) ++ slotBytes w.slot0 ++ slotBytes w.slot1 ++ leBytes 4 w.stack.length ++ leBytes 4 nap
    ++ ((List.range 6).map fun k => BitVec.ofNat 8 (w.ctr k)) ++ [0, 0] ++ leBytes 4 w.done.toNat ++ leBytes 4 code
    ++ ((List.range 64).flatMap fun n => leBytes 8 (tget g.s n 0).toNat) ++ leBytes 8 g.sP.toNat
    ++ seven (fun k => (tget g.p k 0).toNat) ++ seven (fun k => (tget g.pP k 0).toNat) ++ seven (fun k => (tget g.pO k 0).toNat)
    ++ List.replicate 100 0 ++ ((List.range v).flatMap fun n => g.vBytes n)
    ++ (List.range v).flatMap fun n => leBytes 4 (tget g.vP n 0).toNat

/-- A barrier record (Table 26-5). -/
def Barrier.record (x : Barrier) : List Byte :=
  let bits (ks : List Nat) : Nat := (ks.map fun k => 2 ^ k).sum
  leBytes 32 (x.broken.toNat + x.phase % 65536 * 2 ^ 16 + bits (x.pending.map (·.1)) * 2 ^ 32 + bits x.arrived * 2 ^ 64
    + bits x.enrolled * 2 ^ 96 + bits ((x.pending.filter fun p => p.2 % 65536 != x.phase % 65536).map (·.1)) * 2 ^ 224)

/-- A section: its descriptor (Table 26-3) and payload. -/
def section_ (ty tn : Nat) (payload : List Byte) : List Byte := leBytes 16 (ty + tn * 2 ^ 8 + payload.length * 2 ^ 64) ++ payload

/-- The three sections of a team (R373). -/
def State.teamSections (s : State) (tk : Nat) (t : Team) : List (List Byte) :=
  let ws := s.waves.filter fun w => w.2.team == tk
  let size := 4096 * ((s.launch t.launch).bind fun l => (l.hdr.stages[stageOf l.hdr t.lti]?).map Stage.gran).getD 0
  [section_ 1 t.number (ws.flatMap fun w => s.waveRecord w.2),
   section_ 2 t.number (memRead t.scr 0 size),
   section_ 3 t.number (if ws.isEmpty then [] else (List.range t.bars).flatMap fun b => (tget t.barriers b {}).record)]

/-- The teams dumped, ascending: resident teams of clusters that had begun (R370, R372). -/
def State.dumpTeams (s : State) (lk : Nat) : List (Nat × Team) :=
  let ts := s.teams.filter fun t => t.2.launch == lk && !t.2.out
  let mates (t : Team) : List (Nat × Team) := ts.filter fun u => u.2.cluster == t.cluster
  (ts.filter fun t => (mates t.2).any (fun u => u.2.begun) && (mates t.2).any fun u => !u.2.freed)

/-! ## Writing (R372, R374) -/

/-- NCAUSE of a code of Table 11-2. -/
def ncause (c : Nat) : Nat :=
  if c = fNotResident then 1 else if c = fWriteProtect then 2 else if c = fPteFormat then 3 else if c = fPaUnbacked then 4
  else if c = fKeyEmpty then 5 else 6

/-- One write of the dump: done, or its cause. -/
def State.dumpPut (s : State) (die asid : Nat) (a : DWord) (bs : List Byte) : Except Nat State :=
  match s.asidSegs die asid .store 2 a bs.length with
  | .error c => .error (ncause c)
  | .ok gs =>
      if gs.any fun g => match g.place with | .phys _ mt _ => mt != 0 | _ => false then .error 6
      else match s.asidWrite die asid a bs with
        | .ok s => .ok s
        | .error c => .error (ncause c)

/-- How far a dump came: the offset after the last byte, or a failing write with cause, address and section. -/
structure DumpEnd where
  s : State
  validTo : Nat
  /-- (NCAUSE, NADDR, NOFFSET) -/
  bad : Option (Nat × DWord × Nat) := none

/-- Write bytes at an offset in pieces of 64 bytes; `sec` is the descriptor's offset. -/
def DumpEnd.put (e : DumpEnd) (die : Nat) (h : LaunchRec) (sec : Nat) (off : Nat) (bs : List Byte) : DumpEnd :=
  if e.bad.isSome then e
  else if h.dumpsz < off + bs.length then { e with validTo := off, bad := some (7, h.dump + BitVec.ofNat 64 h.dumpsz, sec) }
  else
    let a := h.dump + BitVec.ofNat 64 off
    match e.s.dumpPut die h.asid a bs with
    | .ok s => { e with s := s, validTo := off + bs.length }
    | .error c => { e with validTo := off, bad := some (c, a, sec) }

/-- Write one section at the next 64-byte boundary. -/
def DumpEnd.sect (e : DumpEnd) (die : Nat) (h : LaunchRec) (bs : List Byte) : DumpEnd :=
  let at_ := (e.validTo + 63) / 64 * 64
  (List.range ((bs.length + 63) / 64)).foldl (fun e k => e.put die h at_ (at_ + 64 * k) ((bs.drop (64 * k)).take 64)) e

/-- The header (Table 26-2). -/
def dumpHeader (f : FaultRec) (tn wave nteams : Nat) (final : Option (Nat × Option (Nat × DWord × Nat))) : List Byte :=
  let bad := final.bind (·.2)
  let n : Nat := match final with
    | none => 0
    | some (_, b) => 1 + 2 * b.isSome.toNat
  leBytes 4 (n + 16) ++ leBytes 16 ((tn / 2 ^ 32 % 256) * 2 ^ 88 + nteams % 2 ^ 28 * 2 ^ 96 + (bad.map (·.1)).getD 0 * 2 ^ 124)
    ++ leBytes 4 ((bad.map (·.2.2)).getD 0xFFFFFFFF) ++ [0, BitVec.ofNat 8 wave] ++ leBytes 2 f.code ++ leBytes 4 (tn % 2 ^ 32)
    ++ leBytes 4 ((final.map (·.1)).getD 0) ++ leBytes 4 f.mask.toNat ++ leBytes 8 f.pc.toNat ++ leBytes 8 f.addr.toNat
    ++ leBytes 8 ((bad.map fun b => b.2.1.toNat).getD 0)

/-- The pins of the launch's own teams do not hold its dump back: a frozen team never unpins a line (log entry 20). -/
def State.dumpUnpin (s : State) (lk : Nat) : State :=
  { s with pins := s.pins.filter fun x => ((s.team x.2.team).map Team.launch) != some lk }

/-- A write of the dump would meet a line that a team of another launch has pinned: it is made again (R222). -/
def State.dumpHeld (s : State) (die : Nat) (h : LaunchRec) : Bool :=
  (List.range (h.dumpsz / 4096 + 2)).any fun k =>
    match s.asidSegs die h.asid .store 2 (h.dump + BitVec.ofNat 64 (4096 * k)) (min 4096 (h.dumpsz - 4096 * k)) with
    | .error c => c == fRetry
    | .ok _ => false

/-- How the writing of a dump goes. -/
inductive DumpOut where
  /-- it waits for a pinned line -/
  | held
  /-- the first write of the header failed -/
  | failed
  | wrote (s : State)

/-- THE DUMP of a halted launch (R372-R374): the header, the sections of every resident team, and the header again. -/
def State.dump (s : State) (lk : Nat) (l : Launch) (fault : Option (Nat × FaultRec)) : DumpOut :=
  let die := l.dieList.foldl min (l.dieList.headD l.home)
  let f := (fault.map (·.2)).getD { code := 0, pc := 0 }
  let w := fault.bind fun x => s.wave x.1
  let tn := (w.map fun w => (s.teamOf w).number).getD 0
  let wave := (w.map Wave.ix).getD 0
  let ts := s.dumpTeams lk
  let s1 := s.dumpUnpin lk
  if s1.dumpHeld die l.hdr then .held
  else
    let e0 := ({ s := s1, validTo := 0 } : DumpEnd).put die l.hdr 0 0 (dumpHeader f tn wave ts.length none)
    if e0.bad.isSome then .failed
    else
      let e := (ts.flatMap fun t => s.teamSections t.1 t.2).foldl (fun e bs => e.sect die l.hdr bs) e0
      match e.s.asidWrite die l.hdr.asid l.hdr.dump (dumpHeader f tn wave ts.length (some (e.validTo, e.bad))) with
      | .ok t => .wrote { t with pins := s.pins }
      | .error _ => .wrote { e.s with pins := s.pins }

/-- A halted launch's dump, and the abort that follows it with a status (R372, R375). -/
def State.dumpAbort (s : State) (lk : Nat) (l : Launch) (fault : Option (Nat × FaultRec)) (st code : Nat) : State :=
  match s.dump lk l fault with
  | .held => s
  | .wrote s => (s.abort lk st code).reap
  | .failed => ((s.modLaunch lk fun l => { l with dumpFailed := true }).abort lk st code).reap

/-- The dump that a fault under FACT DUMP owes, and the abort that follows it (R372, R375). -/
def State.faultDump (s : State) (lk : Nat) : State :=
  match s.launch lk with
  | none => s
  | some l =>
      match l.halt with
      | some h =>
          (match h.dump with
          | some (wk, f) => if !h.complete || l.aborted.isSome then s else s.dumpAbort lk l (some (wk, f)) 10 f.code
          | none => s)
      | none => s

/-- The end of a diverged replay, once its halt is complete (R215). -/
def State.divergeEnd (s : State) (lk : Nat) : State :=
  match s.launch lk with
  | none => s
  | some l =>
      if l.halt.any (fun h => h.complete && h.dump.isNone && h.diverge) && l.aborted.isNone then
        (if l.hdr.fact ≠ 2 then (s.abort lk 9 0).reap else s.dumpAbort lk l none 9 0)
      else s

def execHaltComplete (launch : Nat) (s : State) : Host.Outcome State Fault Refusal := .next (s.haltDone launch)
def execDumpWrite (launch : Nat) (s : State) : Host.Outcome State Fault Refusal := .next (s.faultDump launch)
def execReplayDivergeEnd (launch : Nat) (s : State) : Host.Outcome State Fault Refusal := .next (s.divergeEnd launch)

end Sys2Proof.Machine
end

