-- ==== Sys2Proof/Machine/Registers.lean ====
section
/-! DEFINITION. The registers of a die (Tables 11-9, 27-6, 28-4, 29-5) and what a write to one does: address spaces'
generations (R174), fault completions (R156), repacks (R389) and the debugger's operations (R401, R403). -/

namespace Sys2Proof.Machine

/-- The value that SYSR reads of a die's register; a write-only register reads zero (R421). -/
def State.regRead (s : State) (die n : Nat) : DWord :=
  let d := s.die die
  let cmp (k : Nat) : Comparator := tget d.cmps k {}
  if n = 0x40 then d.astbase
  else if n = 0x42 then d.fqbase
  else if n = 0x43 then d.fqhead.setWidth 64
  else if n = 0x44 then d.fqtail.setWidth 64
  else if n = 0x48 then d.trace.base
  else if n = 0x49 then d.trace.head.setWidth 64
  else if n = 0x4A then d.trace.tail.setWidth 64
  else if n = 0x4B then d.trace.ctl.setWidth 64
  else if 0x50 ≤ n ∧ n ≤ 0x5F then (cmp (n - 0x50)).addr
  else if 0x60 ≤ n ∧ n ≤ 0x6F then (cmp (n - 0x60)).ctl.setWidth 64
  else 0

/-- A write to TAIL frees ring space; one that would pass HEAD by more than the ring holds is ignored (R178). -/
def State.tailWrite (s : State) (die : Nat) (t : BitVec 16) : State :=
  if Config.faultRing < ((s.die die).fqhead - t).toNat then s else s.modDie die fun d => { d with fqtail := t }

/-- A register without a behaviour of its own receives a value; its reserved bits stay zero. -/
def State.regWrite (s : State) (die n : Nat) (x : DWord) : State :=
  let cmp (k : Nat) (f : Comparator → Comparator) : State :=
    s.modDie die fun d => { d with cmps := tput d.cmps k (f (tget d.cmps k {})) }
  let tr (f : TraceSt → TraceSt) : State := s.modDie die fun d => { d with trace := f d.trace }
  if n = 0x40 then s.modDie die fun d => { d with astbase := x &&& 0x000FFFFFFFFF0000 }
  else if n = 0x42 then s.modDie die fun d => { d with fqbase := x &&& 0x000FFFFFFFFF8001 }
  else if n = 0x48 then tr fun t => { t with base := x &&& 0x000FFFFFFFFFFFC0 }
  else if n = 0x4A then (tr fun t => { t with tail := x.setWidth 32 }).traceRoom die
  else if n = 0x4B then tr fun t => { t with ctl := x.setWidth 32 &&& 0x13F }
  else if 0x50 ≤ n ∧ n ≤ 0x5F then cmp (n - 0x50) fun c => { c with addr := x }
  else if 0x60 ≤ n ∧ n ≤ 0x6F then cmp (n - 0x60) fun c => { c with ctl := x.setWidth 32 &&& 0xFFFFFFF7, seen := 0 }
  else s

/-! ## Generations (R174) -/

/-- Address space of an operation. -/
def State.opAsid (s : State) (o : Op) : Nat := (s.hdr (s.actor o).1).asid

/-- A region holds a store (R308). -/
def Region.holds (r : Region) : Bool := r.evals.any fun e => e.2.held != []
/-- A transaction buffers a write that may yet perform. -/
def TxLane.buffers (t : TxLane) : Bool := t.active && !t.doomed && !t.buf.isEmpty

/-- Writes that the regions and the transactions of some waves hold back, to be found again by what they began with. -/
def State.heldWrites (s : State) (of : Wave → Bool) : List Nat × List (Nat × Nat × Nat) :=
  ((s.regions.filter fun r => r.2.holds && (r.2.parts.head?.bind fun q => s.wave q.wave).any of).map fun r => r.2.born,
   (s.waves.filter fun x => of x.2).flatMap fun x => (x.2.tx.filter fun t => t.2.buffers).map fun t => (x.1, t.1, t.2.born))

/-- Some of those writes are held back still. -/
def State.heldLeft (s : State) (regions : List Nat) (txs : List (Nat × Nat × Nat)) : Bool :=
  (s.regions.any fun r => regions.contains r.2.born)
    || txs.any fun x => (s.wave x.1).any fun w => let t := tget w.tx x.2.1 {}; t.buffers && t.born == x.2.2

/-- A raise of GEN: accesses that are translated under the older number still perform under it. `op` is the write that
waits for them. What another form of the operation makes of its lanes does not matter: a lane counts once it is translated. -/
def State.raiseGen (s : State) (asid : Nat) (op : Option Nat) : State :=
  let g := s.gen asid + 1
  let old (o : Op) : Mask := maskOf fun l => o.todo.getLsbD l && o.ready l && (o.seg l).any fun g => match g.place with
    | .phys .. => true
    | _ => false
  let ops := ((s.ops.filter fun o => s.opAsid o.2 == asid && (o.2.isMem || o.2.isTdef)).map fun o => (o.1, old o.2)).filter fun x => x.2 ≠ 0
  let bases := ((List.range Config.dies).map fun d => (s.die d).astbase.toNat).eraseDups
  let s := bases.foldl (fun s b => s.physWrite (b + 16 * asid + 8) (leBytes 2 g.toNat)) s
  let (held, txs) := s.heldWrites fun w => (s.hdr w).asid == asid
  { s with gens := tset s.gens asid g 0, asgen := s.asgen ++ [⟨asid, ops, op, g == 0, held, txs⟩] }

/-- A write that was translated under the older number has not performed: an operation's, a region's, or a transaction's. -/
def State.oldWrites (s : State) (a : AsgenPend) : Bool :=
  (a.ops.any fun x => (s.op x.1).any fun o => o.todo &&& x.2 != 0) || s.heldLeft a.regions a.txs

/-- The raise is done once those accesses have performed: the write's counter falls (R174). -/
def State.asgenDone (s : State) (asid : Nat) : State :=
  match s.asgen.find? fun a => a.asid == asid with
  | none => s
  | some a =>
      if s.oldWrites a then s
      else
        let s := { s with asgen := s.asgen.erase a }
        let s := if a.wrapped then
            { s with dies := s.dies.map fun d => (d.1, { d.2 with tlb := d.2.tlb.filter fun t => t.asid != asid }) }
          else s
        match a.op with
        | some id => s.opDone id false
        | none => s

/-! ## Repacks (R389) -/

/-- A repack is ordered of the team on a core whose block begins at register slot 256 `base`; one that names no team is ignored.
`op` is the SYSW that waits for its end. -/
def State.repackStart (s : State) (die core base : Nat) (op : Option Nat) : State :=
  match s.teams.find? fun t => t.2.die == die && t.2.core == core && t.2.base == some (256 * base) && !t.2.freed with
  | none => match op with
      | some id => s.opDone id false
      | none => s
  | some (tk, _) =>
      let s := { s with waves := s.waves.map fun (w : Nat × Wave) =>
        if w.2.team = tk ∧ !w.2.off then (w.1, { w.2 with preempt := some .repack }) else w }
      s.modDie die fun d => { d with repacking := if tk ∈ d.repacking then d.repacking else d.repacking ++ [tk]
                                     repackOps := d.repackOps ++ op.toList.map fun id => (tk, id) }

/-! ## The debugger (R401, R403) -/

/-- The launch that a queue entry of a die names. -/
def State.launchAt (s : State) (die qidx : Nat) : Option Nat :=
  (s.launches.find? fun l => l.2.home == die && l.2.refused.isNone && l.2.st != .done && qidxOf l.2.qseq == qidx).map (·.1)

/-- The wave in a wave slot of a core. -/
def State.waveAt (s : State) (die core wslot : Nat) : Option (Nat × Wave) :=
  s.waves.find? fun w => w.2.die == die && w.2.core == core && w.2.wslot == wslot && !(s.teamOf w.2).out

/-- The slot of a live path by its path-table index (R33). -/
def Wave.slotAt (w : Wave) (path : Nat) : Option Nat := [0, 1].find? fun k => (w.slot k).isSome && w.pathIx k == path

/-- RESUME ends a halt that nothing else keeps. -/
def State.resume (s : State) (lk : Nat) : State :=
  s.modLaunch lk fun l => if l.halt.any fun h => h.diverge || h.dump.isSome then l else { l with halt := none }

/-- KILL aborts the launch. -/
def State.debugAbort (s : State) (lk : Nat) : State :=
  match s.launch lk with
  | none => s
  | some l => if l.st = .done then s else (s.abort lk 13 0).reap

/-- STOP of a live path. -/
def State.debugStop (s : State) (die core wslot path : Nat) : State :=
  match s.waveAt die core wslot with
  | none => s
  | some (wk, w) =>
      match w.slotAt path with
      | none => s
      | some k => if (w.slot k).any (·.stopped) then s else s.stopPath wk k

/-- Load bytes of a wave's block, or the code and the virtual address of the page that stops it; `fRetry` while a line is pinned
by another team (R222). -/
def State.hwLoad (s : State) (w : Wave) (off n : Nat) : Except (Nat × Nat) (List Byte) :=
  let gs := s.blockSegs w off n
  match s.translateSegs w .load gs with
  | .ok ps => if s.retried w.team ps then .error (fRetry, 0) else .ok (s.readSegs (coreKey w.die w.core) ps)
  | .error c => .error (c, s.badVa w .load gs)

/-- The lines of such a load are reached through their mappings (R177). -/
def State.hwReach (s : State) (w : Wave) (off n : Nat) : State :=
  match s.translateSegs w .load (s.blockSegs w off n) with
  | .ok ps => s.reachSegs ps
  | .error _ => s

/-- A wave that a GO resumes returns from its record as by ERET, once everything that it has issued is complete; a page that is
not resident parks it, and a code met in the read leaves it stopped under the fault action (R396, R399). -/
def State.goReturn (s : State) (wk : Nat) : State :=
  match s.wave wk with
  | none => s
  | some w0 =>
      let w := w0.settle s.now
      if !w.trap.going ∨ w.trap.faulted ≠ some true ∨ s.halted w ∨ w.parked ≠ [] ∨ !(s.opsOf wk).isEmpty ∨ !w.waitOk 63 then s
      else
        let pc := (w.trap.handled.map FaultRec.pc).getD 0
        let s0 := s
        let s := s.modWave wk fun w => { w with trap := { w.trap with going := false } }
        match s.hwLoad w 0x2400 0x190 with
        | .error (c, va) =>
            if c = fRetry then s0
            else if c < fNotResident then s.faultAction wk { code := c, pc := pc, addr := BitVec.ofNat 64 va } true
            else (s.hwPark wk 0 pc 0 va c false).modWave wk fun w => { w with trap := { w.trap with going := true } }
        | .ok bs => (s.hwReach w 0x2400 0x190).returnFrom wk 0 pc bs

/-- GO: a stopped path issues again; a wave that FACT TRAP stopped with its record written returns from the record as by
ERET (R396). A wave that FACT DUMP stopped is in no state that GO acts on (R401). -/
def State.debugGo (s : State) (die core wslot path : Nat) : State :=
  match s.waveAt die core wslot with
  | none => s
  | some (wk, w) =>
      match w.trap.faulted with
      | some true =>
          if (s.hdr w).fact ≠ 0 then s
          else (s.modWave wk fun w => { w with trap := { w.trap with going := true } }).goReturn wk
      | some false => s
      | none =>
          match (w.slotAt path).bind fun k => (w.slot k).map fun p => (k, p) with
          | none => s
          | some (k, p) =>
              if !p.stopped then s
              else (s.modWave wk fun w => w.setSlot k (some { p with stopped := false, oneStep := false, arr := false })).trace
                wk 6 path p.pc p.mask 0

/-- STEP: a stopped path, or a path of a halted launch, issues one instruction. -/
def State.debugStep (s : State) (die core wslot path : Nat) : State :=
  match s.waveAt die core wslot with
  | none => s
  | some (wk, w) =>
      match (w.slotAt path).bind fun k => (w.slot k).map fun p => (k, p) with
      | none => s
      | some (k, p) =>
          if !p.stopped ∧ !s.halted w then s
          else
            let s := s.modWave wk fun w => w.setSlot k (some { p with oneStep := true, arr := false })
            let s := s.modLaunch w.launch fun l => { l with halt := l.halt.map fun h => { h with complete := false } }
            s.trace wk 6 path p.pc p.mask 0

/-- DUMP of a halted launch, which stays halted. -/
def State.debugDump (s : State) (lk : Nat) : State :=
  match s.launch lk with
  | none => s
  | some l =>
      if l.halt.any (·.complete) then
        match s.dump lk l none with
        | .wrote s => s
        | .held => { s with again := s.again ++ [.ev (.debugDump lk)] }
        | .failed => s
      else s

/-- A write of sys.dbgcmd (Tables 28-3, 28-4). -/
def State.dbgcmd (s : State) (x : DWord) : State :=
  let f (hi lo : Nat) : Nat := field x.toNat hi lo
  let die := f 50 48
  let on (g : Nat → State) : State :=
    match s.launchAt die (f 15 0) with
    | some lk => g lk
    | none => s
  match f 63 56 with
  | 1 => on fun lk => s.haltLaunch lk
  | 2 => on fun lk => s.resume lk
  | 3 => on fun lk => s.debugAbort lk
  | 4 => s.debugStop die (f 38 32) (f 29 24) (f 47 40)
  | 5 => s.debugGo die (f 38 32) (f 29 24) (f 47 40)
  | 6 => s.debugStep die (f 38 32) (f 29 24) (f 47 40)
  | 7 => on fun lk => s.debugDump lk
  | _ => s

/-- A completion is written: it is applied in a later step, in the order of the writes (R156). -/
def State.ackWrite (s : State) (die : Nat) (q : BitVec 16) (op : Option Nat) : State :=
  s.modDie die fun d => { d with acks := d.acks ++ [⟨q, op, s.now⟩] }

/-- The effect of a write to the register comes about after the write (R156, R174, R389). -/
def regSlow (n : Nat) : Bool := n == 0x41 || n == 0x45 || n == 0x46

/-- A WRITE to a register of a die; `op` is the SYSW that waits for an effect which comes about later (R421). -/
def State.sysWrite (s : State) (die n : Nat) (x : DWord) (op : Option Nat) : State :=
  if n = 0x41 then s.raiseGen (field x.toNat 11 0) op
  else if n = 0x44 then s.tailWrite die (x.setWidth 16)
  else if n = 0x45 then s.ackWrite die (x.setWidth 16) op
  else if n = 0x46 then s.repackStart die (field x.toNat 6 0) (field x.toNat 13 8) op
  else if n = 0x47 then s.dbgcmd x
  else s.regWrite die n x

/-! ## The steps of the Reeve core and the debugger -/

def execFqackWrite (die : Nat) (seq : BitVec 16) (s : State) : Host.Outcome State Fault Refusal := .next (s.ackWrite die seq none)
def execFqtailWrite (die : Nat) (tail : BitVec 16) (s : State) : Host.Outcome State Fault Refusal := .next (s.tailWrite die tail)
def execAsgenWrite (asid : Nat) (s : State) : Host.Outcome State Fault Refusal := .next (s.raiseGen asid none)
def execAsgenDrainComplete (asid : Nat) (s : State) : Host.Outcome State Fault Refusal := .next (s.asgenDone asid)
def execRepack (die core base : Nat) (s : State) : Host.Outcome State Fault Refusal := .next (s.repackStart die core base none)
/-- A register with a step of its own is written by that step. -/
def execSystemRegisterWrite (die n : Nat) (x : DWord) (s : State) : Host.Outcome State Fault Refusal := .next (s.regWrite die n x)
def execDebugHalt (launch : Nat) (s : State) : Host.Outcome State Fault Refusal := .next (s.haltLaunch launch)
def execDebugResume (launch : Nat) (s : State) : Host.Outcome State Fault Refusal := .next (s.resume launch)
def execDebugKill (launch : Nat) (s : State) : Host.Outcome State Fault Refusal := .next (s.debugAbort launch)
def execDebugStop (die core wslot path : Nat) (s : State) : Host.Outcome State Fault Refusal := .next (s.debugStop die core wslot path)
def execDebugGo (die core wslot path : Nat) (s : State) : Host.Outcome State Fault Refusal := .next (s.debugGo die core wslot path)
def execDebugStep (die core wslot path : Nat) (s : State) : Host.Outcome State Fault Refusal := .next (s.debugStep die core wslot path)
def execDebugDump (launch : Nat) (s : State) : Host.Outcome State Fault Refusal := .next (s.debugDump launch)

end Sys2Proof.Machine
end

