-- ==== Sys2Proof/Machine/SystemForms.lean ====
section
/-! DEFINITION. The system, trap and debug forms, opcodes 0x320 to 0x328 (spec 29 R421-R426). -/

namespace Sys2Proof.Machine

/-! ## System registers (R411, R421) -/

/-- The register is privileged. -/
def regPrivileged (n : Nat) : Bool := 0x40 ≤ n

/-- A register as the wave reads it in a lane. -/
def Ctx.sysReg (c : Ctx) (n l : Nat) : DWord :=
  if n ≤ 0x0E then c.sys n l
  else if n = 0x20 then c.w.trap.tvec
  else c.s.regRead c.w.die n

/-- A result of a system value: bits 31-0 in every executing lane, or the value zero-extended. -/
def Ctx.sysRes (c : Ctx) (d : Dst) (f : Nat → DWord) : RegWrite :=
  match d with
  | .v n => c.toV n fun l => c.lane [] (((f l).setWidth 32).setWidth 64) l
  | .s n => c.toS n (c.uni [] (f (lowest c.x)))

/-- A form on a privileged register in a wave without privilege takes PRIVILEGED (R411). -/
def Ctx.privileged (c : Ctx) (n : Nat) : Bool := c.any && regPrivileged n && !c.w.priv

def execSysr (h : Ctl) (d : Dst) (n : Nat) (s : State) : Host.Outcome State Fault Refusal :=
  issue (.sysr h d n) (fun c =>
    if c.privileged n then c.fault fPrivileged 0 0 (causeWord 0 n)
    else c.variable [c.sysRes d fun l => c.sysReg n l] c.s) s

/-- The operation is a SYSW whose effect is not complete. -/
def Op.isSysw (o : Op) : Bool := match o.instr with | .sysw .. => true | _ => false

/-- A register write of a wave acts: sys.tvec is the wave's own. -/
def State.sysAct (s : State) (wk die n : Nat) (x : DWord) (op : Option Nat) : State :=
  if n = 0x20 then s.modWave wk fun w => { w with trap := { w.trap with tvec := x } } else s.sysWrite die n x op

/-- A SYSW that waited for an earlier one of its wave acts, and completes unless its effect comes about later (R421). -/
def State.syswNow (s : State) (id : Nat) : State :=
  match s.op id with
  | none => s
  | some o => match o.instr, o.u with
      | .sysw _ n _, [x] =>
          if (s.opsOf o.wave).any fun y => y.1 < id && y.2.isSysw then s
          else
            let s := (s.modOp id fun o => { o with u := [] }).sysAct o.wave (s.actor o).1.die n x (some id)
            if regSlow n then s else s.opDone id false
      | _, _ => s

/-- SYSW: the writes of one wave act in issue order, and the counter falls when the effect is complete (R421). -/
def execSysw (h : Ctl) (n a : Nat) (s : State) : Host.Outcome State Fault Refusal :=
  issue (.sysw h n a) (fun c =>
    let x := (c.rdS a).val
    if !c.any then c.finish c.s
    else if c.privileged n then c.fault fPrivileged 0 0 (causeWord 0 n)
    else if (c.s.opsOf c.wk).any fun o => o.2.isSysw then c.finish (c.s.addOp { c.op with u := [x] })
    else if regSlow n then (c.finish (c.s.addOp c.op)).sysAct c.wk c.w.die n x (some c.s.opSeq)
    else (c.finishNow c.s).sysAct c.wk c.w.die n x none) s

/-! ## Traps (R422, R423) -/

/-- TRAP takes a SOFTWARE fault (R422). -/
def execTrap (h : Ctl) (code : BitVec 16) (s : State) : Host.Outcome State Fault Refusal :=
  issue (.trap h code) (fun c =>
    if !c.any then c.finish c.s else c.fault fSoftware c.x 0 (code.setWidth 64)) s

/-- ERET returns from the handler by its record, once everything that the wave has issued is complete (R399, R423). -/
def execEret (h : Ctl) (s : State) : Host.Outcome State Fault Refusal :=
  issue (.eret h) (fun c =>
    if !c.w.trap.inHandler then c.fault fPrivileged 0 0 (causeWord 1 0)
    else if c.pending then c.s.block 1
    else
      let s := c.s.modWave c.wk fun w => { w.waitedAll (fun k => c.s.free 64 (2 ^ 43 + 2 ^ 42 + k)) with issuedNow := true, fresh := false }
      match c.s.hwLoad c.w 0x2400 0x190 with
      | .error (e, va) =>
          if e = fRetry then c.s.block 1
          else if e < fNotResident then c.fault e c.p.mask (BitVec.ofNat 64 va)
          else c.s.hwPark c.wk c.slot c.p.pc c.p.mask va e false
      | .ok bs => (s.hwReach c.w 0x2400 0x190).returnFrom c.wk c.slot c.p.pc bs) s

/-- BRK fires as a comparator does, before it issues; it has no other effect (R402, R422). -/
def execBrk (h : Ctl) (act : BrkAct) (code : BitVec 16) (s : State) : Host.Outcome State Fault Refusal :=
  issue (.brk h act code) (fun c =>
    if !c.any then c.finish c.s
    else match act with
      | .halt => (c.s.modWave c.wk fun w => w.setSlot c.slot ((w.slot c.slot).map fun p => { p with oneStep := false })).haltFrom c.w.launch (c.s.now + 1)
      | .stop => c.s.stopPath c.wk c.slot
      | .trap => c.fault fBreak c.x 0 (code.setWidth 64)) s

/-! ## Halt, trace and counters (R424-R426) -/

/-- HALT halts the launch from the next cycle on, and sends an event (R424). -/
def execHalt (h : Ctl) (s : State) : Host.Outcome State Fault Refusal :=
  issue (.halt h) (fun c =>
    if !c.any then c.finish c.s
    else ((c.finishNow c.s).haltFrom c.w.launch (c.s.now + 1)).event (.halted c.w.launch)) s

/-- TRCON sets the trace flag, and writes the wave's SYNC group when it was clear (R425). -/
def execTrcon (h : Ctl) (s : State) : Host.Outcome State Fault Refusal :=
  issue (.trcon h) (fun c =>
    let s := c.finish c.s
    if !c.any || c.w.trace then s
    else
      let s := s.modWave c.wk fun w => { w with trace := true }
      let s := (s.traceRoom c.w.die).syncGroup c.wk
      s.modDie c.w.die fun d => { d with trace := { d.trace with resync := d.trace.resync.filter (· ≠ c.wk) } }) s

def execTrcoff (h : Ctl) (s : State) : Host.Outcome State Fault Refusal :=
  issue (.trcoff h) (fun c =>
    let s := c.finish c.s
    if !c.any then s else s.modWave c.wk fun w => { w with trace := false }) s

/-- The counter that CNTRD reads (R426). -/
def Ctx.counter (c : Ctx) (n : Nat) : Nat :=
  if n < 16 then tget c.w.stalls n 0 else min (c.s.core c.ck).slow 0xFFFFFFFF

def execCntrd (h : Ctl) (n : Nat) (d : Dst) (s : State) : Host.Outcome State Fault Refusal :=
  issue (.cntrd h n d) (fun c => c.fixed [c.sysRes d fun _ => BitVec.ofNat 64 (c.counter n)]) s

end Sys2Proof.Machine
end

