-- ==== Sys2Proof/Machine/OpEvents.lean ====
section
/-! DEFINITION. Steps without an encoding that act on waves and on their pending operations: holds and counters (R56,
R60, R120), completions (R60, R61, R150), misses (R393), walks (R154, R169), performances (R181, R188), retries (R222),
the replay gate (R215), the fault queue (R155-R157), delivery (R397), retirement (R111) and pre-emption (R41). -/

namespace Sys2Proof.Machine

/-! ## Holds, counters and misses -/

/-- One path of a wave, changed. -/
def State.modPath (s : State) (wk k : Nat) (f : Path → Path) : State := s.modWave wk fun w => w.setSlot k ((w.slot k).map f)

/-- A stall count that has run out holds its path no longer (R56). -/
def execStallCountExpiry (wave slot : Nat) (s : State) : Host.Outcome State Fault Refusal :=
  .next (s.modPath wave slot fun p => if p.hold = some 0 then { p with hold := none } else p)

/-- A SLEEP that has run out (R120). -/
def execSleepExpiry (wave slot : Nat) (s : State) : Host.Outcome State Fault Refusal :=
  .next (s.modPath wave slot fun p => if p.wait = .sleep 0 then { p with wait := .none } else p)

/-- The counter decrements that are due are made (R59, R60). -/
def execCounterDecrement (wave : Nat) (s : State) : Host.Outcome State Fault Refusal :=
  .next (s.modWave wave fun w => w.settle s.now)

/-- A wave whose ready path was passed over in 256 consecutive issue cycles of its quarter is overdue (R43). -/
def execOverdueWave (wave : Nat) (s : State) : Host.Outcome State Fault Refusal :=
  .next (s.modWave wave fun w => if 256 ≤ w.passed then { w with overdue := true } else w)

/-- A missing line arrives (R393). -/
def execIcacheMissFill (wave slot : Nat) (s : State) : Host.Outcome State Fault Refusal :=
  .next (match s.wave wave with
  | none => s
  | some w => match w.slot slot with
    | none => s
    | some p =>
        if !p.miss || s.codeHeld w p.pc then s
        else
          let s := match s.codePa w p.pc with
            | some (pa, key) => s.fillBlock (polderOf w) pa key
            | none => s
          s.modPath wave slot fun p => { p with miss := false })

/-! ## Completions -/

/-- The forms of Table 9-4, which may take the slow path (R150). -/
def slowForm (i : Instr) : Bool :=
  match i with
  | .fdiv .. | .fsqrt .. | .frcp .. | .frsq .. | .fexp .. | .fexp2 .. | .flog .. | .flog2 .. | .fsin .. | .fcos .. | .ftanh ..
  | .fsigm .. => true
  | _ => false

/-- An operation that has done everything else completes: a memory form, a command whose record is pending, or any
other. -/
def State.finishOp (s : State) (id : Nat) (o : Op) (slow : Bool) : State :=
  if o.isMem then s.memDone id
  else if o.isCmd then s.postRecords (o.wave / 32) 65
  else
    let ck := (s.actor o).1.ck
    let s := if slow && slowForm o.instr && !s.behind id o then
        s.modCore ck fun c => { c with slow := min (c.slow + 1) 0xFFFFFFFF }
      else s
    s.opDone id false

/-- VARIABLE_RESULT_COMPLETION: an operation completes, or one that depends on a unit's state is looked at anew. -/
def State.varDone (s : State) (id : Nat) (slow : Bool) : State :=
  match s.op id with
  | none => s
  | some o =>
      if o.finished then s.finishOp id o slow
      else match o.instr, s.wave o.wave with
      | .sysw .., _ => s.syswNow id
      | .gadd _ ps _, _ =>
          let w := (s.actor o).1
          let s := s.gaugeAdmit o.wave w
          s.gaugeAnswer id o w ps (s.unitOfWave w).gadd
      | .tkdone .., _ => if o.tkBegun || (s.wave o.wave).any (!·.off) then s.taskApply id o (s.actor o).1 else s
      | _, none => s
      | _, some w => match o.instr with
          | .gtest _ pd => s.gaugeAnswer id o w pd (s.unitOfWave w).gtest
          | .gq _ sel d => s.gqDone id w sel d
          | .tkdef .. | .tkdec .. | .tkpull .. => if w.off then s else s.taskApply id o w
          | _ => s

def execVariableResultCompletion (op : Nat) (slow : Bool) (s : State) : Host.Outcome State Fault Refusal :=
  .next (s.varDone op slow)

/-! ## Walks and performances -/

/-- TRANSLATION_WALK: the walk of a pending operation ends, whatever its form does with it. -/
def State.walkOp (s : State) (id : Nat) : State :=
  match s.op id with
  | none => s
  | some o =>
      if o.walked || o.finished || (s.wave o.wave).any (fun w => id ∈ w.parked) then s
      else match o.instr with
        | .rlxbeg _ => s.rlxTry o.wave
        | .rlxend _ => if o.data.isEmpty then s else s.areaWrite id
        | .launch .. => s.launchWalk id
        | .treeset .. => s.treeWalk id
        | _ =>
            if o.inBody then (s.bodyWalk id).bodyReady id
            else if o.isRing then s.walkRing id
            else if o.isHldm then (s.walkLanes id).hldmReady id
            else s.walkLanes id

def execTranslationWalk (op : Nat) (s : State) : Host.Outcome State Fault Refusal := .next (s.walkOp op)

/-- The operation acts on whole targets. -/
def Op.isAtomic (o : Op) : Bool := o.isRing || o.isHldm || (match o.instr with | .atom .. | .red .. => true | _ => false)

def execMemoryAccessPerform (op lane : Nat) (s : State) : Host.Outcome State Fault Refusal :=
  .next (match s.op op with
  | some o => if o.isMem && !o.isAtomic then s.performLane op lane false else s
  | none => s)

def execAtomicPerform (op lane : Nat) (s : State) : Host.Outcome State Fault Refusal :=
  .next (match s.op op with
  | some o => if o.isAtomic then s.performAtomic op lane false else s
  | none => s)

/-- The line is pinned no longer: a request that met a retry response is accepted (R222). -/
def execPinnedRetryAccept (op lane : Nat) (s : State) : Host.Outcome State Fault Refusal :=
  .next (match s.op op with
  | some o =>
      if !o.retry.getLsbD lane || o.tx.getLsbD lane then s
      else if o.isAtomic then s.performAtomic op lane true
      else if o.isMem then s.performLane op lane true
      else s
  | none => s)

/-- The same for an access of a transaction (R192). -/
def execTxRetryAccept (op lane : Nat) (s : State) : Host.Outcome State Fault Refusal :=
  .next (match s.op op with
  | some o => if o.retry.getLsbD lane && o.tx.getLsbD lane && o.isMem && !o.isAtomic then s.performLane op lane true else s
  | none => s)

/-- A request that the replay gate has held for 2^24 cycles, and holds still, ends the replay (R215, Table 13-4). -/
def execGateTimeout (op lane : Nat) (s : State) : Host.Outcome State Fault Refusal :=
  .next (match s.op op with
  | some o => (match tfind o.gated lane with
    | some t => if t + Config.gateTimeout ≤ s.now && s.gateShut o lane && !s.logHeld o.launch then s.rrDiverge o.launch 3 else s
    | none => s)
  | none => s)

/-! ## The fault queue -/

def execFaultEntryDeferredWrite (die : Nat) (s : State) : Host.Outcome State Fault Refusal :=
  .next (s.fqFlush die (s.die die).fq.length)

/-- An entry is completed: the wave is unparked, and what it holds is made anew (R156, R157, R159); in a body it is discarded, as
the region restarts (R313). -/
def State.entryDone (s : State) (die : Nat) (e : FqEntry) : State :=
  let s := s.modDie die fun d => { d with fq := d.fq.erase e }
  match e.op with
  | none => s
  | some id =>
      if (s.die die).fq.any fun x => x.op == some id then s
      else
        let s := s.modWave e.wave fun w => { w with parked := w.parked.filter (· ≠ id) }
        let s := if (s.wave e.wave).any fun w => w.span.stale then s.ckptFlush e.wave else s
        match s.op id with
        | none => s
        | some o => match o.instr with
          | .pgreq .. => (s.delOp id).modWave e.wave fun w =>
              { w with due := if o.ctr < 6 then w.due ++ [(o.ctr, s.now + 1)] else w.due }
          | _ => if o.inBody then (s.releasePath o.wave id false).discardOp id else s.modOp id fun o => { o with walked := false }

/-- The oldest completion that is written is applied, from the cycle after its write on (R156); a SYSW that wrote it completes
(R421). -/
def State.applyAck (s : State) (die : Nat) : State :=
  match (s.die die).acks with
  | [] => s
  | q :: rest =>
      if s.now ≤ q.at_ then s
      else
        let s := s.modDie die fun d => { d with acks := rest }
        let s := match q.op with
          | some id => s.opDone id false
          | none => s
        match (s.die die).fq.find? fun e => e.seq == some q.seq with
        | none => s
        | some e => s.entryDone die e

def execFaultCompletionApply (die : Nat) (s : State) : Host.Outcome State Fault Refusal := .next (s.applyAck die)

/-! ## Waves -/

/-- The halt of the wave's launch is complete: nothing of it changes (R371). -/
def State.stillHalted (s : State) (w : Wave) : Bool := ((s.launch w.launch).bind Launch.halt).any (·.complete)

/-- A pending fault is delivered, and a wave that a GO resumes returns from its record. -/
def execTrapDelivery (wave : Nat) (s : State) : Host.Outcome State Fault Refusal :=
  .next (if (s.wave wave).any fun w => w.trap.going && w.trap.pend.isNone then s.goReturn wave else (s.deliver wave).reap)

/-- The wave comes to its end; a halted launch's waves are frozen (R370). -/
def execWaveRetire (wave : Nat) (s : State) : Host.Outcome State Fault Refusal :=
  match s.wave wave with
  | none => .next s
  | some w =>
      if s.halted w then .next s
      else if w.trap.broken && w.slot0.isNone && w.slot1.isNone then .fault .pathStateBroken
      else .next (s.retire wave)

/-- A pre-emption that was ordered strikes where the wave stands (R41). -/
def execPreemption (wave : Nat) (s : State) : Host.Outcome State Fault Refusal :=
  .next (match s.wave wave with
  | none => s
  | some w => if w.preempt.isSome && !s.stillHalted w then s.strike wave else s)

end Sys2Proof.Machine
end

