-- ==== Sys2Proof/Machine/Turn.lean ====
section
/-! DEFINITION. Whose turn it is to issue: the order of issue (R43-R45), the
preparation of an issue (R46-R50, R402), pairs (R63, R64), what follows an issue, the passing of a cycle (R35, R38, R409),
and the default order of steps (log entry 1). -/

namespace Sys2Proof.Machine

/-! ## The order of issue (R43-R45) -/

/-- Age: the order in which the team was dispatched, then the logical wave index. -/
def State.ageOf (s : State) (w : Wave) : Nat × Nat := ((s.teamOf w).age, s.lwi w)

/-- The wave's ready path has been passed over in 256 consecutive issue cycles of its quarter. -/
def Wave.late (w : Wave) : Bool := w.overdue || 256 ≤ w.passed

/-- Another wave of the quarter issues first: one that is overdue where this one is not, or an older one, which a yield hint may
pass over. -/
def State.outranked (s : State) (wk : Nat) (w : Wave) : Bool :=
  let ck := coreKey w.die w.core
  let hint : Bool := w.quarter ∈ (s.core ck).yields
  let a := s.ageOf w
  s.waves.any fun x =>
    x.1 != wk && coreKey x.2.die x.2.core == ck && x.2.quarter == w.quarter && !x.2.issuedNow
      && (if x.2.late != w.late then x.2.late
          else !hint && (let b := s.ageOf x.2; b.1 < a.1 || (b.1 == a.1 && b.2 < a.2)))
      && s.anyReady x.1 x.2 true

/-- The sibling, passed over in 256 consecutive issues of the wave, issues first. -/
def State.siblingFirst (s : State) (wk : Nat) (w : Wave) (k : Nat) : Bool :=
  (w.slot (1 - k)).any (fun q => 256 ≤ q.passed) && !(w.slot k).any (fun p => 256 ≤ p.passed) && (s.pathHold wk w (1 - k) true).isNone

/-- Switch points of deterministic mode (R44); YIELD is one when a lane executes. -/
def switchPoint (i : Instr) : Bool :=
  match i with
  | .yield _ | .bara _ _ | .barw _ _ _ | .baraw _ _ _ | .rlxbeg _ | .rlxend _ | .stepmk _ _ | .cred _ _ _ _ _ => true
  | _ => false

/-- A path waits in a switch point. -/
def State.inSwitch (s : State) (p : Path) : Bool :=
  match p.wait with
  | .op id => (s.op id).any fun o => switchPoint o.instr
  | _ => false

/-- The slot that has the turn in deterministic mode: slot 0 until it waits at JOIN, retires or reaches a switch point, then
slot 1; a path that waits in its switch point leaves the turn to its sibling (R44). -/
def State.turnSlot (s : State) (w : Wave) : Nat :=
  if (w.slot w.turn).any fun p => !p.jw && !s.inSwitch p then w.turn else 1 - w.turn

/-- The path of a slot may issue before the others: in deterministic mode as R44 has it, else by R43. -/
def State.myTurn (s : State) (wk : Nat) (w : Wave) (k : Nat) : Bool :=
  if (s.hdr w).det then (s.core (coreKey w.die w.core)).owner == some wk && s.turnSlot w == k
  else !s.outranked wk w && !s.siblingFirst wk w k

/-- The wave with the lowest logical index of the ready waves of a core; a stall count holds none back (R44, R387). -/
def State.pickOwner (s : State) (ck : Nat) : Option Nat :=
  let ws := s.waves.filter fun x => coreKey x.2.die x.2.core == ck && s.anyReady x.1 x.2 false
  (ws.foldl (fun (b : Option (Nat × Nat)) x => match b with
    | none => some (s.lwi x.2, x.1)
    | some y => if s.lwi x.2 < y.1 then some (s.lwi x.2, x.1) else some y) none).map (·.2)

/-! ## Preparation of an issue -/

/-- What an issue pick comes to. -/
inductive Prep where
  /-- no instruction issues; the state after -/
  | no (s : State)
  | run (i : Instr) (s : State)
  | poison (h : Ctl) (dsts : List OneReg) (s : State)

/-- A path is about to issue the instruction at its address: the breakpoints come first, before every fault of the instruction
(R402), then `go`. A launch halts as by HALT, and the quarter issues nothing more in this cycle. -/
def State.breakFirst (s : State) (wk k : Nat) (w : Wave) (p : Path) (go : State → Prep) : Prep :=
  match s.breakpoint w p with
  | (s, some 0) => .no (((s.modWave wk fun w => w.setSlot k (some { p with arr := false })).modCore (coreKey w.die w.core) fun c =>
      { c with quarters := c.quarters ++ [w.quarter] }).haltFrom w.launch (s.now + 1))
  | (s, some 1) => .no (s.stopPath wk k)
  | (s, some _) => .no ((s.modWave wk fun w => w.setSlot k (some { p with arr := false })).takeFault wk
      { code := fBreak, pc := p.pc, slot := k })
  | (s, none) => go s

/-- A path issues from a line: its decoded word. -/
def State.prepareFrom (s : State) (wk k : Nat) (w : Wave) (p : Path) (l : Line) : Prep :=
  s.breakFirst wk k w p fun s =>
    let s := { s.modWave wk (fun w => w.setSlot k (some { p with arr := false })) with cur := some (wk, k) }
    match decode (s.hdr w).v l.ver ((l.words).getD (p.pc.toNat % 8) 0) with
    | .instr i => .run i s
    | .poison h ds => .poison h ds s

/-- Prepare the issue of a path: its wait state, its line, its turn, and what stands in the line. A line that is absent or fails
its parity is asked for whatever the turn (R49, R393). A pick that is out of turn has no effect. -/
def State.prepare (s : State) (wk k : Nat) : Prep :=
  match s.wave wk with
  | none => .no s
  | some w =>
      match w.slot k with
      | none => .no s
      | some p =>
          let second : Bool := w.pair == some k
          if !s.pathRuns w k true then .no s
          else
            let turn : Bool := second || (!w.issuedNow && !(w.quarter ∈ (s.core (coreKey w.die w.core)).quarters : Bool) && s.myTurn wk w k)
            match s.fetch w p with
            | .miss => .no (s.modWave wk fun w => w.setSlot k (some { p with miss := true }))
            | .parity pa => .no ((s.dropBlock (polderOf w) (pa / 128)).modWave wk fun w =>
                w.setSlot k (some { p with miss := true, refetch := true }))
            | .fault c x =>
                if turn then s.breakFirst wk k w p fun s => .no (s.takeFault wk { code := c, pc := p.pc, extra := x, slot := k }) else .no s
            | .line l => if turn then s.prepareFrom wk k w p l else .no s

/-! ## Pairs (R63, R64) -/

/-- The pair class of an issued word and of the next (Table 4-4). -/
def pairAllowed (x y : PairClass) : Bool :=
  match x, y with
  | .a, .a | .a, .m | .m, .a | .a, .b => true
  | _, _ => false

/-- The pair class of a word by its major opcode and the version of its line (Table 4-4): a poisoning word has the class of its
opcode, and an opcode that is unassigned, in a line of VER 1 one of generation 2 too (R50), never pairs. -/
def opcPair (ver opc : Nat) : PairClass :=
  if opc ∈ [1, 2, 3, 4] then .b
  else if opc ∈ [5, 6, 7, 8, 9, 10, 0xE, 0xF, 0x10, 0x2C4, 0x2C5, 0x322, 0x323, 0x324, 0x325] || (classes opc).isEmpty || (ver == 1 && g2Opcode opc) then .n
  else if 0x180 ≤ opc then .m
  else if opc == 0x05E || (0x0CD ≤ opc && opc ≤ 0x0D8) then .n
  else .a

/-- The control fields of a decoded word. -/
def decodedCtl : Decoded → Ctl
  | .instr i => i.ctl.getD ⟨false, 7, 0, false, 7, 0⟩
  | .poison h _ => h

/-- The conditions of Table 4-4 that the line and the breakpoints decide, for the word of opcode `opc` that a path has issued from
`old`. -/
def State.pairMarked (s : State) (w : Wave) (opc : Nat) (h : Ctl) (old : Path) (l : Line) : Bool :=
  let ix := old.pc.toNat % 8
  let word := l.words.getD (ix + 1) 0
  ix < 4 && l.pair / 2 ^ ix % 2 == 1 && old.rep.isNone && h.stall == 0
    && pairAllowed (opcPair l.ver opc) (opcPair l.ver (Fields.ofWord word).opc)
    && (6 ≤ h.ctr || (decodedCtl (decode (s.hdr w).v l.ver word)).wait / 2 ^ h.ctr % 2 == 0)
    && (s.die w.die).cmps.all fun c => !c.2.hits (s.hdr w).asid { old with pc := nextPc old.pc, arr := true }

/-- A memory form that a marked pair may follow makes its first walk at once: slot k + 1 has no effect where it faults. -/
def State.pairWalk (s : State) (wk k : Nat) : State :=
  match (s.wave wk).bind fun w => w.slot k with
  | some p => (match p.wait with
      | .op id => if (s.op id).any (·.holding) then s.walkOp id else s
      | _ => s)
  | none => s

/-- The path that has issued slot k of a line stands at slot k + 1 and is ready but for its stall count. -/
def State.pairGo (s : State) (wk k : Nat) (old : Path) : Bool :=
  match s.wave wk with
  | none => false
  | some w =>
      (w.slot k).any (fun p => p.pc == nextPc old.pc && p.rep.isNone && !p.stopped && !p.oneStep) && (s.pathHold wk w k false).isNone

/-! ## After an issue -/

/-- The slot that has the turn after an issue from slot `k` (R44): with one path, or after a merge, the turn begins anew at slot
0; a path that waits at JOIN, retires or has reached a switch point gives it to its sibling. -/
def Wave.nextTurn (w : Wave) (k : Nat) (i : Instr) (whole sw : Bool) : Nat :=
  if w.slot0.isNone || w.slot1.isNone then 0
  else match i with
  | .join _ => if (w.slot k).any (·.jw) then 1 - k else 0
  | .exit _ => if whole then 1 - k else w.turn
  | _ => if sw then 1 - k else w.turn

/-- What follows the issue of a word from `old`: the quarter has issued, its yield hint stands, a pair goes on at once, the turn
and the ownership move, and a ready sibling that was passed over is counted (R43, R44, R63). `c` is the issue of the
instruction `i`. -/
def State.afterIssue (s : State) (wk k : Nat) (i : Instr) (opc : Nat) (h : Ctl) (old : Path) (l : Line) (c : Option Ctx) : State :=
  match s.wave wk with
  | none => s
  | some w =>
      let ck := coreKey w.die w.core
      if !w.issuedNow then s
      else
        let s := s.noteFirst w.team
        let hint : Bool := h.yld || (match i with | .yield _ => c.any Ctx.any && !(s.hdr w).det | _ => false)
        let s := s.modCore ck fun (x : Core) => { x with
          quarters := if w.quarter ∈ x.quarters then x.quarters else x.quarters ++ [w.quarter]
          yields := if hint then w.quarter :: x.yields.filter (· ≠ w.quarter) else x.yields.filter (· ≠ w.quarter) }
        let marked : Bool := w.pair.isNone && s.pairMarked w opc h old l
        let s := if marked then s.pairWalk wk k else s
        let s := if marked && s.pairGo wk k old then
            s.modWave wk fun w => { (w.setSlot k ((w.slot k).map fun p => { p with hold := some 0 })) with pair := some k }
          else s.modWave wk fun w => { w with pair := none }
        let sw : Bool := switchPoint i && (match i with | .yield _ => c.any Ctx.any && w.region.isNone | _ => true)
        let whole : Bool := c.any fun c => c.x == c.p.mask
        let sib : Bool := (s.wave wk).any fun w => (s.pathHold wk w (1 - k) true).isNone
        let s := s.modWave wk fun w =>
          { (w.setSlot (1 - k) ((w.slot (1 - k)).map fun p => { p with passed := if sib then p.passed + 1 else 0 })) with
            passed := 0, overdue := false, turn := w.nextTurn k i whole sw }
        let s := s.modWave wk fun w => w.setSlot k ((w.slot k).map fun p => { p with passed := 0 })
        if (s.hdr w).det && sw then s.modCore ck fun c => { c with owner := s.pickOwner ck } else s

/-! ## The passing of a cycle -/

/-- The stall reason of the path of a slot (R35, R316, R403): what it met when it was to issue, or what holds it; of a ready path, that
another wave issued. In deterministic mode R35 names the reason of a ready wave while another wave owns the core, 15; the model
counts 15 too while the core has no owner, and 0 for the owner's ready path out of its turn (DESIGN CHOICE, log entry 8). -/
def State.pathReason (s : State) (wk : Nat) (w : Wave) (k : Nat) : Nat :=
  if !w.parked.isEmpty then 8
  else if (w.slot k).any (·.pass) then 12
  else match (w.slot k).bind Path.blk with
  | some r => r
  | none => (s.pathHold wk w k true).getD
      (if (s.hdr w).det ∧ (s.core (coreKey w.die w.core)).owner ≠ some wk then 15 else 0)

/-- The reason that R35 names for a wave that issues from neither slot; a missing line freezes both paths (R393). -/
def State.waveReason (s : State) (wk : Nat) (w : Wave) : Nat :=
  if w.slot0.any (·.miss) || w.slot1.any (·.miss) then 5
  else match w.slot0, w.slot1 with
  | none, none => if w.parked.isEmpty then 1 else 8
  | none, some _ => s.pathReason wk w 1
  | some p, some _ => s.pathReason wk w (if p.jw then 1 else 0)
  | some _, none => s.pathReason wk w 0

/-- One cycle of a path's holds: its stall count and SLEEP. -/
def Path.tick (p : Path) : Path :=
  { p with
    hold := match p.hold with | some (n + 1) => some n | h => h
    wait := match p.wait with | .sleep (n + 1) => .sleep n | w => w
    blk := none }

/-- In a halted launch only a path that STEP has released counts on (R401). -/
def Path.stepTick (p : Path) : Path := if p.oneStep then p.tick else p

/-- A wave at the end of a cycle: its stall counters rise (R35, R409), its holds fall (R56, R120), and a ready path that its
quarter passed over is counted (R43); a wave that is off, halted or not begun is frozen. -/
def State.tickWave (s : State) (wk : Nat) (w : Wave) : Wave :=
  if w.off || s.halted w || !(s.teamOf w).begun then
    { w with slot0 := w.slot0.map Path.stepTick, slot1 := w.slot1.map Path.stepTick, issuedNow := false, pair := none }
  else
    let r := s.waveReason wk w
    let busy : Bool := w.quarter ∈ (s.core (coreKey w.die w.core)).quarters
    { w with
      stalls := if w.issuedNow then w.stalls else tset w.stalls r (min (tget w.stalls r 0 + 1) 0xFFFFFFFF) 0
      passed := if busy && !w.issuedNow then (if s.anyReady wk w true then w.passed + 1 else 0) else w.passed
      slot0 := (s.oprMark wk w 0).map Path.tick, slot1 := (s.oprMark wk w 1).map Path.tick
      stack := w.stack.map fun x => { x with path := x.path.tick }
      issuedNow := false, pair := none }

/-- Checkpoint images that a pinned line has kept back are written (R89, R222). -/
def State.lateImages (s : State) : State :=
  (s.waves.filter fun x => x.2.span.stale && x.2.parked.isEmpty && !x.2.off && !s.halted x.2).foldl (fun s x => s.ckptFlush x.1) s

/-- A CYCLE ENDS: the breaks of the cycle follow its arrivals (R38), the faults of a region are settled (R312), late checkpoint images are written (R89), every wave passes
the cycle, and the records that the event queues hold may be taken in the next (R275). -/
def State.tick (s : State) : State :=
  let s := s.applyBreaks.settleRegions.lateImages
  { s with
    now := s.now + 1, cycleOp := s.opSeq
    waves := s.waves.map fun x => (x.1, s.tickWave x.1 x.2)
    teams := s.teams.map fun x => (x.1, { x.2 with evReady := x.2.events.length, evLast := none })
    cores := s.cores.map fun c => (c.1, { c.2 with quarters := [] }) }

/-! ## The default order of steps (log entry 1) -/

/-- The steps without an encoding that may advance a pending operation. -/
def opPicks (id : Nat) (o : Op) : List Instr :=
  if o.finished then [.variableResultCompletion id false]
  else if !o.walked then [.translationWalk id]
  else
    let ls := lanes o.todo
    match o.instr with
    | .ld .. | .ldNf .. | .st .. | .acq .. | .rel .. | .rlxseed .. | .gcfg .. | .hstm .. =>
        ls.flatMap fun l =>
          if o.retry.getLsbD l then [.pinnedRetryAccept id l, .txRetryAccept id l] else [.memoryAccessPerform id l]
    | .atom .. | .red .. | .enq .. | .deq .. | .hldm .. | .hldmRing .. => ls.flatMap fun l => [.atomicPerform id l, .pinnedRetryAccept id l, .gateTimeout id l]
    | .hst .. | .hld .. | .hdrop .. => [.carriedHandleAccess id 0]
    | .hxfer .. => [.hxferDelivery (.outbound id true), .hxferAck id]
    | .tdef .. => [.tdefCompletion id]
    | i => if i.isCommand then [.commandCompletion id] else [.variableResultCompletion id false]

/-- Insert by age: the order in which its team was dispatched, then its logical wave index (R43). -/
def insertBy (x : (Nat × Nat) × Nat) : List ((Nat × Nat) × Nat) → List ((Nat × Nat) × Nat)
  | [] => [x]
  | y :: t =>
      if x.1.1 < y.1.1 || (x.1.1 == y.1.1 && x.1.2 ≤ y.1.2) then x :: y :: t else y :: insertBy x t

/-- The bind that the default order makes of a launch: DMIN dies from its home die up, with every core; the dies that a
step boundary has added come above the others. -/
def defaultBind (lk : Nat) (l : Launch) : BindArgs :=
  let n := if l.st = .running then l.d - l.dieList.length else if l.est.isSome then 1 else l.hdr.dmin
  let first := match l.dieList.getLast? with
    | some d => d + 1
    | none => min l.home (Config.dies - n)
  { launch := lk, wpc := 64, dieList := (List.range n).map fun k => first + k, stagger := l.hdr.stagger, cores := BitVec.allOnes 128 }

/-- A round: every pending operation, the housekeeping of waves, launches and dies, one issue attempt of every
path in age order, and the end of the cycle. -/
def State.round (s : State) : List Pick :=
  let ops := s.ops.flatMap fun o => (opPicks o.1 o.2).map Pick.ev
  let byAge := s.waves.foldl (fun l x => insertBy (((s.teamOf x.2).age, s.lwi x.2), x.1) l) []
  let waves := byAge.flatMap fun x => ([.counterDecrement x.2, .trapDelivery x.2, .waveRetire x.2, .overdueWave x.2,
    .icacheMissFill x.2 0, .icacheMissFill x.2 1, .preemption x.2] : List Instr).map Pick.ev
  let dies := (List.range Config.dies).flatMap fun d => ([.gaugeMerge d, .faultEntryDeferredWrite d,
    .faultCompletionApply d, .operatingPointStable d, .dispatchStep d, .tracePeriodicSync d, .requestRingPoll d 0,
    .requestRingPoll d 1, .poolLevelEval d, .swapOut d, .swapIn d] : List Instr).map Pick.ev
  let frag := s.dies.flatMap fun d => d.2.slots.map fun b => Pick.ev (.fragmentationEvent d.1 b.1)
  let lau := s.launches.flatMap fun l => ([.launchEligible l.1, .bindRecordWrite (defaultBind l.1 l.2),
    .oppChange l.1, .stepBoundary l.1 l.2.d, .haltComplete l.1, .dumpWrite l.1, .replayDivergeEnd l.1,
    .launchComplete l.1, .completionRingRetry l.1] : List Instr).map Pick.ev
  let teams := s.teams.map fun t => Pick.ev (.teamFirstIssue t.1)
  let cores := s.cores.flatMap fun c => (Pick.ev (.deterministicFirstOwner c.1)) ::
    c.2.drains.map fun g => Pick.ev (.granuleDrainComplete c.1 g.1)
  let rest := (s.regions.map fun r => Pick.ev (.passEnd r.1)) ++ (s.asgen.map fun a => Pick.ev (.asgenDrainComplete a.asid))
    ++ (s.keys.filter fun k => k.2.pend.isSome).map fun k => Pick.ev (.keySlotSwitch k.1)
  let late := byAge.filter fun x => (s.wave x.2).any (·.late)
  let issues := (late ++ byAge).flatMap fun x => match s.wave x.2 with
    | some w => if (w.slot1.map (·.passed)).getD 0 ≥ 256 then [Pick.issue x.2 1, .issue x.2 0] else [.issue x.2 0, .issue x.2 1]
    | none => []
  ops ++ waves ++ dies ++ frag ++ lau ++ teams ++ cores ++ rest ++ s.ifetch.map (fun _ => Pick.ifetch 0) ++ issues ++ [.tick]

end Sys2Proof.Machine
end

