-- ==== Sys2Proof/Machine/Cycle.lean ====
section
/-! DEFINITION. One move of the machine, over the meaning `ex` of an instruction: the second word of a pair
first (R63), then the head of the agenda (log entry 1). -/

namespace Sys2Proof.Machine

/-- The meaning of an instruction. -/
abbrev Meaning := Instr → State → Host.Outcome State Fault Refusal

/-- Apply a function to a next state. -/
def onNext (o : Host.Outcome State Fault Refusal) (f : State → State) : Host.Outcome State Fault Refusal :=
  match o with
  | .next s => .next (f s)
  | .fault e => .fault e
  | .refused r => .refused r

/-- The line that a path stands in; an empty one where it cannot be fetched. -/
def State.lineOf (s : State) (w : Wave) (p : Path) : Line :=
  match s.fetch w p with
  | .line l => l
  | _ => ⟨[], 0, 0, 0, true, true⟩

/-- What follows the issue of `i` by a path: the issuing slot is no longer named, and `State.afterIssue`, with the opcode and the
control fields of the word that issued. -/
def State.settleIssue (before : State) (wk k : Nat) (i : Instr) (s : State) : State :=
  let s := { s with cur := none }
  match (before.wave wk).bind fun w => (w.slot k).map fun p => (w, p) with
  | none => s
  | some (w, p) =>
      let l := before.lineOf w p
      let word := l.words.getD (p.pc.toNat % 8) 0
      s.afterIssue wk k i (Fields.ofWord word).opc (decodedCtl (decode (before.hdr w).v l.ver word)) p l (before.ctx i)

/-- The wave's paths were restored from a record that broke R24 to R30: its behaviour is undefined from here on (R399). -/
def State.pathsBroken (s : State) (wk : Nat) : Bool := (s.wave wk).any fun w => w.trap.broken

/-- THE ISSUE OF A PATH: the line is fetched, the word decoded, and the instruction executed (R45, R46). -/
def State.runIssue (ex : Meaning) (wk k : Nat) (s : State) : Host.Outcome State Fault Refusal :=
  match s.prepare wk k with
  | .no s => .next { s with cur := none }
  | .run i s => if s.pathsBroken wk then .fault .pathStateBroken else onNext (ex i s) (s.settleIssue wk k i)
  | .poison h ds s =>
      if s.pathsBroken wk then .fault .pathStateBroken else onNext (issuePoison h ds s) (s.settleIssue wk k (.nop h))

/-- A byte that the host or software writes: every L1 copy is written back first. -/
def State.poke (s : State) (pa : Nat) (b : Byte) : State :=
  let s := (s.evictEverywhere (pa / 128)).soil pa
  { s with mem := memSet s.mem pa b }

/-- The host writes a byte of host memory, or a Reeve core one of module memory (R175, R443); an address with no memory behind
it is not written. A line that a team has pinned gives a retry response, and the write is made again (R222). -/
def State.pokeTry (s : State) (pa : Nat) (b : Byte) : State :=
  if !backed pa then s
  else if s.pinnedAny (pa / 128) then { s with again := s.again ++ [.poke pa b] } else s.poke pa b

/-- A speculative fill is made through the mapping under which the line is held (R165, R177). -/
def State.fillMay (s : State) (key line : Nat) : Bool :=
  !isModuleMem (128 * line) || (tfind s.lineKey line).any fun x => x.key == key

/-- A start register receives a value (Table 31-1). -/
def State.hxWrite (s : State) (reg : Nat) (x : DWord) : State :=
  { s with boot :=
      if reg = 0 then { s.boot with fwimg := x } else if reg = 1 then { s.boot with cfgimg := x }
      else if reg = 2 then { s.boot with retain := x } else s.boot }

/-- Firmware frees a task entry that is left TAKEN (R254). -/
def State.freeTaken (s : State) (die k : Nat) : State :=
  if (s.task die k).st = 3 then s.setTask die k { s.task die k with st := 0 } else s

/-- The operation or the wave that a step without an encoding acts on. -/
def evWave (s : State) (i : Instr) : Option Wave :=
  let of (id : Nat) : Option Wave := (s.op id).map fun o => (s.actor o).1
  match i with
  | .variableResultCompletion id _ | .translationWalk id | .memoryAccessPerform id _ | .atomicPerform id _ | .pinnedRetryAccept id _
  | .txRetryAccept id _ | .gateTimeout id _ | .carriedHandleAccess id _ | .tdefCompletion id | .commandCompletion id | .hxferAck id => of id
  | .stallCountExpiry wk _ | .sleepExpiry wk _ | .counterDecrement wk | .overdueWave wk => s.wave wk
  | _ => none

/-- The step would change something of a launch whose halt is complete (R371). -/
def State.evFrozen (s : State) (i : Instr) : Bool := (evWave s i).any s.stillHalted

/-- One pick of the agenda. A form issues only from a path, never as a pick of its own, and a step that would change something of a
launch whose halt is complete has no effect (R371). -/
def State.pick (ex : Meaning) (p : Pick) (s : State) : Host.Outcome State Fault Refusal :=
  match p with
  | .issue wk k => s.runIssue ex wk k
  | .ev i => if i.ctl.isSome || s.evFrozen i then .next s else ex i { s with cur := none }
  | .tick => .next s.tick
  | .evict ck line => .next (s.evictLine ck line)
  | .back ck pa => .next (s.backByte ck pa)
  | .fill ck key line => .next (if s.fillMay key line then s.touchLine ck key line else s)
  | .soft t => .next (s.modTeam t fun t => { t with softErrs := t.softErrs + 1 })
  | .freeTask die k => .next (s.freeTaken die k)
  | .ifetch n => .next (match s.ifetch[n]? with
      | some (polder, b, key) => ({ s with ifetch := s.ifetch.eraseIdx n } : State).fillOne polder b key
      | none => s)
  | .sample op lane k => .next (if (s.op op).any (fun o => s.stillHalted (s.actor o).1) then s else s.sample op lane k)
  | .drop polder block => .next (s.dropBlock polder block)
  | .untlb die n => .next (s.modDie die fun d => { d with tlb := d.tlb.eraseIdx n })
  | .defect d => .next { s with defects := s.defects ++ [d] }
  | .poke pa b => .next (s.pokeTry pa b)
  | .hx reg x => .next (s.hxWrite reg x)

/-- The wave and slot whose second word of a pair issues now (R63). -/
def State.pairDue (s : State) : Option (Nat × Nat) :=
  s.waves.findSome? fun x => x.2.pair.map fun k => (x.1, k)

/-- ONE MOVE: a pair's second word, the head of the agenda, or, with an empty agenda, a new round. -/
def State.move (ex : Meaning) (s : State) : Host.Outcome State Fault Refusal :=
  match s.pairDue with
  | some (wk, k) => onNext (s.runIssue ex wk k) fun t => (t.modWave wk fun w => { w with pair := none }).bump
  | none =>
      match s.agenda with
      | [] => .next { s with agenda := s.again ++ s.round, again := [] }
      | p :: rest => onNext (({ s with agenda := rest } : State).pick ex p) State.bump

end Sys2Proof.Machine
end

