-- ==== Sys2Proof/Machine/Scheduler.lean ====
section
/-! DEFINITION. The scheduler: eligibility (R380), bind records (R382, R383, R391), dispatch (R384-R386), drains (R86),
first issues (R81, R385), the first owner (R387), fragmentation and repacks (R388, R389), operating points (R390) and step
boundaries (R392). -/

namespace Sys2Proof.Machine

/-! ## Eligibility (R380) -/

/-- A launch that this one depends on is still queued or running. -/
def State.depHeld (s : State) (l : Launch) (dep : Nat) : Bool :=
  dep != 0 && s.launches.any fun x => x.2.refused.isNone && x.2.hdr.asid == l.hdr.asid && x.2.hdr.lid == dep
    && x.2.order < l.order && x.2.st != .done

/-- Task entries that a launch depends on. -/
def Launch.depTasks (l : Launch) : List Nat := [l.hdr.dept0, l.hdr.dept1].filterMap fun d => if d.testBit 15 then some (d % 2 ^ 14) else none

/-- The launch's dependences are met, and the Gauge unit of its home die is free for it (R329, R342). -/
def State.eligible (s : State) (l : Launch) : Bool :=
  !s.depHeld l l.hdr.dep0 && !s.depHeld l l.hdr.dep1
    && l.depTasks.all (fun k => (s.task l.home k).st == 2 && (s.task l.home k).asid == l.hdr.asid)
    && (l.est.isNone || (s.die l.home).gauge.launch.isNone)

def execLaunchEligible (launch : Nat) (s : State) : Host.Outcome State Fault Refusal :=
  .next (match s.launch launch with
  | none => s
  | some l =>
      if l.st = .queued ∧ l.aborted.isNone ∧ s.eligible l then s.modLaunch launch fun l => { l with st := .eligible } else s)

/-! ## Bind records (R382, R383, R391) -/

/-- The wave count of the largest team. -/
def LaunchRec.maxWaves (h : LaunchRec) : Nat := (h.stages.map fun st => wavesOf st.threads).foldl max 0

/-- Another valid record, or a wave of another launch, keeps a launch from some cores of a die where one of the two is
deterministic (R42, R383). -/
def State.coresTaken (s : State) (die lk : Nat) (cores : BitVec 128) (det : Bool) : Bool :=
  ((s.die die).slots.any fun b => b.2.valid && b.2.launch != lk && (det || b.2.det) && (b.2.cores &&& cores) != 0)
    || (det && s.waves.any fun w => w.2.die == die && w.2.launch != lk && !(s.teamOf w.2).out && cores.getLsbD w.2.core)

/-- No launch that is eligible still comes before this one on any die: higher priority first, then queue order, over all home
dies (R383, log entry 29). -/
def State.bindsFirst (s : State) (lk : Nat) (l : Launch) : Bool :=
  s.launches.all fun x => x.1 == lk || x.2.st != .eligible || x.2.aborted.isSome || !s.eligible x.2
    || !(x.2.hdr.prio < l.hdr.prio || (x.2.hdr.prio == l.hdr.prio && x.2.order < l.order))

/-- A slot of the die's table in which a record may be written whole: it holds none with VALID set, and none whose dispatched
teams have still to begin (R382, R385). -/
def Die.freeSlot (d : Die) : Option Nat := (List.range 64).find? fun k => (tfind d.slots k).all fun b => !b.valid && b.waiting.isEmpty

/-- The fields of a bind on one die. -/
def BindArgs.on (b : Sys2Proof.BindArgs) (die : Nat) : Sys2Proof.BindArgs :=
  match b.own.find? fun x => x.1 == die with
  | some (_, wpc, stagger, cores) => { b with wpc := wpc, stagger := stagger, cores := cores }
  | none => b

/-- Dies strictly rising, above a bound. -/
def diesRise : Option Nat → List Nat → Bool
  | _, [] => true
  | b, d :: t => d < Config.dies && b.all (· < d) && diesRise (some d) t

/-- One bind record, for share `k` of a launch (Table 27-5). -/
def State.bindDie (s : State) (b : BindArgs) (l : Launch) (all : List Nat) (die k : Nat) : State :=
  match (s.die die).freeSlot with
  | none => s
  | some i =>
      let b := BindArgs.on b die
      let r : BindRec :=
        { valid := true, det := l.hdr.det, prio := l.hdr.prio, dielo := all.headD 0, diehi := all.getLastD 0, wpc := b.wpc
          qidx := qidxOf l.qseq, stagger := b.stagger, clfirst := k * l.hdr.perShare, cllast := (k + 1) * l.hdr.perShare - 1
          cores := b.cores, launch := b.launch, next := k * l.hdr.perShare }
      s.modDie die fun d => { d with slots := tput d.slots i r }

/-- The record's own conditions (R383). -/
def State.bindOk (s : State) (b : BindArgs) (l : Launch) : Bool :=
  l.aborted.isNone && !b.dieList.isEmpty && b.dieList.all fun d =>
    let b := BindArgs.on b d
    l.hdr.maxWaves ≤ b.wpc && b.wpc ≤ 64 && l.hdr.stagger ≤ b.stagger && b.stagger < 65536 && !s.coresTaken d b.launch b.cores l.hdr.det

/-- Each die of a bind has a slot left. -/
def State.slotsFree (s : State) (ds : List Nat) : Bool := ds.all fun d => (s.die d).freeSlot.isSome

/-- The clusters of a die's share that are left to dispatch when no valid record of the launch stands there: the first and the
last. -/
def State.unbound (s : State) (die lk : Nat) : Option (Nat × Nat) :=
  match s.launch lk with
  | none => none
  | some l =>
      if (s.die die).slots.any fun b => b.2.launch == lk && b.2.valid then none
      else (l.dieList.findIdx? (· == die)).bind fun k =>
        ((List.range l.hdr.perShare).find? fun j => k * l.hdr.perShare + j ∉ l.dispatched).map fun j =>
          (k * l.hdr.perShare + j, (k + 1) * l.hdr.perShare - 1)

/-- VALID of the launch's records on some dies is cleared: no further cluster is dispatched from them (R382). -/
def State.unbind (s : State) (lk : Nat) (ds : List Nat) : State :=
  ds.foldl (fun s d => s.modDie d fun x => { x with slots := x.slots.map fun (b : Nat × BindRec) =>
    (b.1, if b.2.launch = lk then { b.2 with valid := false, fragSince := none } else b.2) }) s

/-- The records of shares from cluster `from_` on, which a step boundary has ended, are given up. -/
def State.dropShares (s : State) (lk from_ : Nat) : State :=
  { s with dies := s.dies.map fun (x : Nat × Die) =>
    (x.1, { x.2 with slots := x.2.slots.filter fun (b : Nat × BindRec) => b.2.launch != lk || b.2.cllast < from_ }) }

/-- Records that were cleared are written whole once more, for the clusters that are left (R382, R383): in the launch's slot, with
the teams that have still to begin, or, where that has been given to another launch, in a free one. -/
def State.rebind (s : State) (b : BindArgs) (l : Launch) : State :=
  b.dieList.foldl (fun s d =>
    match s.unbound d b.launch, ((s.die d).slots.find? fun x => x.2.launch == b.launch && !x.2.waiting.isEmpty).orElse fun _ =>
        (s.die d).freeSlot.map fun k => (k, {}) with
    | some (first, last), some (k, old) =>
        let b := BindArgs.on b d
        let r : BindRec :=
          { valid := true, det := l.hdr.det, prio := l.hdr.prio, dielo := l.dieList.headD 0, diehi := l.dieList.getLastD 0, wpc := b.wpc
            qidx := qidxOf l.qseq, stagger := b.stagger, clfirst := first, cllast := last, cores := b.cores, launch := b.launch
            next := first, waiting := old.waiting, lastFirst := old.lastFirst }
        s.modDie d fun x => { x with slots := tput x.slots k r }
    | _, _ => s) s

/-- THE FIRST BIND of an eligible launch: its tasks are taken, its Gauge unit begins, and a record is written on each die;
or the bind of shares that a step boundary has added (R380, R392). With WPC 0 the step clears VALID of the launch's records
on the dies, and a later one sets it again (R382). -/
def State.bind (s : State) (b : BindArgs) : State :=
  match s.launch b.launch with
  | none => s
  | some l =>
      let n := b.dieList.length
      if b.wpc = 0 ∧ l.st = .running then s.unbind b.launch b.dieList
      else if !s.bindOk b l then s
      else if l.st = .running ∧ (b.dieList.all fun d => (s.unbound d b.launch).isSome) = true then s.rebind b l
      else if !s.slotsFree b.dieList then s
      else if l.st = .eligible then
        if !s.eligible l || !s.bindsFirst b.launch l || !diesRise none b.dieList || n < l.hdr.dmin || l.hdr.dmax < n
            || (l.est.isSome && b.dieList != [l.home]) then s
        else
          let s := l.depTasks.foldl (fun s k => s.setTask l.home k { s.task l.home k with st := 3 }) s
          let s := if l.est.isSome then s.modDie l.home fun d => { d with gauge := { launch := some b.launch } } else s
          let s := s.modLaunch b.launch fun l => { l with st := .running, dieList := b.dieList, d := n }
          b.dieList.zipIdx.foldl (fun s (x : Nat × Nat) => s.bindDie b l b.dieList x.1 x.2) s
      else if l.st = .running ∧ l.dieList.length + n = l.d ∧ diesRise l.dieList.getLast? b.dieList then
        let all := l.dieList ++ b.dieList
        let s := s.dropShares b.launch (l.dieList.length * l.hdr.perShare)
        let s := s.modLaunch b.launch fun l => { l with dieList := all }
        b.dieList.zipIdx.foldl (fun s (x : Nat × Nat) => s.bindDie b l all x.1 (l.dieList.length + x.2)) s
      else s

def execBindRecordWrite (b : BindArgs) (s : State) : Host.Outcome State Fault Refusal := .next (s.bind b)

/-! ## Operating points (R390) -/

/-- The launch's hint is honoured. -/
def Launch.honoured (l : Launch) : Bool := l.oppOk && l.hdr.opp != 0

/-- The die holds a team of another launch. -/
def State.otherTeams (s : State) (die lk : Nat) : Bool := s.teams.any fun t => t.2.die == die && t.2.launch != lk && !t.2.freed && !t.2.out

/-- The dies of an honoured launch that hold no team of another launch are moved to its point. -/
def execOppChange (launch : Nat) (s : State) : Host.Outcome State Fault Refusal :=
  .next (match s.launch launch with
  | none => s
  | some l =>
      if !l.honoured ∨ l.st ≠ .running then s
      else l.dieList.foldl (fun s d =>
        let x := s.die d
        if s.otherTeams d launch || (x.opp == l.hdr.opp && x.oppPend.isNone) || x.oppPend.isSome then s
        else s.modDie d fun x => { x with oppPend := some l.hdr.opp }) s)

/-- The point that a die was moved to is stable. -/
def execOperatingPointStable (die : Nat) (s : State) : Host.Outcome State Fault Refusal :=
  .next (match (s.die die).oppPend with
  | none => s
  | some p => s.modDie die fun d => { d with opp := p, oppPend := none })

/-- The point allows a cluster of the launch on a die: it is stable on every die of the launch, and the first cluster finds
no team of another launch. -/
def State.oppOk (s : State) (l : Launch) (die : Nat) (b : BindRec) : Bool :=
  !l.honoured || ((l.dieList.all fun d => (s.die d).opp == l.hdr.opp && (s.die d).oppPend.isNone)
    && (b.next != b.clfirst || !s.otherTeams die b.launch))

/-! ## Dispatch (R384-R386) -/

/-- The lowest rank of a cluster of an estimating launch. -/
def LaunchRec.lowRank (h : LaunchRec) (cluster : Nat) : Nat := cluster * h.n * (h.stages.headD ⟨0, 0, 1, 0⟩).threads

/-- A cluster of an estimating launch that is never dispatched: beyond N, or after the stop (R329, R333). -/
def State.excused (s : State) (l : Launch) (cluster : Nat) : Bool :=
  match l.est with
  | none => false
  | some e => e.n ≤ l.hdr.lowRank cluster || (s.die l.home).gauge.st == 1

/-- The head cluster of a record may be dispatched now. -/
def State.mayDispatch (s : State) (die : Nat) (b : BindRec) (l : Launch) : Bool :=
  b.next ≤ b.cllast && l.halt.isNone && l.aborted.isNone && !s.excused l b.next
    && (l.est.isNone || l.hdr.lowRank b.next < (s.die l.home).gauge.low + 65536) && s.oppOk l die b

/-- The polders of a die in the order of an attempt: round-robin from the one after the last. -/
def BindRec.polders (b : BindRec) : List Nat := (List.range 32).map fun i => (((b.last.map (· + 1)).getD 0) + i) % 32

/-- Change a bind record. -/
def State.modSlotRec (s : State) (die slot : Nat) (f : BindRec → BindRec) : State :=
  s.modDie die fun d => { d with slots := tmod d.slots slot f }

/-- The head cluster of a record is placed on the first polder where every team fits; none where it fits nowhere. -/
def State.dispatchRec (s : State) (die slot : Nat) (b : BindRec) (l : Launch) : Option State :=
  (b.polders.findSome? fun p => (s.attempt true die b l.hdr p).map fun xs => (p, xs)).map fun x =>
    let s := x.2.foldl (fun s y => s.placeTeam b.launch l die b.next y) s
    let s := s.modLaunch b.launch fun l => { l with dispatched := l.dispatched ++ [b.next] }
    s.modSlotRec die slot fun b => { b with
      next := b.next + 1, last := some x.1, fragSince := none, fragSent := false
      waiting := b.waiting ++ x.2.map fun y => teamKey b.launch b.next y.1 }

/-- The lowest polder on which the head cluster is fragmentation-blocked (R388). -/
def State.fragPolder (s : State) (die : Nat) (b : BindRec) (h : LaunchRec) : Option Nat :=
  (List.range 32).find? fun p => (s.attempt true die b h p).isNone && (s.attempt false die b h p).isSome

/-- Records in the order of a step: ascending priority, then slot. -/
def Die.bindOrder (d : Die) : List (Nat × BindRec) := [0, 1, 2, 3].flatMap fun p => d.slots.filter fun b => b.2.valid && b.2.prio == p

/-- No attempt is made for some records in this step: they are not blocked in it (R388). -/
def State.unblocked (s : State) (die : Nat) (ks : List Nat) : State :=
  ks.foldl (fun s k => s.modSlotRec die k fun b => { b with fragSince := none }) s

/-- At most one cluster is dispatched; a record whose head fits nowhere notes whether fragmentation blocks it, and one for which
no attempt is made is not blocked in this step. -/
def State.dispatchFrom (s : State) (die : Nat) : List (Nat × BindRec) → State
  | [] => s
  | (k, b) :: t =>
      match s.launch b.launch with
      | none => (s.unblocked die [k]).dispatchFrom die t
      | some l =>
          if !s.mayDispatch die b l then (s.unblocked die [k]).dispatchFrom die t
          else match s.dispatchRec die k b l with
          | some s => s.unblocked die (t.map (·.1))
          | none =>
              let since := if (s.fragPolder die b l.hdr).isSome then (match b.fragSince with | some x => some x | none => some s.now) else none
              (s.modSlotRec die k fun b => { b with fragSince := since }).dispatchFrom die t

/-! ## Repacks (R389) and restarts (R92, R400) -/

/-- Waves of a team. -/
def State.wavesOf (s : State) (tk : Nat) : List (Nat × Wave) := s.waves.filter fun w => w.2.team == tk

/-- A team's block leaves REG and is placed again at the lowest base that R83 allows. The registers of its retired waves, which no
restart writes again, read through the window as they stood: the spec does not say what they hold then (DESIGN CHOICE, log
entry 18). -/
def State.replaceTeam (s : State) (tk : Nat) (t : Team) : State :=
  let ck := coreKey t.die t.core
  let v := ((s.launch t.launch).map fun l => l.hdr.v).getD 8
  match t.base with
  | none => s
  | some b =>
      let s := s.granFree ck (blockGrans b t.waves v)
      match (s.roomOf ck t.launch).block true (blockGran t.waves v) with
      | none => s
      | some gs => (s.claimGrans ck gs (.reg tk)).modTeam tk fun t => { t with base := some (32 * gs.headD 0) }

/-- A SYSW that ordered a repack of the team completes (R389, R421). -/
def State.repackEnd (s : State) (die tk : Nat) : State :=
  let ids := ((s.die die).repackOps.filter fun x => x.1 == tk).map (·.2)
  ids.foldl (fun s id => s.opDone id false) (s.modDie die fun d => { d with repackOps := d.repackOps.filter fun x => x.1 ≠ tk })

/-- Each team that waits for a repack: once its last wave is taken, its block is placed again. -/
def State.repackStep (s : State) (die : Nat) : State :=
  (s.die die).repacking.foldl (fun s tk =>
    let drop (s : State) : State := s.modDie die fun d => { d with repacking := d.repacking.filter (· ≠ tk) }
    match s.team tk with
    | none => (drop s).repackEnd die tk
    | some t =>
        if t.freed || t.out then (drop s).repackEnd die tk
        else if !(s.wavesOf tk).all (fun w => w.2.off) then s
        else (drop (s.replaceTeam tk t)).modDie die fun d => { d with replaced := d.replaced ++ [tk] }) s

/-- A granule of a team is still in DRAIN. -/
def State.draining (s : State) (tk : Nat) (t : Team) : Bool :=
  (s.core (coreKey t.die t.core)).drains.any fun g => g.2 == .reg tk || g.2 == .scr tk

def State.restartAll : List Nat → State → Host.Outcome State Fault Refusal
  | [], s => .next s
  | k :: t, s =>
      match s.restart k with
      | .next s => s.restartAll t
      | .fault e => .fault e
      | .refused r => .refused r

/-- The waves of teams that are placed again restart when their granules have left DRAIN, those of a cluster that is restored
when every team's have (R400). -/
def State.restartTeams (die : Nat) : List Nat → State → Host.Outcome State Fault Refusal
  | [], s => .next s
  | tk :: ts, s =>
      let drop (s : State) : State := s.modDie die fun d => { d with replaced := d.replaced.filter (· ≠ tk) }
      match s.team tk with
      | none => (drop s).restartTeams die ts
      | some t =>
          if s.teams.any fun u => u.2.launch == t.launch && u.2.cluster == t.cluster && s.draining u.1 u.2 then s.restartTeams die ts
          else match s.restartAll ((s.wavesOf tk).map (·.1)) with
          | .next s => ((drop s).repackEnd die tk).restartTeams die ts
          | .fault e => .fault e
          | .refused r => .refused r

/-- A DISPATCH STEP of a die: re-placements come before any cluster (R389). -/
def execDispatchStep (die : Nat) (s : State) : Host.Outcome State Fault Refusal :=
  let s := s.repackStep die
  match s.restartTeams die (s.die die).replaced with
  | .next s => .next (s.dispatchFrom die (s.die die).bindOrder)
  | .fault e => .fault e
  | .refused r => .refused r

/-- A head cluster that has been fragmentation-blocked for 4,096 cycles is reported once (R388). -/
def execFragmentationEvent (die slot : Nat) (s : State) : Host.Outcome State Fault Refusal :=
  .next (match tfind (s.die die).slots slot with
  | none => s
  | some b =>
      match b.fragSince, s.launch b.launch with
      | some t, some l =>
          (match s.fragPolder die b l.hdr with
          | some p =>
              if !b.valid || b.fragSent || s.now < t + 4096 then s
              else (s.modSlotRec die slot fun b => { b with fragSent := true }).event (.fragmentation die slot b.next p)
          | none => s)
      | _, _ => s)

/-! ## Drains and first issues (R81, R86, R385, R387) -/

/-- A claimed granule has been written back, invalidated and zeroed; one that its team has given up meanwhile is in CACHE. -/
def execGranuleDrainComplete (core granule : Nat) (s : State) : Host.Outcome State Fault Refusal :=
  .next (match tfind (s.core core).drains granule with
  | none => s
  | some g => (s.trimL1 core).modCore core fun c => { c with
      grans := if g = .cache then tdel c.grans granule else tput c.grans granule g, drains := tdel c.drains granule })

/-- A TEAM MAY BEGIN: every granule of its cluster has left DRAIN, the teams before it have made their first issues, and the
spacing is kept. The L1 of its core is written back and dropped, so that it sees what was hb-before the launch (R379, R414). -/
def execTeamFirstIssue (team : Nat) (s : State) : Host.Outcome State Fault Refusal :=
  .next (match s.team team with
  | none => s
  | some t =>
      let mates := s.teams.filter fun u => u.2.launch == t.launch && u.2.cluster == t.cluster
      match s.waitSlot team t with
      | none => s
      | some (_, b) =>
          if t.begun || (b.waiting.find? fun x => s.waves.any fun w => w.2.team == x) != some team || mates.any (fun u => s.draining u.1 u.2)
              || (match b.lastFirst with | some x => s.now < x + b.stagger | none => false)
              || (s.launch t.launch).any (fun l => l.halt.isSome || l.aborted.isSome) then s
          else
            let ck := coreKey t.die t.core
            let s := s.flushL1 ck
            s.modTeam team fun t => { t with begun := true })

/-- A core of a deterministic launch without an owner gives ownership (R387). -/
def execDeterministicFirstOwner (core : Nat) (s : State) : Host.Outcome State Fault Refusal :=
  .next (if (s.core core).owner.isSome || !(s.wavesOn core).any (fun w => (s.hdr w.2).det) then s
  else s.modCore core fun c => { c with owner := s.pickOwner core })

/-! ## Step boundaries (R392) -/

/-- Each wave of an active share has arrived at the boundary. -/
def State.atBoundary (s : State) (lk : Nat) (l : Launch) : Bool :=
  s.waves.all fun w => w.2.launch != lk || l.withdrawn.contains (l.hdr.share (s.teamOf w.2).cluster) || w.2.stepN == l.boundary + 1

/-- Every cluster of the active shares has been dispatched. -/
def Launch.allDispatched (l : Launch) : Bool := (List.range (l.d * l.hdr.perShare)).all fun c => c ∈ l.dispatched

/-- THE BOUNDARY with a new count of dies: STEPMK completes in every wave, with the withdrawn status in the shares that
leave; the shares that come are dispatched on dies bound anew. What came before any wave's STEPMK happens before what follows in
every wave, and before the new shares. -/
def State.boundaryStep (s : State) (lk d : Nat) : State :=
  match s.launch lk with
  | none => s
  | some l =>
      if l.st ≠ .running ∨ l.aborted.isSome ∨ l.halt.isSome ∨ l.dieList.length ≠ l.d ∨ d < l.hdr.dmin ∨ l.hdr.dmax < d ∨ !l.allDispatched
          ∨ (l.d < d ∧ (s.waves.any fun w => w.2.launch == lk && l.d ≤ l.hdr.share (s.teamOf w.2).cluster) = true) ∨ !s.atBoundary lk l ∨ !(s.waves.any fun w => w.2.launch == lk && w.2.stepN == l.boundary + 1) then s
      else
        let s := s.cores.foldl (fun s c => s.flushL1 c.1) s
        let s := (s.teams.filter fun t => t.2.launch == lk).foldl (fun s t => s.unpinTeam t.1 4) s
        let out := (List.range (l.d - d)).map fun k => d + k
        let gone := ((l.withdrawn ++ out).filter fun k => d ≤ k).eraseDups
        let share := l.hdr.perShare
        let ops := s.ops.filter fun o => o.2.launch == lk && (match o.2.instr with | .stepmk .. => true | _ => false)
        let wks := ops.map fun o => o.2.wave
        let s := s.meet wks
        let hs := wks.foldl (fun hs wk => joinHeard hs (((s.wave wk).map Wave.seen).getD [])) []
        let s := s.modLaunch lk fun l => { l with
          seen := joinHeard l.seen hs
          d := d, boundary := l.boundary + 1, dieList := l.dieList.take d, withdrawn := gone
          dispatched := l.dispatched.filter fun c => c < min d l.d * share }
        let s := { s with dies := s.dies.map fun (x : Nat × Die) => (x.1, { x.2 with slots := x.2.slots.map fun (b : Nat × BindRec) =>
          if b.2.launch = lk ∧ d * share ≤ b.2.clfirst then (b.1, { b.2 with valid := false }) else b }) }
        ops.foldl (fun s o =>
          let w := (s.actor o.2).1
          let pw := match o.2.instr with | .stepmk _ p => p | _ => 7
          (s.opWrite o.1 [laneConst (.p pw) o.2.mask (if s.withdrawn w then 1 else 0)]).opDone o.1 true) s

def execStepBoundary (launch d : Nat) (s : State) : Host.Outcome State Fault Refusal := .next (s.boundaryStep launch d)

end Sys2Proof.Machine
end

