-- ==== Sys2Proof/Machine/Finish.lean ====
section
/-! DEFINITION. The end of a launch: its records (R211, R215, R334, R341), its tasks and its completion record (R381);
context switches (R400); the release of an address space (Table 24-5); and the periodic SYNC groups (R406). -/

namespace Sys2Proof.Machine

/-! ## The records of a launch -/

/-- The result record (Table 23-3). -/
def GaugeUnit.record (g : GaugeUnit) (aborted : Bool) : List Byte :=
  leBytes 4 (if aborted then 3 else g.st) ++ leBytes 4 g.nstop ++ leBytes 8 g.c ++ leBytes 8 g.mean.toNat ++ leBytes 8 g.var
    ++ leBytes 8 g.m2.toNat ++ List.replicate 24 0

/-- Stores of 8 bytes in turn; the first that meets a code ends them (R334). -/
def State.putWords (s : State) (die asid : Nat) : DWord → List (List Byte) → State × Nat
  | _, [] => (s, 0)
  | a, b :: bs =>
      let mis : Bool := a.toNat % 8 != 0
      match s.asidWrite die asid a b with
      | .error c => (s, if mis then min c fMisaligned else c)
      | .ok t => if mis then (s, fMisaligned) else t.putWords die asid (a + 8) bs

/-- The Gauge unit of an estimating launch writes its record, and is free again (R334, R341, R342). -/
def State.gaugeEnd (s : State) (lk : Nat) (l : Launch) (e : EstBlock) : State :=
  let g := (s.die l.home).gauge
  let g := if g.launch = some lk then g else {}
  let bs := g.record l.aborted.isSome
  let (s, c) := s.putWords l.home l.hdr.asid e.result ((List.range 8).map fun k => (bs.drop (8 * k)).take 8)
  let s := s.modLaunch lk fun l => { l with resultCode := c }
  if g.launch = some lk then s.modDie l.home fun d => { d with gauge := {} } else s

/-- A log write at the end, which a fault leaves unmade. -/
def State.logEnd (s : State) (l : Launch) (off : Nat) (bs : List Byte) : State := (s.logWrite l off bs).getD s

/-- The end of a recording: the open chunks in ascending unit, then HASH, COUNT and DONE, with OVF when recording stopped early
(R211, R212). -/
def State.recordEnd (s : State) (lk : Nat) (l : Launch) : State :=
  let s := l.rr.chunks.foldl (fun s (x : Nat × List Chunk) => x.2.foldl (fun s ch => s.closeChunk lk x.1 ch) s) s
  let n := ((s.launch lk).map fun l => l.rr.count).getD 0
  let ovf : Bool := (s.launch lk).any fun l => l.rr.ovf
  ((s.logEnd l 16 (leBytes 8 l.rr.hash.toNat)).logEnd l 4 (leBytes 4 n)).logFlags l (if ovf then 3 else 1)

/-- The end of a replay that met no cause: RHASH, then RCAUSE and RDONE (R215). -/
def State.replayEnd (s : State) (lk : Nat) (l : Launch) : State :=
  if l.rr.cause.isSome then s
  else
    let c : Nat := if l.rr.chunks.any fun (x : Nat × List Chunk) => !x.2.isEmpty then 4 else if l.rr.hash = l.rr.logHash then 0 else 1
    let s := (s.logEnd l 24 (leBytes 8 l.rr.hash.toNat)).logEnd l 0 [BitVec.ofNat 8 (16 * c + 8 + 1)]
    if c = 0 then s else s.modLaunch lk fun l => { l with rr := { l.rr with cause := some c } }

/-- The next operation that an ending launch owes its die's task table: the TKDONE of a task that it took, or the decrement of a
successor (R254, R380, R381, Table 17-7). -/
def State.launchTask (s : State) (lk : Nat) (l : Launch) : State :=
  let rest (ts : List Nat) (s : State) : State := s.modLaunch lk fun l => { l with tasks := ts }
  match l.tasks with
  | [] => s
  | x :: xs =>
      if x < 0x4000 then rest xs (s.taskSucc l.home x)
      else
        let k := x - 0x4000
        let t := s.task l.home k
        if t.st = 3 ∧ t.asid = l.hdr.asid then rest (t.succs ++ xs) (s.setTask l.home k { t with st := 0 }) else rest xs s

/-! ## Completion (R381) -/

/-- The operation keeps its launch from completing: a command, or an access, a transfer, the spreading of an identifier or a
task operation that has not been made. An atomic that the gate does not let through never performs once the launch is
aborted. -/
def State.keepsLaunch (s : State) (o : Op) (l : Launch) : Bool :=
  if o.isCmd then !o.finished
  else (o.isMem && (lanes o.todo).any fun k => !(l.aborted.isSome && s.gateShut o k)) || o.tkBegun
    || (match o.instr with
      | .hst .. | .hxfer .. | .hdrop .. => !o.finished
      | .tdef .. => o.tens != []
      | _ => false)

/-- Every cluster of a launch is dispatched or never will be. -/
def State.allSent (s : State) (l : Launch) : Bool :=
  l.dieList.length == l.d && (List.range (l.d * l.hdr.perShare)).all fun c => decide (c ∈ l.dispatched) || s.excused l c

/-- A line of the records that the launch's end writes is pinned by a team: the end waits (R222). -/
def State.endHeld (s : State) (lk : Nat) (l : Launch) : Bool :=
  (l.est.any fun e => s.asidHeld l.home l.hdr.asid e.result 64) || s.logHeld lk

/-- Every wave and command of the launch has ended, and every team record is written (R410). -/
def State.launchOver (s : State) (lk : Nat) (l : Launch) : Bool :=
  (l.aborted.isSome || (l.st == .running && s.allSent l))
    && l.owes.isEmpty && !s.endHeld lk l && !(s.waves.any fun w => w.2.launch == lk) && !(s.ops.any fun o => o.2.launch == lk && s.keepsLaunch o.2 l)
    && (l.aborted.isSome || l.est.isNone || (s.die l.home).gauge.launch != some lk || (s.die l.home).gauge.st != 0)

/-- The records are written, the tasks' ends are owed, and what the launch held is given up. Completion is a release at .SYSTEM
scope, so every core's lines are written back. -/
def State.launchRecords (s : State) (lk : Nat) (l : Launch) : State :=
  let s := { s with ops := s.ops.filter fun (o : Nat × Op) => o.2.launch != lk }
  let s := match l.est with | some e => s.gaugeEnd lk l e | none => s
  let s := if l.hdr.rrmode = 1 then s.recordEnd lk l else if l.hdr.rrmode = 2 then s.replayEnd lk l else s
  let s := s.cores.foldl (fun s (c : Nat × Core) => s.flushL1 c.1) s
  let s := { s with
    teams := s.teams.filter fun (t : Nat × Team) => t.2.launch != lk
    dies := s.dies.map fun (d : Nat × Die) => (d.1, { d.2 with slots := d.2.slots.filter fun (b : Nat × BindRec) => b.2.launch != lk }) }
  s.modLaunch lk fun l => { l with tkdone := true, tasks := if l.dieList.isEmpty then [] else l.depTasks.map (0x4000 + ·) }

/-- The completion record is enqueued; while the ring is full the launch is not complete (R381). A refused launch is
forgotten once its record is enqueued (R378). -/
def State.ringDone (s : State) (lk : Nat) : State :=
  match s.launch lk with
  | none => s
  | some l =>
      let done (s : State) : State :=
        if l.refused.isSome then { s with launches := tdel s.launches lk }
        else s.modLaunch lk fun l => { l with st := .done, owed := false }
      if l.hdr.cring = 0 then done s
      else match s.ringPush l.home l.hdr.asid l.hdr.cring l.completion with
        | some s => done s
        | none => s.modLaunch lk fun l => { l with owed := true }

/-- Nothing is owed to the task table any more: the completion record is enqueued. -/
def State.launchEnd (s : State) (lk : Nat) : State :=
  if (s.launch lk).any fun l => l.tasks != [] then s else s.ringDone lk

/-- LAUNCH_COMPLETE: the team records that killed waves owe; the records of a launch that is over, then one task operation in each step, then its completion. -/
def execLaunchComplete (launch : Nat) (s : State) : Host.Outcome State Fault Refusal :=
  .next (match s.launch launch with
  | none => s
  | some l =>
      if l.tkdone ∧ l.tasks ≠ [] then (s.launchTask launch l).launchEnd launch
      else if l.st = .done ∨ l.tkdone ∨ l.refused.isSome then s
      else if l.owes ≠ [] then l.owes.foldl (fun s r => s.oweTry launch l r) s
      else if !s.launchOver launch l then s
      else (s.launchRecords launch l).launchEnd launch)

def execCompletionRingRetry (launch : Nat) (s : State) : Host.Outcome State Fault Refusal :=
  .next (match s.launch launch with
  | none => s
  | some l => if l.owed then s.ringDone launch else s)

/-! ## Context switches (R400) -/

/-- The teams of a cluster, in ascending logical team index. -/
def State.clusterTeams (s : State) (lk c : Nat) : List (Nat × Team) := s.teams.filter fun t => t.2.launch == lk && t.2.cluster == c

/-- The operation of a wave that is taken off still goes on: a command, or an access that can perform. -/
def State.goesOn (s : State) (id : Nat) (o : Op) : Bool :=
  if o.isCmd then !o.finished
  else o.isMem && o.todo != 0 && (!o.walked || (lanes o.todo).any fun l => o.ready l && !thas o.gated l && !s.heldBack id o l)

/-- An ACCALLOC that waits for a tile. -/
def Op.wantsAcc (o : Op) : Option Nat := match o.instr with | .accalloc _ _ _ n => if o.finished then none else some n | _ => none

/-- A team's state is saved and what it held of its core is given up (R400 steps 4 and 5). The weight slots that it loaded last are
saved, and stay on the core, to which they belong (R245). -/
def State.saveTeam (s : State) (tk : Nat) (t : Team) : State :=
  let ck := coreKey t.die t.core
  let s := s.flushL1 ck
  let s := s.granFree ck t.gran
  if t.freed then s.modTeam tk fun t => { t with out := true, gran := [] }
  else
    let v := ((s.launch t.launch).map fun l => l.hdr.v).getD 8
    let s := match t.base with
      | some b => s.granFree ck (blockGrans b t.waves v)
      | none => s
    let accs : List (Nat × Acc) := [0, 1, 2, 3].filterMap fun n => if (s.acc ck n).holder == some tk then some (n, s.acc ck n) else none
    let slots := (s.core ck).wslots.filter fun x => x.2.lastTeam == some tk
    let s := [0, 1, 2, 3].foldl (fun s n => s.modAcc ck n fun a =>
      { a with waiters := a.waiters.filter fun id => ((s.op id).map fun o => o.wave / 32) != some tk }) s
    let s := accs.foldl (fun s (x : Nat × Acc) => (s.modAcc ck x.1 fun a => { waiters := a.waiters }).accNext ck x.1) s
    let s := s.modCore ck fun c => { c with
      barUsed := c.barUsed - t.bars
      owner := if c.owner.any (fun w => w / 32 == tk) then none else c.owner }
    s.modTeam tk fun t => { t with out := true, base := none, gran := [], accs := accs, wslots := slots }

/-- CONTEXT_SWITCH of a cluster: its waves are pre-empted; once all of them are off and its commands have completed, the
cluster leaves its cores. The firmware repeats the step until then. -/
def State.switchOut (s : State) (lk c : Nat) : State :=
  let ts := s.clusterTeams lk c
  let ws := s.waves.filter fun w => w.2.launch == lk && ts.any fun t => t.1 == w.2.team
  if ts.isEmpty || ts.any (fun t => t.2.out || (!t.2.freed && !t.2.begun) || decide (t.1 ∈ (s.die t.2.die).repacking)
      || decide (t.1 ∈ (s.die t.2.die).replaced)) || ws.isEmpty then s
  else
    let s := ws.foldl (fun s w => if w.2.off then s else (s.modWave w.1 fun w => { w with preempt := some .switch }).strike w.1) s
    if !(s.waves.filter fun w => ws.any fun x => x.1 == w.1).all fun w => w.2.off then s
    else
      if s.ops.any fun o => ts.any (fun t => t.1 == o.2.wave / 32) && s.goesOn o.1 o.2 then s
      else ts.foldl (fun s t => s.saveTeam t.1 t.2) (ts.foldl (fun s t => s.unpinTeam t.1 4) s)

def execContextSwitch (launch cluster : Nat) (s : State) : Host.Outcome State Fault Refusal := .next (s.switchOut launch cluster)

/-- Requests for tiles that a restored team had pending: granted, or waiting again (R244). -/
def State.reask (s : State) (ck tk : Nat) : State :=
  (s.ops.filter fun o => o.2.wave / 32 == tk).foldl (fun s o => match o.2.wantsAcc with
    | none => s
    | some n =>
        if (s.acc ck n).holder = some tk then s.accAnswer o.1 true
        else if (s.acc ck n).holder.isNone then (s.accGive ck n tk).accAnswer o.1 true
        else (s.modAcc ck n fun a => { a with waiters := a.waiters ++ [o.1] }).breakCycles ck 16) s

/-- A saved weight slot comes back; where another resident team has loaded the slot since, its contents are undefined
(R245). -/
def State.slotBack (s : State) (ck tk n : Nat) (x : WSlot) : State :=
  let others := (s.wslot ck n).teams.filter fun t => t != tk && (s.team t).any fun t => t.base.isSome
  s.modCore ck fun c => { c with wslots := tput c.wslots n { x with lost := x.lost || others != [], teams := tk :: others } }

/-- A team of a cluster that was switched out takes its place on a core; none where it does not fit. -/
def State.restoreTeam (s : State) (l : Launch) (b : BindRec) (tk : Nat) (t : Team) (core : Nat) : Option State :=
  let ck := coreKey t.die core
  let st := l.hdr.stages.getD (stageOf l.hdr t.lti) ⟨0, 0, 1, 0⟩
  let st := if t.freed then { st with threads := 0, bars := 0 } else st
  if t.accs.any fun x => (s.acc ck x.1).holder.isSome then none
  else match (s.roomOf ck t.launch).fit true l.hdr.v b.wpc l.hdr.det st with
    | none => none
    | some (sp, _) =>
        let s := s.claimGrans ck sp.scr (.scr tk)
        if t.freed then some (s.modTeam tk fun t => { t with out := false, core := core, gran := sp.scr })
        else
          let s := s.claimGrans ck ((List.range (blockGran t.waves l.hdr.v)).map fun k => sp.base + k) (.reg tk)
          let s := s.modCore ck fun c => { c with barUsed := c.barUsed + t.bars }
          let s := ((s.waves.filter fun w => w.2.team == tk).zip sp.slots).foldl (fun s (x : (Nat × Wave) × Nat) =>
            s.modWave x.1.1 fun w => { w with core := core, wslot := x.2 }) s
          let s := s.modTeam tk fun t => { t with
            out := false, core := core, base := some (32 * sp.base), gran := sp.scr, accs := [], wslots := [] }
          let s := t.accs.foldl (fun s (x : Nat × Acc) => s.modAcc ck x.1 fun _ => { x.2 with waiters := [] }) s
          let s := t.wslots.foldl (fun s (x : Nat × WSlot) => s.slotBack ck tk x.1 x.2) s
          some ((s.reask ck tk).modDie t.die fun d => { d with replaced := d.replaced ++ [tk] })

def State.restoreTeams (s : State) (l : Launch) (b : BindRec) : List ((Nat × Team) × Nat) → Option State
  | [] => some s
  | x :: xs => match s.restoreTeam l b x.1.1 x.1.2 x.2 with
    | none => none
    | some s => s.restoreTeams l b xs

/-- CONTEXT_RESTORE: the cluster goes whole onto cores of one polder that its bind record allows, one core for each team;
its waves restart at a dispatch step, when its granules have left DRAIN. -/
def State.switchIn (s : State) (lk c : Nat) (cores : List Nat) : State :=
  let ts := s.clusterTeams lk c
  let p := cores.headD 0 / 4
  match s.launch lk, ts with
  | some l, (_, t0) :: _ =>
      (match (s.die t0.die).slots.find? fun b => b.2.launch == lk && l.hdr.share b.2.cllast == l.hdr.share c with
      | none => s
      | some (_, b) =>
          if l.aborted.isSome || ts.length != cores.length || !(ts.all fun t => t.2.out)
              || !(cores.all fun k => k < Config.coresPerDie && k / 4 == p && b.cores.getLsbD k) then s
          else (s.restoreTeams l b (ts.zip cores)).getD s)
  | _, _ => s

def execContextRestore (launch cluster : Nat) (cores : List Nat) (s : State) : Host.Outcome State Fault Refusal :=
  .next (s.switchIn launch cluster cores)

/-! ## The release of an address space (Table 24-5) -/

/-- A tile goes to FREE whatever its counts; a load that is parked on it finds it freed (R347). -/
def State.tileDrop (s : State) (die ix : Nat) : State :=
  let t := s.tile die ix
  let parked := s.ops.filter fun o => o.2.parkedOn die ix
  let s := (s.modTile die ix fun t => { gen := (t.gen + 1) % 65536 }).modDie die fun d => { d with poolUsed := d.poolUsed - tilePages t.size }
  parked.foldl (fun s o => s.carried o.1 0) s

def State.asidTiles (s : State) (asid : Nat) : State :=
  s.dies.foldl (fun s (d : Nat × Die) => (d.2.tiles.filter fun t => t.2.st != 0 && t.2.asid == asid).foldl
    (fun s (t : Nat × Tile) => s.tileDrop d.1 t.1) s) s

/-- The tensor identifiers of an address space are undefined at its creation (R238). -/
def State.asidTensors (s : State) (asid : Nat) : State :=
  { s with tensors := s.tensors.filter fun x => x.1 % 2 ^ 24 / 4096 ≠ asid, touched := s.touched.filter fun x => x.1 / 4096 ≠ asid }

def execAddressSpaceRelease (asid : Nat) (s : State) : Host.Outcome State Fault Refusal := .next ((s.asidTiles asid).asidTensors asid)

/-! ## Periodic SYNC groups (R406) -/

/-- The traced resident waves of a die, in ascending core and wave slot. -/
def State.tracedOn (s : State) (die : Nat) : List Nat :=
  let ws := s.waves.filter fun w => w.2.die == die && w.2.trace && !(s.teamOf w.2).out
  (List.range Config.coresPerDie).flatMap fun c =>
    let on := ws.filter fun w => w.2.core == c
    (List.range Config.waveSlots).flatMap fun k => (on.filter fun w => w.2.wslot == k).map (·.1)

/-- After 4,096 records outside SYNC groups, each traced resident wave's group is written. -/
def execTracePeriodicSync (die : Nat) (s : State) : Host.Outcome State Fault Refusal :=
  .next (if (s.die die).trace.sinceSync < 4096 then s
  else
    let ws := s.tracedOn die
    let s := ws.foldl (fun s w => s.syncGroup w) s
    s.modDie die fun d => { d with trace := { d.trace with sinceSync := 0, resync := d.trace.resync.filter fun w => decide (w ∉ ws) } })

end Sys2Proof.Machine
end

