-- ==== Sys2Proof/Machine/Integer.lean ====
section
/-! DEFINITION. The integer, address and move forms, opcodes 0x040 to 0x05E, and the predicate forms, 0x160 to 0x163
(spec 07 R96-R107). -/

namespace Sys2Proof.Machine

/-! ## The functions of Table 7-1 -/

/-- a + b, a − b: modulo 2^32, or the exact result clamped to TYPE (R101). -/
def addSat (ty : Ty) (sat : Bool) (a b : Word) : Word := if sat then ty.clamp (ty.int a + ty.int b) else a + b
def subSat (ty : Ty) (sat : Bool) (a b : Word) : Word := if sat then ty.clamp (ty.int a - ty.int b) else a - b
/-- Bits 63–32 of the exact product. -/
def mulHigh (ty : Ty) (a b : Word) : Word := BitVec.ofInt 32 (ty.int a * ty.int b / 2 ^ 32)
def madSat (ty : Ty) (sat : Bool) (a b c : Word) : Word :=
  if sat then ty.clamp (ty.int a * ty.int b + ty.int c) else a * b + c
def minOf (ty : Ty) (a b : Word) : Word := if ty.int b < ty.int a then b else a
def maxOf (ty : Ty) (a b : Word) : Word := if ty.int a < ty.int b then b else a
def absOf (a : Word) : Word := if a.toInt < 0 then -a else a
def lut3Of (lut : BitVec 8) (a b c : Word) : Word :=
  maskOf fun i => lutBit lut (a.getLsbD i) (b.getLsbD i) (c.getLsbD i)
def shlOf (a b : Word) : Word := if 32 ≤ b.toNat then 0 else a <<< b.toNat
def shrOf (a b : Word) : Word := if 32 ≤ b.toNat then 0 else a >>> b.toNat
def sarOf (a b : Word) : Word := a.sshiftRight (min b.toNat 32)
/-- SHF: the double word b : a shifted by min(c, 32). -/
def shfOf (right : Bool) (a b c : Word) : Word :=
  let n := min c.toNat 32
  let x : DWord := b ++ a
  if right then (x >>> n).setWidth 32 else ((x <<< n) >>> 32).setWidth 32
def popcOf (a : Word) : Word := BitVec.ofNat 32 (lanes a).length
def clzOf (a : Word) : Word := BitVec.ofNat 32 (if a = 0 then 32 else 31 - Nat.log2 a.toNat)
def brevOf (a : Word) : Word := maskOf fun i => a.getLsbD (31 - i)
/-- BFE, BFI (R102): position bits 7–0 of b, length bits 15–8. -/
def bfeOf (ty : Ty) (a b : Word) : Word :=
  let p := b.toNat % 256
  let n := b.toNat / 256 % 256
  if 32 ≤ p ∨ n = 0 then 0
  else
    let n := min n (32 - p)
    let f := a.toNat / 2 ^ p % 2 ^ n
    match ty with
    | .s32 => if f / 2 ^ (n - 1) % 2 = 1 then BitVec.ofInt 32 ((f : Int) - 2 ^ n) else BitVec.ofNat 32 f
    | .u32 => BitVec.ofNat 32 f
def bfiOf (a b c : Word) : Word :=
  let p := b.toNat % 256
  let n := b.toNat / 256 % 256
  if 32 ≤ p ∨ n = 0 then c
  else
    let n := min n (32 - p)
    let m : Word := BitVec.ofNat 32 ((2 ^ n - 1) * 2 ^ p)
    (c &&& ~~~ m) ||| ((a <<< p) &&& m)
/-- BPERM (R102). -/
def bpermOf (a b c : Word) : Word :=
  let x : DWord := b ++ a
  let byte (k : Nat) : Nat :=
    let s := c.toNat / 2 ^ (4 * k) % 16
    let y := x.toNat / 2 ^ (8 * (s % 8)) % 256
    if s / 8 = 1 then (if y / 128 = 1 then 0xFF else 0) else y
  BitVec.ofNat 32 (byte 0 + byte 1 * 2 ^ 8 + byte 2 * 2 ^ 16 + byte 3 * 2 ^ 24)
/-- LEA: the index extended by TYPE and shifted. -/
def leaOf (ty : Ty) (sh : Nat) (a : DWord) (b : Word) : DWord :=
  let x : DWord := match ty with | .s32 => b.signExtend 64 | .u32 => b.setWidth 64
  a + x <<< sh
/-- ICVT: the low bits of a read as STYPE (R105). -/
def icvtOf (sty : SubTy) (ty : Ty) (a : Word) : Word :=
  ty.clamp (match sty with
    | .s8 => (a.setWidth 8).toInt
    | .u8 => ((a.setWidth 8).toNat : Int)
    | .s16 => (a.setWidth 16).toInt
    | .u16 => ((a.setWidth 16).toNat : Int)
    | .s32 => a.toInt
    | .u32 => (a.toNat : Int))
/-- IDIV (R106). -/
def idivOf (ty : Ty) (a b : Word) : Word :=
  match ty with
  | .u32 => if b = 0 then 0xFFFFFFFF else BitVec.ofNat 32 (a.toNat / b.toNat)
  | .s32 =>
      if b = 0 then (if 0 ≤ a.toInt then 0x7FFFFFFF else 0x80000000)
      else if a = 0x80000000 ∧ b = 0xFFFFFFFF then 0x7FFFFFFF
      else BitVec.ofInt 32 (a.toInt.tdiv b.toInt)

/-! ## Shapes -/

/-- The n-th value of an operand list as a 32-bit word. -/
def arg (v : List DWord) (n : Nat) : Word := (v.getD n 0).setWidth 32

/-- One, two and three operands. -/
def Ctx.lane1 (c : Ctx) (d : Dst) (a : Src) (f : Word → Word) : RegWrite := c.res d [a] fun v => f (arg v 0)
def Ctx.lane2 (c : Ctx) (d : Dst) (a b : Src) (f : Word → Word → Word) : RegWrite :=
  c.res d [a, b] fun v => f (arg v 0) (arg v 1)
def Ctx.lane3 (c : Ctx) (d : Dst) (a b x : Src) (f : Word → Word → Word → Word) : RegWrite :=
  c.res d [a, b, x] fun v => f (arg v 0) (arg v 1) (arg v 2)

/-- A compare's two predicates (R103, R146): the second destination is written last. -/
def Ctx.compare (c : Ctx) (pd pe : Nat) (a b : Src) (yes no : Word → Word → Bool) : List RegWrite :=
  let r (f : Word → Word → Bool) (l : Nat) : Rd :=
    let x := c.rd a l
    let y := c.rd b l
    c.lane [x, y] (if f (x.val.setWidth 32) (y.val.setWidth 32) then 1 else 0) l
  [c.toP pd (r yes), c.toP pe (r no)]

/-! ## The integer forms -/

def execIadd (h : Ctl) (ty : Ty) (sat : Bool) (d : Dst) (a b : Src) (s : State) : Host.Outcome State Fault Refusal :=
  issue (.iadd h ty sat d a b) (fun c => c.fixed [c.lane2 d a b (addSat ty sat)]) s

def execIsub (h : Ctl) (ty : Ty) (sat : Bool) (d : Dst) (a b : Src) (s : State) : Host.Outcome State Fault Refusal :=
  issue (.isub h ty sat d a b) (fun c => c.fixed [c.lane2 d a b (subSat ty sat)]) s

/-- Bits 31–0 of the product. -/
def execImul (h : Ctl) (d : Dst) (a b : Src) (s : State) : Host.Outcome State Fault Refusal :=
  issue (.imul h d a b) (fun c => c.fixed [c.lane2 d a b fun x y => x * y]) s

def execImulh (h : Ctl) (ty : Ty) (d : Dst) (a b : Src) (s : State) : Host.Outcome State Fault Refusal :=
  issue (.imulh h ty d a b) (fun c => c.fixed [c.lane2 d a b (mulHigh ty)]) s

def execImad (h : Ctl) (ty : Ty) (sat : Bool) (d : Dst) (a b c : Src) (s : State) : Host.Outcome State Fault Refusal :=
  issue (.imad h ty sat d a b c) (fun x => x.fixed [x.lane3 d a b c (madSat ty sat)]) s

/-- 64-bit addition (R98). -/
def execIadd64 (h : Ctl) (d : Dst) (a b : Src) (s : State) : Host.Outcome State Fault Refusal :=
  issue (.iadd64 h d a b) (fun c =>
    c.fixed (c.res64 d (fun l => [c.rd64 a l, c.rd64 b l]) fun v => v.getD 0 0 + v.getD 1 0)) s

def execImin (h : Ctl) (ty : Ty) (d : Dst) (a b : Src) (s : State) : Host.Outcome State Fault Refusal :=
  issue (.imin h ty d a b) (fun c => c.fixed [c.lane2 d a b (minOf ty)]) s

def execImax (h : Ctl) (ty : Ty) (d : Dst) (a b : Src) (s : State) : Host.Outcome State Fault Refusal :=
  issue (.imax h ty d a b) (fun c => c.fixed [c.lane2 d a b (maxOf ty)]) s

def execIabs (h : Ctl) (d : Dst) (a : Src) (s : State) : Host.Outcome State Fault Refusal :=
  issue (.iabs h d a) (fun c => c.fixed [c.lane1 d a absOf]) s

def execAnd (h : Ctl) (d : Dst) (a b : Src) (s : State) : Host.Outcome State Fault Refusal :=
  issue (.and h d a b) (fun c => c.fixed [c.lane2 d a b fun x y => x &&& y]) s

def execOr (h : Ctl) (d : Dst) (a b : Src) (s : State) : Host.Outcome State Fault Refusal :=
  issue (.or h d a b) (fun c => c.fixed [c.lane2 d a b fun x y => x ||| y]) s

def execXor (h : Ctl) (d : Dst) (a b : Src) (s : State) : Host.Outcome State Fault Refusal :=
  issue (.xor h d a b) (fun c => c.fixed [c.lane2 d a b fun x y => x ^^^ y]) s

def execNot (h : Ctl) (d : Dst) (a : Src) (s : State) : Host.Outcome State Fault Refusal :=
  issue (.not h d a) (fun c => c.fixed [c.lane1 d a fun x => ~~~ x]) s

def execLut3 (h : Ctl) (lut : BitVec 8) (d : Dst) (a b c : Src) (s : State) : Host.Outcome State Fault Refusal :=
  issue (.lut3 h lut d a b c) (fun x => x.fixed [x.lane3 d a b c (lut3Of lut)]) s

def execShl (h : Ctl) (d : Dst) (a b : Src) (s : State) : Host.Outcome State Fault Refusal :=
  issue (.shl h d a b) (fun c => c.fixed [c.lane2 d a b shlOf]) s

def execShr (h : Ctl) (d : Dst) (a b : Src) (s : State) : Host.Outcome State Fault Refusal :=
  issue (.shr h d a b) (fun c => c.fixed [c.lane2 d a b shrOf]) s

def execSar (h : Ctl) (d : Dst) (a b : Src) (s : State) : Host.Outcome State Fault Refusal :=
  issue (.sar h d a b) (fun c => c.fixed [c.lane2 d a b sarOf]) s

def execShf (h : Ctl) (right : Bool) (d : Dst) (a b c : Src) (s : State) : Host.Outcome State Fault Refusal :=
  issue (.shf h right d a b c) (fun x => x.fixed [x.lane3 d a b c (shfOf right)]) s

def execPopc (h : Ctl) (d : Dst) (a : Src) (s : State) : Host.Outcome State Fault Refusal :=
  issue (.popc h d a) (fun c => c.fixed [c.lane1 d a popcOf]) s

def execClz (h : Ctl) (d : Dst) (a : Src) (s : State) : Host.Outcome State Fault Refusal :=
  issue (.clz h d a) (fun c => c.fixed [c.lane1 d a clzOf]) s

def execBrev (h : Ctl) (d : Dst) (a : Src) (s : State) : Host.Outcome State Fault Refusal :=
  issue (.brev h d a) (fun c => c.fixed [c.lane1 d a brevOf]) s

def execBfe (h : Ctl) (ty : Ty) (d : Dst) (a b : Src) (s : State) : Host.Outcome State Fault Refusal :=
  issue (.bfe h ty d a b) (fun c => c.fixed [c.lane2 d a b (bfeOf ty)]) s

def execBfi (h : Ctl) (d : Dst) (a b c : Src) (s : State) : Host.Outcome State Fault Refusal :=
  issue (.bfi h d a b c) (fun x => x.fixed [x.lane3 d a b c bfiOf]) s

def execBperm (h : Ctl) (d : Dst) (a b c : Src) (s : State) : Host.Outcome State Fault Refusal :=
  issue (.bperm h d a b c) (fun x => x.fixed [x.lane3 d a b c bpermOf]) s

/-- ISETP writes the condition and its complement (R103). -/
def execIsetp (h : Ctl) (cmp : ICmp) (ty : Ty) (pd pe : Nat) (a b : Src) (s : State) : Host.Outcome State Fault Refusal :=
  issue (.isetp h cmp ty pd pe a b) (fun c =>
    c.fixed (c.compare pd pe a b (fun x y => cmp.holds (ty.int x) (ty.int y)) (fun x y => !cmp.holds (ty.int x) (ty.int y)))) s

/-- SEL (R104): both operands and the predicate are inputs, in the order A, B, C. For a uniform destination the predicate
of the lowest executing lane decides (log entry 23). -/
def execSel (h : Ctl) (d : Dst) (a b : Src) (c : PSrc) (s : State) : Host.Outcome State Fault Refusal :=
  issue (.sel h d a b c) (fun x =>
    let r (l : Nat) : Rd :=
      let u := x.rd a l
      let v := x.rd b l
      let q := x.rdPS c l
      match d with
      | .v _ => x.lane [u, v, q] (if q.val = 1 then u.val else v.val) l
      | .s _ => x.uni [u, v, q] (if q.val = 1 then u.val else v.val)
    x.fixed [match d with | .v n => x.toV n r | .s n => x.toS n (r (lowest x.x))]) s

/-- A copy: all 64 bits between uniform registers and from a 64-bit system register to a uniform register,
else bits 31–0 (R104). -/
def Ctx.copy (c : Ctx) (d : Dst) (a : Src) : RegWrite :=
  match d with
  | .v _ => c.lane1 d a id
  | .s n =>
      let r := match a with
        | .s _ | .sys _ => c.rd64 a (lowest c.x)
        | _ => c.rd a (lowest c.x)
      c.toS n (c.uni [r] r.val)

def execMov (h : Ctl) (d : Dst) (a : Src) (s : State) : Host.Outcome State Fault Refusal :=
  issue (.mov h d a) (fun c => c.fixed [c.copy d a]) s

/-- MOVI; .HI writes bits 63–32 of sD and keeps bits 31–0 as the register holds them, which is no read of sD (R57, R104). -/
def execMovi (h : Ctl) (hi : Bool) (d : Dst) (a : Src) (s : State) : Host.Outcome State Fault Refusal :=
  issue (.movi h hi d a) (fun c =>
    match hi, d with
    | true, .s n =>
        let x := c.rd a (lowest c.x)
        c.fixed [c.toS n (c.uni [x] (x.val <<< 32 + ((tget c.w.regs.s n 0).setWidth 32).setWidth 64))]
    | _, _ => c.fixed [c.copy d a]) s

/-- LEA (R98, R101). -/
def execLea (h : Ctl) (ty : Ty) (sh : Nat) (d : Dst) (a b : Src) (s : State) : Host.Outcome State Fault Refusal :=
  issue (.lea h ty sh d a b) (fun c =>
    c.fixed (c.res64 d (fun l => [c.rd64 a l, c.rd b l]) fun v => leaOf ty sh (v.getD 0 0) (arg v 1))) s

def execIcvt (h : Ctl) (sty : SubTy) (ty : Ty) (d : Dst) (a : Src) (s : State) : Host.Outcome State Fault Refusal :=
  issue (.icvt h sty ty d a) (fun c => c.fixed [c.lane1 d a (icvtOf sty ty)]) s

/-- IDIV is of the variable class (R106). -/
def execIdiv (h : Ctl) (ty : Ty) (d : Dst) (a b : Src) (s : State) : Host.Outcome State Fault Refusal :=
  issue (.idiv h ty d a b) (fun c => c.variable [c.lane2 d a b (idivOf ty)] c.s) s

/-! ## The predicate forms (R107) -/

def execPlop (h : Ctl) (lut : BitVec 8) (pd : Nat) (a b c : PSrc) (s : State) : Host.Outcome State Fault Refusal :=
  issue (.plop h lut pd a b c) (fun x =>
    x.fixed [x.toP pd fun l =>
      let u := x.rdPS a l
      let v := x.rdPS b l
      let w := x.rdPS c l
      x.lane [u, v, w] (if lutBit lut (u.val = 1) (v.val = 1) (w.val = 1) then 1 else 0) l]) s

/-- PSET: bit l of a uniform x. -/
def execPset (h : Ctl) (pd : Nat) (x : Src) (s : State) : Host.Outcome State Fault Refusal :=
  issue (.pset h pd x) (fun c =>
    c.fixed [c.toP pd fun l => let u := c.rd x l; c.lane [u] (if u.val.getLsbD l then 1 else 0) l]) s

/-- P2V: the predicates of a lane as bits 0 to 6, bit 7 is 1; the lowest poisoned predicate names the origin. -/
def execP2v (h : Ctl) (d : Nat) (s : State) : Host.Outcome State Fault Refusal :=
  issue (.p2v h d) (fun c =>
    c.fixed [c.toV d fun l =>
      let ps := (List.range 8).map fun k => c.rdP k l
      c.lane ps (BitVec.ofNat 64 ((ps.zipIdx.map fun x => x.1.val.toNat * 2 ^ x.2).sum)) l]) s

/-- V2P writes the predicates that the mask names; a poisoned uniform mask poisons p0 to p6. -/
def execV2p (h : Ctl) (a mask : Src) (s : State) : Host.Outcome State Fault Refusal :=
  issue (.v2p h a mask) (fun c =>
    let m := c.rd mask (lowest c.x)
    let ks := (List.range 7).filter fun k => m.pois || m.val.getLsbD k
    c.fixed (ks.map fun k => c.toP k fun l =>
      let u := c.rd a l
      c.lane [u, m] (if u.val.getLsbD k then 1 else 0) l)) s

end Sys2Proof.Machine
end

