-- ==== Sys2Proof/Machine/FloatForms.lean ====
section
/-! DEFINITION. The floating-point forms, opcodes 0x0C0 to 0x0E0 (spec 09 R140-R153). Their tangents are set by
`Ctx.tangents`. -/

namespace Sys2Proof.Machine

/-! ## The functions -/

/-- FP32 functions on lane words. -/
def f2 (f : Nat → Nat → Nat) (a b : Word) : Word := BitVec.ofNat 32 (f a.toNat b.toNat)
def f3 (f : Nat → Nat → Nat → Nat) (a b c : Word) : Word := BitVec.ofNat 32 (f a.toNat b.toNat c.toNat)

/-- FRND: an integral FP32 value under RND; infinities and zeros are unchanged, and a zero result keeps the
sign (Table 9-2). -/
def frndOf (r : Rnd) (a : Word) : Word :=
  match fp32.dec a.toNat with
  | .nan => BitVec.ofNat 32 fp32.nan
  | .inf _ => a
  | .fin s m e =>
      if m = 0 then a
      else BitVec.ofNat 32 (fp32.roundFrac .rn s (Frac.ofInt ((FVal.fin s m e).frac.toInt r)))

/-- The operand of a conversion in its format: the low bits of the lane (R140). -/
def ftyLow (t : FTy) (a : Word) : Nat :=
  match t with
  | .f32 => a.toNat
  | .f16 | .bf16 => a.toNat % 65536
  | .e4m3 => a.toNat % 256

/-- FCVT (R148). -/
def fcvtOf (r : Rnd) (dty sty : FTy) (a : Word) : Word :=
  BitVec.ofNat 32 ((ftyFmt dty).convert r ((ftyFmt sty).dec (ftyLow sty a)))

/-- F2I: NaN gives 0, an infinity and a value beyond the range are clamped (R133). -/
def f2iOf (r : Rnd) (dty : Ty) (sty : FTy) (a : Word) : Word :=
  match (ftyFmt sty).dec (ftyLow sty a) with
  | .nan => 0
  | .inf s => if s then BitVec.ofInt 32 (Ty.min dty) else BitVec.ofInt 32 (Ty.max dty)
  | v => dty.clamp (v.frac.toInt r)

/-- I2F (R148). -/
def i2fOf (r : Rnd) (dty : FTy) (sty : Ty) (a : Word) : Word :=
  BitVec.ofNat 32 ((ftyFmt dty).roundFrac r false (Frac.ofInt (sty.int a)))

/-- FSCALE: a × 2^n rounded once (Table 9-2). -/
def fscaleOf (a n : Word) : Word :=
  match fp32.dec a.toNat with
  | .fin s m e => if m = 0 then a else BitVec.ofNat 32 (fp32.roundFrac .rn s (FVal.fin s m (e + n.toInt)).frac)
  | .inf _ => a
  | .nan => BitVec.ofNat 32 fp32.nan

/-- A paired-half operation: a half that HALF leaves out is copied from a (R151). -/
def halves (half : Half) (f : Nat → Nat → Nat → Nat) (a b c : Word) : Word :=
  let lo := if half = .hi then loHalf a.toNat else f (loHalf a.toNat) (loHalf b.toNat) (loHalf c.toNat)
  let hi := if half = .lo then hiHalf a.toNat else f (hiHalf a.toNat) (hiHalf b.toNat) (hiHalf c.toNat)
  BitVec.ofNat 32 (hi * 65536 + lo)

/-- FDOT4: four exact E4M3 products and c, rounded once (R153). -/
def fdot4Of (a b c : Word) : Word :=
  let by4 (x : Word) (k : Nat) : FVal := e4m3.dec (x.toNat / 2 ^ (8 * k) % 256)
  BitVec.ofNat 32 (fp32.sum (((List.range 4).map fun k => (by4 a k).mul (by4 b k)) ++ [fp32.dec c.toNat]))

/-! ## The forms -/

def execFadd (h : Ctl) (d : Dst) (a b : Src) (s : State) : Host.Outcome State Fault Refusal :=
  issue (.fadd h d a b) (fun c => c.fixed [c.lane2 d a b (f2 fp32.add)]) s

def execFsub (h : Ctl) (d : Dst) (a b : Src) (s : State) : Host.Outcome State Fault Refusal :=
  issue (.fsub h d a b) (fun c => c.fixed [c.lane2 d a b (f2 fp32.sub)]) s

def execFmul (h : Ctl) (d : Dst) (a b : Src) (s : State) : Host.Outcome State Fault Refusal :=
  issue (.fmul h d a b) (fun c => c.fixed [c.lane2 d a b (f2 fp32.mul)]) s

def execFfma (h : Ctl) (d : Dst) (a b c : Src) (s : State) : Host.Outcome State Fault Refusal :=
  issue (.ffma h d a b c) (fun x => x.fixed [x.lane3 d a b c (f3 fp32.fma)]) s

def execFmin (h : Ctl) (d : Dst) (a b : Src) (s : State) : Host.Outcome State Fault Refusal :=
  issue (.fmin h d a b) (fun c => c.fixed [c.lane2 d a b (f2 (fp32.minMax false))]) s

def execFmax (h : Ctl) (d : Dst) (a b : Src) (s : State) : Host.Outcome State Fault Refusal :=
  issue (.fmax h d a b) (fun c => c.fixed [c.lane2 d a b (f2 (fp32.minMax true))]) s

/-- FSETP (R146). -/
def execFsetp (h : Ctl) (cmp : FCmp) (pd pe : Nat) (a b : Src) (s : State) : Host.Outcome State Fault Refusal :=
  issue (.fsetp h cmp pd pe a b) (fun c =>
    c.fixed (c.compare pd pe a b (fun x y => cmp.holds fp32 x.toNat y.toNat) (fun x y => cmp.fails fp32 x.toNat y.toNat))) s

/-- FCLASS (R147). -/
def execFclass (h : Ctl) (d : Dst) (a : Src) (s : State) : Host.Outcome State Fault Refusal :=
  issue (.fclass h d a) (fun c => c.fixed [c.lane1 d a fun x => fclassWord x.toNat]) s

def execFrnd (h : Ctl) (rnd : Rnd) (d : Dst) (a : Src) (s : State) : Host.Outcome State Fault Refusal :=
  issue (.frnd h rnd d a) (fun c => c.fixed [c.lane1 d a (frndOf rnd)]) s

def execFcvt (h : Ctl) (rnd : Rnd) (dty sty : FTy) (d : Dst) (a : Src) (s : State) : Host.Outcome State Fault Refusal :=
  issue (.fcvt h rnd dty sty d a) (fun c => c.fixed [c.lane1 d a (fcvtOf rnd dty sty)]) s

def execF2i (h : Ctl) (rnd : Rnd) (dty : Ty) (sty : FTy) (d : Dst) (a : Src) (s : State) : Host.Outcome State Fault Refusal :=
  issue (.f2i h rnd dty sty d a) (fun c => c.fixed [c.lane1 d a (f2iOf rnd dty sty)]) s

def execI2f (h : Ctl) (rnd : Rnd) (dty : FTy) (sty : Ty) (d : Dst) (a : Src) (s : State) : Host.Outcome State Fault Refusal :=
  issue (.i2f h rnd dty sty d a) (fun c => c.fixed [c.lane1 d a (i2fOf rnd dty sty)]) s

def execFscale (h : Ctl) (d : Dst) (a n : Src) (s : State) : Host.Outcome State Fault Refusal :=
  issue (.fscale h d a n) (fun c => c.fixed [c.lane2 d a n fscaleOf]) s

/-- FDIV is of the variable class, as are the functions after it (R149, R150). -/
def execFdiv (h : Ctl) (d : Dst) (a b : Src) (s : State) : Host.Outcome State Fault Refusal :=
  issue (.fdiv h d a b) (fun c => c.variable [c.lane2 d a b (f2 fp32.div)] c.s) s

/-- A function of R149 of one operand. -/
def Ctx.fn (c : Ctx) (f : Fn) (d : Dst) (a : Src) : State :=
  c.variable [c.lane1 d a fun x => BitVec.ofNat 32 (f.eval x.toNat)] c.s

def execFsqrt (h : Ctl) (d : Dst) (a : Src) (s : State) : Host.Outcome State Fault Refusal :=
  issue (.fsqrt h d a) (fun c => c.fn .sqrt d a) s
def execFrcp (h : Ctl) (d : Dst) (a : Src) (s : State) : Host.Outcome State Fault Refusal :=
  issue (.frcp h d a) (fun c => c.fn .rcp d a) s
def execFrsq (h : Ctl) (d : Dst) (a : Src) (s : State) : Host.Outcome State Fault Refusal :=
  issue (.frsq h d a) (fun c => c.fn .rsq d a) s
def execFexp (h : Ctl) (d : Dst) (a : Src) (s : State) : Host.Outcome State Fault Refusal :=
  issue (.fexp h d a) (fun c => c.fn .exp d a) s
def execFexp2 (h : Ctl) (d : Dst) (a : Src) (s : State) : Host.Outcome State Fault Refusal :=
  issue (.fexp2 h d a) (fun c => c.fn .exp2 d a) s
def execFlog (h : Ctl) (d : Dst) (a : Src) (s : State) : Host.Outcome State Fault Refusal :=
  issue (.flog h d a) (fun c => c.fn .log d a) s
def execFlog2 (h : Ctl) (d : Dst) (a : Src) (s : State) : Host.Outcome State Fault Refusal :=
  issue (.flog2 h d a) (fun c => c.fn .log2 d a) s
def execFsin (h : Ctl) (d : Dst) (a : Src) (s : State) : Host.Outcome State Fault Refusal :=
  issue (.fsin h d a) (fun c => c.fn .sin d a) s
def execFcos (h : Ctl) (d : Dst) (a : Src) (s : State) : Host.Outcome State Fault Refusal :=
  issue (.fcos h d a) (fun c => c.fn .cos d a) s
def execFtanh (h : Ctl) (d : Dst) (a : Src) (s : State) : Host.Outcome State Fault Refusal :=
  issue (.ftanh h d a) (fun c => c.fn .tanh d a) s
def execFsigm (h : Ctl) (d : Dst) (a : Src) (s : State) : Host.Outcome State Fault Refusal :=
  issue (.fsigm h d a) (fun c => c.fn .sigm d a) s

/-! ## Paired halves (R151, R152) -/

def execHadd2 (h : Ctl) (half : Half) (d : Dst) (a b : Src) (s : State) : Host.Outcome State Fault Refusal :=
  issue (.hadd2 h half d a b) (fun c => c.fixed [c.lane2 d a b fun x y => halves half (fun p q _ => fp16.add p q) x y 0]) s

def execHmul2 (h : Ctl) (half : Half) (d : Dst) (a b : Src) (s : State) : Host.Outcome State Fault Refusal :=
  issue (.hmul2 h half d a b) (fun c => c.fixed [c.lane2 d a b fun x y => halves half (fun p q _ => fp16.mul p q) x y 0]) s

def execHfma2 (h : Ctl) (half : Half) (d : Dst) (a b c : Src) (s : State) : Host.Outcome State Fault Refusal :=
  issue (.hfma2 h half d a b c) (fun x => x.fixed [x.lane3 d a b c (halves half fp16.fma)]) s

def execHmin2 (h : Ctl) (half : Half) (d : Dst) (a b : Src) (s : State) : Host.Outcome State Fault Refusal :=
  issue (.hmin2 h half d a b) (fun c =>
    c.fixed [c.lane2 d a b fun x y => halves half (fun p q _ => fp16.minMax false p q) x y 0]) s

def execHmax2 (h : Ctl) (half : Half) (d : Dst) (a b : Src) (s : State) : Host.Outcome State Fault Refusal :=
  issue (.hmax2 h half d a b) (fun c =>
    c.fixed [c.lane2 d a b fun x y => halves half (fun p q _ => fp16.minMax true p q) x y 0]) s

/-- HSETP2: with both halves, the condition in both, and in both the ordered complement (R152). -/
def execHsetp2 (h : Ctl) (half : Half) (cmp : FCmp) (pd pe : Nat) (a b : Src) (s : State) :
    Host.Outcome State Fault Refusal :=
  issue (.hsetp2 h half cmp pd pe a b) (fun c =>
    c.fixed (c.compare pd pe a b (fun x y => half.allOf (cmp.holds fp16) x.toNat y.toNat)
      (fun x y => half.allOf (cmp.fails fp16) x.toNat y.toNat))) s

def execBfma2 (h : Ctl) (half : Half) (d : Dst) (a b c : Src) (s : State) : Host.Outcome State Fault Refusal :=
  issue (.bfma2 h half d a b c) (fun x => x.fixed [x.lane3 d a b c (halves half bf16.fma)]) s

def execFdot4 (h : Ctl) (d : Dst) (a b c : Src) (s : State) : Host.Outcome State Fault Refusal :=
  issue (.fdot4 h d a b c) (fun x => x.fixed [x.lane3 d a b c fdot4Of]) s

end Sys2Proof.Machine
end

