-- ==== Sys2Proof/Machine/HostEvents.lean ====
section
/-! DEFINITION. The host's side: starts (R446-R451), request rings and their requests (R451-R455), key/value pools
(R282-R286), the Breach alarm (R456, R457), the host port (R443) and the removal of power. -/

namespace Sys2Proof.Machine

/-! ## Host memory by physical address -/

/-- Every core's copy of the lines of a physical range is written back and dropped. -/
def State.hostSync (s : State) (pa n : Nat) : State :=
  (List.range ((n + 255) / 128)).foldl (fun s k => s.evictEverywhere (pa / 128 + k)) s

/-- A line of a physical range is pinned by a team: the host's access waits (R222). -/
def State.hostHeld (s : State) (pa n : Nat) : Bool :=
  s.pins != [] && (List.range ((pa % 128 + n + 127) / 128)).any fun k => s.pinnedAny (pa / 128 + k)

def State.hostRead (s : State) (pa n : Nat) : List Byte := (s.hostSync pa n).physRead pa n
def State.hostWrite (s : State) (pa : Nat) (bs : List Byte) : State := (s.hostSync pa bs.length).physWrite pa bs

/-- The whole range lies in host memory (Table 11-5). -/
def inHost (pa n : Nat) : Bool := isHostMem pa && isHostMem (pa + n - 1)

/-- The block of a request or reply ring: elements of 16 bytes, in host memory (R452). -/
def State.hostRing (s : State) (pa : Nat) : Option RingBlk :=
  if !inHost pa 32 then none
  else (ringOf (s.hostRead pa 32)).filter fun b => b.size == 16 && inHost b.base (16 * b.cap)

/-! ## Replies (R453, Table 31-4b) -/

def reply (r : Request) (status : Nat) (value : DWord) : HWord :=
  BitVec.ofNat 128 ((if status = 0 then value.toNat else 0) * 2 ^ 64 + r.tag.toNat * 2 ^ 48 + status * 2 ^ 8 + r.op % 256)

/-- Enqueue a reply; none while the ring is full, or a line of it pinned (R222). -/
def State.replyPut (s : State) (die : Nat) (x : HWord) : Option State :=
  let pa := (s.die die).rings.2.2
  match s.hostRing pa with
  | none => none
  | some b =>
      if b.cap ≤ (b.tail + 2 ^ 64 - b.head) % 2 ^ 64 ∨ s.hostHeld pa 32 ∨ s.hostHeld (b.elem b.tail).toNat 16 then none
      else some ((s.hostWrite (b.elem b.tail).toNat (leBytes 16 x.toNat)).hostWrite (pa + 16) (leBytes 8 ((b.tail + 1) % 2 ^ 64)))

/-- The replies of a die that wait are enqueued in order. -/
def State.replyFlush (s : State) (die : Nat) : Nat → State
  | 0 => s
  | n + 1 =>
      match (s.die die).replies with
      | [] => s
      | x :: t => match s.replyPut die x with
        | none => s
        | some s => (s.modDie die fun d => { d with replies := t }).replyFlush die n

/-- A reply goes out after those that wait. -/
def State.reply (s : State) (die : Nat) (x : HWord) : State :=
  let s := s.modDie die fun d => { d with replies := d.replies ++ [x] }
  s.replyFlush die (s.die die).replies.length

abbrev rOk : Nat := 0
abbrev rBadop : Nat := 1
abbrev rDenied : Nat := 2
abbrev rBadkey : Nat := 3
abbrev rFormat : Nat := 4

def State.answer (s : State) (r : Request) (status : Nat) (value : DWord) : State := s.reply r.die (Machine.reply r status value)

/-! ## Requests -/

/-- The module runs (Table 31-1). -/
def State.running (s : State) : Bool := s.boot.st == 2

/-- An element as a request (Table 31-4). -/
def requestOf (die ring x : Nat) : Request :=
  { die := die, ring := ring, addr := BitVec.ofNat 64 (field x 127 64), tag := BitVec.ofNat 16 (field x 63 48), asid := field x 47 36
    target := field x 35 33, op := field x 7 0 }

/-- The step that acts on a request. -/
def requestStep (r : Request) : Instr :=
  match r.op with
  | 1 => .start r
  | 2 => .keyload r
  | 3 => .poolreg r
  | 4 => .measure r
  | 5 => .attest r
  | _ => .badop r

/-- A KEYLOAD taken on the die is not yet in effect. -/
def State.keyOwed (s : State) (die : Nat) : Bool := s.keys.any fun k => k.2.pend.any fun p => p.replies.any fun x => x.1 == die

/-- The die of the request that a step acts on. -/
def pickDie (p : Pick) : Option Nat :=
  match p with
  | .ev (.start r) | .ev (.keyload r) | .ev (.poolreg r) | .ev (.measure r) | .ev (.attest r) => some r.die
  | _ => none

/-- A request meets a retry response: it is acted on again in the next round (R222). -/
def State.later (s : State) (r : Request) : State := { s with again := s.again ++ [.ev (requestStep r)] }

/-- THE POLL OF A REQUEST RING: its oldest request is taken, and acted on in the next step (R452, R453). -/
def State.poll (s : State) (die ring : Nat) : State :=
  let s := s.replyFlush die (s.die die).replies.length
  if !s.running || !(s.die die).replies.isEmpty || s.keyOwed die || (s.again.any fun p => pickDie p == some die) then s
  else
    let pa := if ring = 0 then (s.die die).rings.1 else (s.die die).rings.2.1
    match s.hostRing pa with
    | none => s
    | some b =>
        if b.tail = b.head || s.hostHeld pa 32 || s.hostHeld (b.elem b.head).toNat 16 then s
        else
          let x := leNat (s.hostRead (b.elem b.head).toNat 16)
          let s := s.hostWrite (pa + 8) (leBytes 8 ((b.head + 1) % 2 ^ 64))
          let r := requestOf die ring x
          if field x 32 8 ≠ 0 ∧ 1 ≤ r.op ∧ r.op ≤ 5 then s.answer r rFormat 0
          else { s with agenda := .ev (requestStep r) :: s.agenda }

def execRequestRingPoll (die ring : Nat) (s : State) : Host.Outcome State Fault Refusal := .next (s.poll die ring)

/-- START queues a launch on a die; a page that is not resident refuses it, since no wave can park (R378, R453, R414). -/
def execStart (r : Request) (s : State) : Host.Outcome State Fault Refusal :=
  .next (if !s.running then s
  else match s.checkLaunch r.die r.target r.asid r.addr (r.ring == 0 && (s.die r.die).priv) (r.ring == 0 && (s.die r.die).priv) with
    | .wait => s.later r
    | .park _ h => ((s.recReach r.die r.asid r.addr).refuse r.target 7 0 h).answer r rOk (refusedWord 7)
    | .refused st d h => ((s.recReach r.die r.asid r.addr).refuse r.target st d h).answer r rOk (refusedWord st)
    | .ok l => ((s.recReach r.die r.asid r.addr).enqueue l).answer r rOk (BitVec.ofNat 64 l.qseq))

/-- Lanes of an operation that are still to reach a byte through a key slot. -/
def Op.keyLanes (o : Op) (slot : Nat) : Mask :=
  maskOf fun l => o.todo.getLsbD l && (o.seg l).any fun g => match g.place with
    | .phys _ _ k => k == slot
    | _ => false

/-- A KEYLOAD waits for what has been translated through its slot: accesses, and the stores that regions and transactions hold. -/
def State.keyWait (s : State) (slot : Nat) (die : Nat) (x : HWord) : KeyPend :=
  let k := ((s.keyOf slot).pend).getD {}
  let h := s.heldWrites fun _ => true
  { ops := k.ops ++ (s.ops.map fun o => (o.1, o.2.keyLanes slot)).filter fun o => o.2 ≠ 0
    regions := k.regions ++ h.1, txs := k.txs ++ h.2, replies := k.replies ++ [(die, x)] }

/-- KEYLOAD: the key waits for every access already translated through its slot (R451, Table 31-3a). -/
def State.keyLoad (s : State) (r : Request) : State :=
  if r.ring ≠ 0 then s.answer r rDenied 0
  else match s.fwRead r.die r.asid r.addr 192 with
  | .error c => if c = fRetry then s.later r else s.answer r rFormat 0
  | .ok bs =>
      let s := s.asidReach r.die r.asid r.addr 192
      let part (o n : Nat) : List Byte := (bs.drop o).take n
      let slot := leNat (part 0 4) % 256
      if slot = 0 ∨ slot = s.boot.poolSlot then s.answer r rDenied 0
      else if leNat (part 0 4) ≠ slot ∨ leNat (part 4 4) ≠ 0 ∨ leNat (part 0xB5 11) ≠ 0 ∨ !Config.onCurve (part 8 133) then s.answer r rFormat 0
      else if s.boot.derivOff ∨ (Config.unwrapKey (part 8 133) (part 0x8D 40)).isNone then s.answer r rBadkey 0
      else { s with keys := tput s.keys slot { s.keyOf slot with pend := some (s.keyWait slot r.die (Machine.reply r rOk 0)) } }

def execKeyload (r : Request) (s : State) : Host.Outcome State Fault Refusal := .next (if s.running then s.keyLoad r else s)

/-- A slot's new key takes effect: lines written under the old one read back undefined. -/
def State.keySwitch (s : State) (slot : Nat) : State :=
  let k := s.keyOf slot
  match k.pend with
  | none => s
  | some p =>
      if (p.ops.any fun x => (s.op x.1).any fun o => o.todo &&& x.2 != 0) || s.heldLeft p.regions p.txs then s
      else
        let s := s.cores.foldl (fun s (c : Nat × Core) => s.flushL1 c.1) s
        let s := { s with keys := tput s.keys slot { loaded := true, gen := k.gen + 1 } }
        p.replies.foldl (fun s (x : Nat × HWord) => s.reply x.1 x.2) s

def execKeySlotSwitch (slot : Nat) (s : State) : Host.Outcome State Fault Refusal := .next (s.keySwitch slot)

/-- MEASURE extends the measurement of an address space (R454). -/
def State.measure (s : State) (r : Request) : State :=
  match s.fwRead r.die r.asid r.addr 16 with
  | .error c => if c = fRetry then s.later r else s.answer r rFormat 0
  | .ok bs =>
    let s := s.asidReach r.die r.asid r.addr 16
    match s.fwRead r.die r.asid (BitVec.ofNat 64 (leNat (bs.take 8))) (leNat (bs.drop 8)) with
    | .error c => if c = fRetry then s.later r else s.answer r rFormat 0
    | .ok image =>
        let s := s.asidReach r.die r.asid (BitVec.ofNat 64 (leNat (bs.take 8))) (leNat (bs.drop 8))
        let k := tget s.kmeas r.asid {}
        let x := Config.sha512 (Config.digestBytes k.k ++ Config.digestBytes (Config.sha512 image))
        ({ s with kmeas := tput s.kmeas r.asid { k := x, count := k.count + 1 } } : State).answer r rOk 0

def execMeasure (r : Request) (s : State) : Host.Outcome State Fault Refusal := .next (if s.running then s.measure r else s)

/-- ATTEST writes a report into the payload area (R455). -/
def State.attest (s : State) (r : Request) : State :=
  match s.fwRead r.die r.asid r.addr 64 with
  | .error c => if c = fRetry then s.later r else s.answer r rFormat 0
  | .ok nonce =>
      let s := s.asidReach r.die r.asid r.addr 64
      let k := tget s.kmeas r.asid {}
      let a := r.addr + Config.reportOffset
      match s.asidWrite r.die r.asid a (Config.report nonce s.boot.fwDigest s.boot.cfgDigest k.k k.count s.boot.mode) with
      | .error c => if c = fRetry then s.later r else s.answer r rFormat 0
      | .ok s => s.answer r rOk a

def execAttest (r : Request) (s : State) : Host.Outcome State Fault Refusal := .next (if s.running then s.attest r else s)

def execBadop (r : Request) (s : State) : Host.Outcome State Fault Refusal := .next (if s.running then s.answer r rBadop 0 else s)

/-! ## Key/value pools (R282-R286) -/

/-- Read a block or a ring's block in the pool's address space. -/
def State.poolBlock (s : State) (die : Nat) (p : Pool) : Option PoolBlk :=
  match s.fwRead die p.asid p.block 64 with
  | .ok bs => some (poolBlk (leNat bs))
  | .error _ => none
def State.freeRing (s : State) (die asid : Nat) (a : DWord) : Option RingBlk :=
  match s.fwRead die asid a 32 with
  | .ok bs => ringOf bs
  | .error _ => none

/-- POOLREG registers a pool with the die of its ring (R282). -/
def State.poolReg (s : State) (r : Request) : State :=
  if r.ring ≠ 0 then s.answer r rDenied 0
  else match s.fwRead r.die r.asid r.addr 64 with
  | .error c => if c = fRetry then s.later r else s.answer r rFormat 0
  | .ok bs =>
      let x := leNat bs
      let b := poolBlk x
      if s.asidHeld r.die r.asid b.ring 32 then s.later r else
      let s := (s.asidReach r.die r.asid r.addr 64).asidReach r.die r.asid b.ring 32
      let ok : Bool := r.addr.toNat % 64 == 0 && field x 255 64 == 0 && b.row % 128 == 0 && 128 ≤ b.row && b.row ≤ 65536 && b.low < b.high
        && (s.freeRing r.die r.asid b.ring).any fun f => f.size == 4 && b.high ≤ f.cap
      if ok then (s.modDie r.die fun d => { d with pool := some { asid := r.asid, block := r.addr } }).answer r rOk 0
      else s.answer r rFormat 0

def execPoolreg (r : Request) (s : State) : Host.Outcome State Fault Refusal := .next (if s.running then s.poolReg r else s)

def State.poolAt (s : State) (die : Nat) : Option (Pool × PoolAt) :=
  (s.die die).pool.bind fun p => (s.poolBlock die p).map fun b => (p, ⟨die, p.asid, b⟩)

def State.seqAt (s : State) (p : PoolAt) (ix : Nat) : Option SeqRec :=
  match s.fwRead p.die p.asid (p.recAddr ix) 64 with
  | .ok bs => some (seqRec ix (leNat bs))
  | .error _ => none

/-- Records ordered by PRIO and then index; descending in the order of a visit. -/
def seqInsert (x : SeqRec) : List SeqRec → List SeqRec
  | [] => [x]
  | y :: t => if y.prio < x.prio || (y.prio == x.prio && y.ix < x.ix) then x :: y :: t else y :: seqInsert x t
def State.seqOrder (s : State) (p : PoolAt) : List SeqRec :=
  ((List.range p.blk.nseq).filterMap fun k => s.seqAt p k).foldl (fun l x => seqInsert x l) []

/-- Free slots of the pool. -/
def State.poolFree (s : State) (p : PoolAt) : Nat :=
  match s.freeRing p.die p.asid p.blk.ring with
  | some r => (r.tail + 2 ^ 64 - r.head) % 2 ^ 64
  | none => 0

/-- The level: 0 NORMAL, 1 EVICT, 2 SWAP (R282). -/
def State.poolLevel (s : State) (p : PoolAt) : Nat :=
  let n := s.poolFree p
  if p.blk.high ≤ n then 0 else if p.blk.low ≤ n then 1 else 2

/-- Write a word of the pool's address space. -/
def State.poolWord (s : State) (p : PoolAt) (a : DWord) (x : Nat) : Option State :=
  match s.asidWrite p.die p.asid a (leBytes 4 x) with
  | .ok s => some s
  | .error _ => none
def State.poolRead (s : State) (p : PoolAt) (a : DWord) : Option Nat :=
  match s.fwRead p.die p.asid a 4 with
  | .ok bs => some (leNat bs)
  | .error _ => none

/-- The firmware sets STATE where it stands as the firmware left it, and raises EPOCH when `up` (R284). -/
def State.seqSet (s : State) (p : PoolAt) (q : SeqRec) (old st : Nat) (up : Bool) : State :=
  let s := if up then (s.poolWord p (p.recAddr q.ix + 4) (q.epoch + 1)).getD s else s
  if q.st = old then (s.poolWord p (p.recAddr q.ix) st).getD s else s

/-- What the firmware holds of a pool. -/
def State.poolMod (s : State) (die : Nat) (f : Pool → Pool) : State := s.modDie die fun d => { d with pool := d.pool.map f }
def State.poolTake (s : State) (p : PoolAt) (q : SeqRec) (st : Nat) : State :=
  (s.seqSet p q q.st st false).poolMod p.die fun x => { x with busy := some (q.ix, st) }
def State.poolGive (s : State) (p : PoolAt) (q : SeqRec) (st : Nat) (up : Bool) : State :=
  let old := (((s.die p.die).pool.bind Pool.busy).map (·.2)).getD q.st
  (s.seqSet p q old st up).poolMod p.die fun x => { x with busy := none }

/-- Positions below a bound with their slots; none where an entry cannot be read. -/
def State.mapped (s : State) (p : PoolAt) (q : SeqRec) (lo hi : Nat) : Option (List (Nat × Nat)) :=
  ((List.range hi).filter fun k => lo ≤ k).foldr (fun k (t : Option (List (Nat × Nat))) => match t, s.poolRead p (q.remap + BitVec.ofNat 64 (4 * k)) with
    | some t, some x => some (if x = 0xFFFFFFFF then t else (k, x) :: t)
    | _, _ => none) (some [])

/-- Ascending score: NaN below every value, −0 equal to +0; then ascending position (R285). -/
def scoreLt (a b : Nat × Nat × Nat) : Bool :=
  let na := (fp32.dec a.2.2).isNan
  let nb := (fp32.dec b.2.2).isNan
  if na || nb then (na && !nb) || (na && nb && a.1 < b.1)
  else fcompare fp32 a.2.2 b.2.2 < 0 || (fcompare fp32 a.2.2 b.2.2 == 0 && a.1 < b.1)

def scoreInsert (x : Nat × Nat × Nat) : List (Nat × Nat × Nat) → List (Nat × Nat × Nat)
  | [] => [x]
  | y :: t => if scoreLt x y then x :: y :: t else y :: scoreInsert x t

/-- The positions to evict, in order, with their slots; none where a remap entry or a score cannot be read. -/
def State.victims (s : State) (p : PoolAt) (q : SeqRec) : Option (List (Nat × Nat)) :=
  match s.mapped p q q.f (q.len - q.w) with
  | none => none
  | some ps =>
      let xs := ps.map fun (x : Nat × Nat) => (x.1, x.2, s.poolRead p (q.score + BitVec.ofNat 64 (4 * x.1)))
      if xs.any fun x => x.2.2.isNone then none
      else
        let l := xs.foldl (fun l (x : Nat × Nat × Option Nat) => scoreInsert (x.1, x.2.1, x.2.2.getD 0) l) []
        some ((l.take ((l.length + 1) / 2)).map fun (x : Nat × Nat × Nat) => (x.1, x.2.1))

/-- Enqueue slots on the free ring. -/
def State.freeSlots (s : State) (p : PoolAt) : List Nat → Option State
  | [] => some s
  | x :: t => match s.ringPush p.die p.asid p.blk.ring (leBytes 4 x) with
    | none => none
    | some s => s.freeSlots p t

/-- Each position is evicted: its slot is free, and its remap entry holds none. -/
def State.evict (s : State) (p : PoolAt) (q : SeqRec) : List (Nat × Nat) → Option State
  | [] => some s
  | x :: t => match s.freeSlots p [x.2] with
    | none => none
    | some s => match s.poolWord p (q.remap + BitVec.ofNat 64 (4 * x.1)) 0xFFFFFFFF with
      | none => none
      | some s => s.evict p q t

/-- Parts of memory that the firmware reaches of a pool: its block, the free-slot ring, the records, and of a sequence that it has
taken the remap table, the scores, the slots and the swap area. -/
def State.poolParts (s : State) (p : Pool) (x : PoolAt) : List (DWord × Nat) :=
  let ring := match s.freeRing x.die p.asid x.blk.ring with
    | some r => [(BitVec.ofNat 64 r.base, r.size * r.cap)]
    | none => []
  let seq : List (DWord × Nat) := match p.busy.bind fun y => s.seqAt x y.1 with
    | none => []
    | some q => [(q.remap, 4 * q.len), (q.score, 4 * q.len)] ++ ((s.mapped x q 0 q.len).getD []).map fun m => (x.slotAddr m.2, x.blk.row)
  [(p.block, 64), (x.blk.ring, 32)] ++ ring ++ (List.range x.blk.nseq).map (fun k => (x.recAddr k, 64)) ++ seq

/-- The host memory that a swap reaches. -/
def State.poolSwap (s : State) (p : Pool) (x : PoolAt) : List (Nat × Nat) :=
  match p.busy.bind fun y => s.seqAt x y.1 with
  | none => []
  | some q => [(q.swap, q.len * x.blk.row)]

/-- A line of a pool is pinned by a team: the firmware waits (R222). -/
def State.poolHeld (s : State) (die : Nat) : Bool :=
  s.pins != [] && (s.die die).pool.any fun p =>
    let t : State := { s with pins := [] }
    s.asidHeld die p.asid p.block 64 || (t.poolAt die).any fun x =>
      ((t.poolParts p x.2).any fun r => s.asidHeld die p.asid r.1 r.2) || (t.poolSwap p x.2).any fun r => s.hostHeld r.1 r.2

/-- POOL_LEVEL_EVAL: at EVICT level the firmware takes the next sequence of its visit, or finishes the one that it has
taken (R285). A visit that meets a fault evicts nothing. -/
def State.poolEval (s : State) (die : Nat) : State :=
  match s.poolAt die with
  | none => s
  | some (pool, p) =>
      match pool.busy with
      | some (ix, 2) =>
          (match s.seqAt p ix with
          | none => s.poolMod die fun x => { x with busy := none }
          | some q =>
              match s.victims p q with
              | none => s.poolGive p q 0 false
              | some vs => match s.evict p q vs with
                | some t => t.poolGive p q 0 (!vs.isEmpty)
                | none => s.poolGive p q 0 false)
      | some _ => s
      | none =>
          if s.poolLevel p ≠ 1 then s.poolMod die fun x => { x with cursor := 0 }
          else match (s.seqOrder p)[pool.cursor]? with
            | none => s.poolMod die fun x => { x with cursor := 0 }
            | some q =>
                let s := s.poolMod die fun x => { x with cursor := x.cursor + 1 }
                if q.st = 0 then s.poolTake p q 2 else s

def execPoolLevelEval (die : Nat) (s : State) : Host.Outcome State Fault Refusal := .next (if s.poolHeld die then s else s.poolEval die)

/-- Rows are copied to the swap area. -/
def State.rowsOut (s : State) (p : PoolAt) (q : SeqRec) : List (Nat × Nat) → Option State
  | [] => some s
  | x :: t =>
      let pa := q.swap + x.1 * p.blk.row
      match s.fwRead p.die p.asid (p.slotAddr x.2) p.blk.row with
      | .error _ => none
      | .ok bs => if inHost pa p.blk.row then (s.hostWrite pa bs).rowsOut p q t else none

/-- A swap that meets a fault stops: the sequence is IDLE again, and system software hears of it. -/
def State.swapFail (s : State) (p : PoolAt) (q : SeqRec) : State := (s.poolGive p q 0 false).event (.swapFault p.die)

/-- SWAP_OUT: at SWAP level the firmware takes the first IDLE sequence of the order, and then copies its rows out (R286). -/
def State.swapOut (s : State) (die : Nat) : State :=
  match s.poolAt die with
  | none => s
  | some (pool, p) =>
      match pool.busy with
      | some (ix, 3) =>
          (match s.seqAt p ix with
          | none => (s.poolMod die fun x => { x with busy := none }).event (.swapFault die)
          | some q =>
              match s.mapped p q 0 q.len with
              | none => s.swapFail p q
              | some xs => match (s.rowsOut p q xs).bind fun s => s.freeSlots p (xs.map (·.2)) with
                | some t => t.poolGive p q 4 true
                | none => s.swapFail p q)
      | some _ => s
      | none =>
          if s.poolLevel p ≠ 2 then s
          else match (s.seqOrder p).find? fun q => q.st == 0 with
            | none => s
            | some q => s.poolTake p q 3

def execSwapOut (die : Nat) (s : State) : Host.Outcome State Fault Refusal := .next (if s.poolHeld die then s else s.swapOut die)

/-- Rows are copied back, each into a slot dequeued for it. -/
def State.rowsIn (s : State) (p : PoolAt) (q : SeqRec) : List Nat → Option State
  | [] => some s
  | k :: t =>
      let pa := q.swap + k * p.blk.row
      match s.ringPop p.die p.asid p.blk.ring with
      | none => none
      | some (s, e) =>
          let slot := leNat e
          if !inHost pa p.blk.row then none
          else match s.asidWrite p.die p.asid (p.slotAddr slot) (s.hostRead pa p.blk.row) with
            | .error _ => none
            | .ok s => match s.poolWord p (q.remap + BitVec.ofNat 64 (4 * k)) slot with
              | none => none
              | some s => s.rowsIn p q t

/-- SWAP_IN: at NORMAL level the firmware takes the SWAPPED sequence of lowest PRIO and index when enough slots are free,
and then copies its rows back (R286). -/
def State.swapIn (s : State) (die : Nat) : State :=
  match s.poolAt die with
  | none => s
  | some (pool, p) =>
      match pool.busy with
      | some (ix, 5) =>
          (match s.seqAt p ix with
          | none => (s.poolMod die fun x => { x with busy := none }).event (.swapFault die)
          | some q =>
              match s.mapped p q 0 q.len with
              | none => s.swapFail p q
              | some xs =>
                  if s.poolFree p < xs.length then s
                  else match s.rowsIn p q (xs.map (·.1)) with
                    | some t => t.poolGive p q 0 true
                    | none => s.swapFail p q)
      | some _ => s
      | none =>
          match ((s.seqOrder p).reverse).find? fun q => q.st == 4 with
          | none => s
          | some q => match s.mapped p q 0 q.len with
            | none => s
            | some xs => if p.blk.high + xs.length ≤ s.poolFree p then s.poolTake p q 5 else s

def execSwapIn (die : Nat) (s : State) : Host.Outcome State Fault Refusal := .next (if s.poolHeld die then s else s.swapIn die)

/-! ## Starts (R446-R451, Tables 31-1, 31-2) -/

/-- Every launch ends, every wave and queue is cleared, and every key slot is empty (R446, R450). -/
def State.cleared (s : State) : State :=
  { s with
    cur := none, again := [], pins := [], rels := [], syncs := [], fences := [], cmdLog := [], seqHeld := [], ifetch := [], breaks := [], ops := [], waves := [], teams := [], launches := [], dies := [], cores := [], icache := []
    regions := [], gens := [], asgen := [], tensors := [], touched := [], kmeas := [], portsDown := [], inRings := [], defects := []
    keys := s.keys.map fun (k : Nat × KeySlot) => (k.1, { gen := k.2.gen }) }

/-- The image that stands at a physical address of host memory, of those that are known (R446). -/
def State.imageAt (s : State) (pa : Nat) (known : List (List Byte)) : Option (List Byte) :=
  known.find? fun bs => bs != [] && inHost pa bs.length && s.physRead pa bs.length == bs

/-- What the configuration image at hx.cfgimg says; none where none stands there whose certificate and signature are good (R448). -/
def State.configAt (s : State) : Option (List Byte × CfgImage) :=
  (s.imageAt s.boot.cfgimg.toNat (s.world.configs.map (·.1))).bind fun bs => (s.world.configs.find? fun x => x.1 == bs)

/-- The configuration image's ranges lie where R448 asks, and its fields hold lawful values. -/
def cfgValid (x : CfgImage) : Bool :=
  let blocks := x.rings.flatMap fun r => [r.1, r.2.1, r.2.2]
  x.rings.length == Config.dies && x.privRing.length == Config.dies && x.policy < 3 && x.poolSlot < 256
    && x.poolBase % 4096 == 0 && x.poolBase + 4096 * x.poolPages ≤ 2 ^ 40
    && blocks.all (fun a => inHost a 32)
    && (blocks.zipIdx.all fun (a : Nat × Nat) => blocks.zipIdx.all fun (b : Nat × Nat) => a.2 == b.2 || a.1 + 32 ≤ b.1 || b.1 + 32 ≤ a.1)

/-- The first stage of a start that fails (Table 31-2); none when every stage passes. The images and the retained block are read at
the addresses of the start registers. -/
def State.startFails (s : State) (x : StartArgs) (warm : Bool) : Option Nat :=
  if (s.imageAt s.boot.fwimg.toNat s.world.firmware).isNone then some 0x10
  else if !(s.configAt.any fun c => cfgValid c.2) then some 0x20
  else if !warm && !x.trainOk then some 0x30
  else if !warm && !x.repairOk then some 0x40
  else if !warm && !x.selfTestOk then some 0x50
  else if warm && s.boot.derivOff then some 0x60
  else if warm && (s.imageAt s.boot.retain.toNat s.world.retained).isNone then some 0x70
  else none

/-- A key slot is loaded with a key derived from the identity. -/
def State.keyDerive (s : State) (slot : Nat) : State :=
  { s with keys := tput s.keys slot { loaded := true, gen := (s.keyOf slot).gen + 1 } }

/-- The peer modules that an earlier configuration image placed at the ports and the new one no longer names (R444). -/
def portsGone (old new : List (List (BitVec 48))) : List Nat :=
  (List.range 6).filter fun p => ((old.getD p []).head?).any fun m => !new.flatten.contains m

/-- A cold start signs a retained block and writes it at hx.retain (R446). -/
def State.retain (s : State) : State :=
  let bs := Config.retainedBlock s.freeSeq
  let s : State := { s with world := { s.world with retained := s.world.retained ++ [bs] } }
  if inHost s.boot.retain.toNat bs.length then s.hostWrite s.boot.retain.toNat bs else s

/-- A START that is accepted, from its first stage to its end. -/
def State.startRun (s : State) (x : StartArgs) (warm : Bool) : State :=
  let b := s.boot
  let s := s.cleared
  let mode := if warm then 2 else 1
  let off := warm && b.derivOff
  match s.startFails x warm, s.imageAt b.fwimg.toNat s.world.firmware, s.configAt with
  | none, some fw, some (cfg, c) =>
      let s := (s.keyDerive 0).keyDerive c.poolSlot
      let s := { s with
        boot := { b with
          st := 2, stage := 0x90, mode := mode, wfail := 0, derivOff := off, stopped := false
          fwDigest := Config.sha512 fw, cfgDigest := Config.sha512 cfg
          policy := c.policy, poolBase := c.poolBase, poolPages := c.poolPages, poolSlot := c.poolSlot, peers := c.peers }
        dies := (List.range Config.dies).map fun d => (d, { rings := c.rings.getD d (0, 0, 0), priv := c.privRing.getD d false })
        inRings := x.inRings.foldl (fun t r => tput t (16 * r.1 + r.2.1) ⟨r.2.2.1, BitVec.ofNat 64 r.2.2.2⟩) [] }
      let s := (portsGone b.peers c.peers).foldl (fun s p => s.portDown p) s
      if warm then s else s.retain
  | stage, _, _ =>
      { s with boot := { b with
        st := 3, stage := stage.getD 0x20, mode := mode, derivOff := off, stopped := false, wfail := if warm then min 3 (b.wfail + 1) else b.wfail } }

/-- A write of MODE cold to hx.start. -/
def execStartCold (x : StartArgs) (s : State) : Host.Outcome State Fault Refusal := .next (if s.boot.st = 1 then s else s.startRun x false)

/-- A write of MODE warm: ignored while WFAIL is 3. -/
def execStartWarm (x : StartArgs) (s : State) : Host.Outcome State Fault Refusal :=
  .next (if s.boot.st = 1 ∨ s.boot.wfail = 3 then s else s.startRun x true)

/-! ## The Breach alarm (R456, R457) -/

/-- What has been translated and would still reach module memory never does (R456, Table 31-5). -/
def State.dropModule (s : State) : State :=
  { s with ops := s.ops.map fun (x : Nat × Op) => if x.2.isMem then (x.1, { x.2 with todo := maskOf fun l => x.2.todo.getLsbD l && !((x.2.seg l).any fun g =>
      match g.place with
      | .phys pa _ _ => isModuleMem pa
      | _ => false) }) else x }

/-- ERASE: the keys are gone, the lines of module memory in the L1s and the L2 are invalid, unwritten: what they held reads back
undefined under a later key (R451); and the launches that run are aborted. A KEYLOAD that coincides fails. -/
def State.erase (s : State) : State :=
  let owed := s.keys.flatMap fun (k : Nat × KeySlot) => (k.2.pend.map KeyPend.replies).getD []
  let s := { s with
    keys := s.keys.map fun (k : Nat × KeySlot) => (k.1, { gen := k.2.gen + 1 })
    cores := s.cores.map fun (c : Nat × Core) => (c.1, { c.2 with l1 := c.2.l1.filter fun l => !isModuleMem (128 * l.1) })
    boot := { s.boot with derivOff := true } }
  let s := owed.foldl (fun s (x : Nat × HWord) => s.reply x.1 (x.2 ||| BitVec.ofNat 128 (rBadkey * 2 ^ 8))) s
  (((s.launches.filter fun l => l.2.st == .running).foldl (fun s l => s.abort l.1 13 0) s).reap).dropModule

def execBreachAlarm (sensor : Nat) (s : State) : Host.Outcome State Fault Refusal :=
  .next (match s.boot.policy with
  | 0 => s.event (.breach sensor)
  | 1 => s.erase
  | _ =>
      let s := s.erase.cleared
      { s with boot := { s.boot with st := 3, stage := 0xF0, stopped := true } })

/-! ## The host port and power -/

/-- A lane fails training: the port has 16 or 8 lanes (R443). -/
def execHostLaneFail (n : Nat) (s : State) : Host.Outcome State Fault Refusal :=
  .next (if (n = 16 ∨ n = 8) ∧ n < s.boot.hostLanes then { s with boot := { s.boot with hostLanes := n } } else s)

/-- The host writes a byte of host memory, and the module's caches hold it no longer (R443); a pinned line makes it wait (R222). -/
def execHostCoherence (addr : Nat) (byte : Byte) (s : State) : Host.Outcome State Fault Refusal :=
  .next (if isHostMem addr then s.pokeTry addr byte else s)

/-- Power is removed: every part of the module's state is lost; host memory is the host's. -/
def execPowerRemoval (s : State) : Host.Outcome State Fault Refusal :=
  .next { State.reset with
    mem := s.mem.filter fun c => isHostMem c.1
    world := s.world
    agenda := s.agenda, freeSeq := s.freeSeq, opSeq := s.opSeq, peerSeq := s.peerSeq, events := s.events }

end Sys2Proof.Machine
end

