-- ==== Sys2Proof/Machine/Dispatch.lean ====
section
/-! DEFINITION. The meaning of every instruction: one arm per constructor of `Instr`. -/

namespace Sys2Proof.Machine

open Sys2Proof

def exec (i : Instr) (s : State) : Host.Outcome State Fault Refusal :=
  match i with
  | .nop h => Sys2Proof.Machine.execNop h s
  | .bra h target => Sys2Proof.Machine.execBra h target s
  | .brx h a => Sys2Proof.Machine.execBrx h a s
  | .call h d target => Sys2Proof.Machine.execCall h d target s
  | .ret h a => Sys2Proof.Machine.execRet h a s
  | .join h => Sys2Proof.Machine.execJoin h s
  | .exit h => Sys2Proof.Machine.execExit h s
  | .yield h => Sys2Proof.Machine.execYield h s
  | .span h r0 r1 r2 r3 => Sys2Proof.Machine.execSpan h r0 r1 r2 r3 s
  | .rep h n => Sys2Proof.Machine.execRep h n s
  | .loop h n last => Sys2Proof.Machine.execLoop h n last s
  | .elect h d => Sys2Proof.Machine.execElect h d s
  | .vote h mode d a => Sys2Proof.Machine.execVote h mode d a s
  | .shfl h mode d a b => Sys2Proof.Machine.execShfl h mode d a b s
  | .waitc h mask => Sys2Proof.Machine.execWaitc h mask s
  | .sleep h n => Sys2Proof.Machine.execSleep h n s
  | .ipref h target lines => Sys2Proof.Machine.execIpref h target lines s
  | .feat h d id => Sys2Proof.Machine.execFeat h d id s
  | .iadd h ty sat d a b => Sys2Proof.Machine.execIadd h ty sat d a b s
  | .isub h ty sat d a b => Sys2Proof.Machine.execIsub h ty sat d a b s
  | .imul h d a b => Sys2Proof.Machine.execImul h d a b s
  | .imulh h ty d a b => Sys2Proof.Machine.execImulh h ty d a b s
  | .imad h ty sat d a b c => Sys2Proof.Machine.execImad h ty sat d a b c s
  | .iadd64 h d a b => Sys2Proof.Machine.execIadd64 h d a b s
  | .imin h ty d a b => Sys2Proof.Machine.execImin h ty d a b s
  | .imax h ty d a b => Sys2Proof.Machine.execImax h ty d a b s
  | .iabs h d a => Sys2Proof.Machine.execIabs h d a s
  | .and h d a b => Sys2Proof.Machine.execAnd h d a b s
  | .or h d a b => Sys2Proof.Machine.execOr h d a b s
  | .xor h d a b => Sys2Proof.Machine.execXor h d a b s
  | .not h d a => Sys2Proof.Machine.execNot h d a s
  | .lut3 h lut d a b c => Sys2Proof.Machine.execLut3 h lut d a b c s
  | .shl h d a b => Sys2Proof.Machine.execShl h d a b s
  | .shr h d a b => Sys2Proof.Machine.execShr h d a b s
  | .sar h d a b => Sys2Proof.Machine.execSar h d a b s
  | .shf h right d a b c => Sys2Proof.Machine.execShf h right d a b c s
  | .popc h d a => Sys2Proof.Machine.execPopc h d a s
  | .clz h d a => Sys2Proof.Machine.execClz h d a s
  | .brev h d a => Sys2Proof.Machine.execBrev h d a s
  | .bfe h ty d a b => Sys2Proof.Machine.execBfe h ty d a b s
  | .bfi h d a b c => Sys2Proof.Machine.execBfi h d a b c s
  | .bperm h d a b c => Sys2Proof.Machine.execBperm h d a b c s
  | .isetp h cmp ty pd pe a b => Sys2Proof.Machine.execIsetp h cmp ty pd pe a b s
  | .sel h d a b c => Sys2Proof.Machine.execSel h d a b c s
  | .mov h d a => Sys2Proof.Machine.execMov h d a s
  | .movi h hi d a => Sys2Proof.Machine.execMovi h hi d a s
  | .lea h ty sh d a b => Sys2Proof.Machine.execLea h ty sh d a b s
  | .icvt h sty ty d a => Sys2Proof.Machine.execIcvt h sty ty d a s
  | .idiv h ty d a b => Sys2Proof.Machine.execIdiv h ty d a b s
  | .fadd h d a b => Sys2Proof.Machine.execFadd h d a b s
  | .fsub h d a b => Sys2Proof.Machine.execFsub h d a b s
  | .fmul h d a b => Sys2Proof.Machine.execFmul h d a b s
  | .ffma h d a b c => Sys2Proof.Machine.execFfma h d a b c s
  | .fmin h d a b => Sys2Proof.Machine.execFmin h d a b s
  | .fmax h d a b => Sys2Proof.Machine.execFmax h d a b s
  | .fsetp h cmp pd pe a b => Sys2Proof.Machine.execFsetp h cmp pd pe a b s
  | .fclass h d a => Sys2Proof.Machine.execFclass h d a s
  | .frnd h rnd d a => Sys2Proof.Machine.execFrnd h rnd d a s
  | .fcvt h rnd dty sty d a => Sys2Proof.Machine.execFcvt h rnd dty sty d a s
  | .f2i h rnd dty sty d a => Sys2Proof.Machine.execF2i h rnd dty sty d a s
  | .i2f h rnd dty sty d a => Sys2Proof.Machine.execI2f h rnd dty sty d a s
  | .fscale h d a n => Sys2Proof.Machine.execFscale h d a n s
  | .fdiv h d a b => Sys2Proof.Machine.execFdiv h d a b s
  | .fsqrt h d a => Sys2Proof.Machine.execFsqrt h d a s
  | .frcp h d a => Sys2Proof.Machine.execFrcp h d a s
  | .frsq h d a => Sys2Proof.Machine.execFrsq h d a s
  | .fexp h d a => Sys2Proof.Machine.execFexp h d a s
  | .fexp2 h d a => Sys2Proof.Machine.execFexp2 h d a s
  | .flog h d a => Sys2Proof.Machine.execFlog h d a s
  | .flog2 h d a => Sys2Proof.Machine.execFlog2 h d a s
  | .fsin h d a => Sys2Proof.Machine.execFsin h d a s
  | .fcos h d a => Sys2Proof.Machine.execFcos h d a s
  | .ftanh h d a => Sys2Proof.Machine.execFtanh h d a s
  | .fsigm h d a => Sys2Proof.Machine.execFsigm h d a s
  | .hadd2 h half d a b => Sys2Proof.Machine.execHadd2 h half d a b s
  | .hmul2 h half d a b => Sys2Proof.Machine.execHmul2 h half d a b s
  | .hfma2 h half d a b c => Sys2Proof.Machine.execHfma2 h half d a b c s
  | .hmin2 h half d a b => Sys2Proof.Machine.execHmin2 h half d a b s
  | .hmax2 h half d a b => Sys2Proof.Machine.execHmax2 h half d a b s
  | .hsetp2 h half cmp pd pe a b => Sys2Proof.Machine.execHsetp2 h half cmp pd pe a b s
  | .bfma2 h half d a b c => Sys2Proof.Machine.execBfma2 h half d a b c s
  | .fdot4 h d a b c => Sys2Proof.Machine.execFdot4 h d a b c s
  | .plop h lut pd a b c => Sys2Proof.Machine.execPlop h lut pd a b c s
  | .pset h pd x => Sys2Proof.Machine.execPset h pd x s
  | .p2v h d => Sys2Proof.Machine.execP2v h d s
  | .v2p h a mask => Sys2Proof.Machine.execV2p h a mask s
  | .ld h cache sign width d m => Sys2Proof.Machine.execLd h cache sign width d m s
  | .ldNf h cache sign width d pf m => Sys2Proof.Machine.execLdNf h cache sign width d pf m s
  | .st h cache width src m => Sys2Proof.Machine.execSt h cache width src m s
  | .pref h cache m => Sys2Proof.Machine.execPref h cache m s
  | .pgreq h m => Sys2Proof.Machine.execPgreq h m s
  | .atom h op cache scope width d src m => Sys2Proof.Machine.execAtom h op cache scope width d src m s
  | .red h op cache scope width src m => Sys2Proof.Machine.execRed h op cache scope width src m s
  | .txbegin h target => Sys2Proof.Machine.execTxbegin h target s
  | .txend h => Sys2Proof.Machine.execTxend h s
  | .txabort h code => Sys2Proof.Machine.execTxabort h code s
  | .txstat h d => Sys2Proof.Machine.execTxstat h d s
  | .enq h ps src m => Sys2Proof.Machine.execEnq h ps src m s
  | .deq h d ps m => Sys2Proof.Machine.execDeq h d ps m s
  | .bind h kind obj a off len => Sys2Proof.Machine.execBind h kind obj a off len s
  | .unbind h kind obj a off len => Sys2Proof.Machine.execUnbind h kind obj a off len s
  | .acq h scope d m => Sys2Proof.Machine.execAcq h scope d m s
  | .rel h scope src m => Sys2Proof.Machine.execRel h scope src m s
  | .fence h scope => Sys2Proof.Machine.execFence h scope s
  | .barinit h b m => Sys2Proof.Machine.execBarinit h b m s
  | .bara h b => Sys2Proof.Machine.execBara h b s
  | .barw h b pb => Sys2Proof.Machine.execBarw h b pb s
  | .baraw h b pb => Sys2Proof.Machine.execBaraw h b pb s
  | .barq h b d => Sys2Proof.Machine.execBarq h b d s
  | .tdef h t a off => Sys2Proof.Machine.execTdef h t a off s
  | .tqry h d t sel => Sys2Proof.Machine.execTqry h d t sel s
  | .cpy h ev td ts => Sys2Proof.Machine.execCpy h ev td ts s
  | .cpyr h ev td ts a => Sys2Proof.Machine.execCpyr h ev td ts a s
  | .qnt h ev td ts => Sys2Proof.Machine.execQnt h ev td ts s
  | .evpop h d ps => Sys2Proof.Machine.execEvpop h d ps s
  | .evwait h d => Sys2Proof.Machine.execEvwait h d s
  | .tkdef h x => Sys2Proof.Machine.execTkdef h x s
  | .tkdec h ix n => Sys2Proof.Machine.execTkdec h ix n s
  | .tkpull h wait d ps types => Sys2Proof.Machine.execTkpull h wait d ps types s
  | .tkdone h ix => Sys2Proof.Machine.execTkdone h ix s
  | .weirget h ev a ts r => Sys2Proof.Machine.execWeirget h ev a ts r s
  | .mma h ev acc ts slot => Sys2Proof.Machine.execMma h ev acc ts slot s
  | .mmah h ev bf acc ts slot => Sys2Proof.Machine.execMmah h ev bf acc ts slot s
  | .mmai h ev acc ts slot => Sys2Proof.Machine.execMmai h ev acc ts slot s
  | .mzero h ev acc => Sys2Proof.Machine.execMzero h ev acc s
  | .mld h ev acc a off => Sys2Proof.Machine.execMld h ev acc a off s
  | .mst h ev acc a off => Sys2Proof.Machine.execMst h ev acc a off s
  | .wbld h ev layout slot a off => Sys2Proof.Machine.execWbld h ev layout slot a off s
  | .accalloc h try_ ps acc => Sys2Proof.Machine.execAccalloc h try_ ps acc s
  | .accfree h acc => Sys2Proof.Machine.execAccfree h acc s
  | .oprfence h => Sys2Proof.Machine.execOprfence h s
  | .rlxcfg h dense src cluster limit t => Sys2Proof.Machine.execRlxcfg h dense src cluster limit t s
  | .rlxcfgReg h dense src cluster sl st => Sys2Proof.Machine.execRlxcfgReg h dense src cluster sl st s
  | .rlxcfgTol h sa sb => Sys2Proof.Machine.execRlxcfgTol h sa sb s
  | .rlxst h r0 r1 r2 r3 => Sys2Proof.Machine.execRlxst h r0 r1 r2 r3 s
  | .rlxin h d a off stride => Sys2Proof.Machine.execRlxin h d a off stride s
  | .rlxgs h none_ a off => Sys2Proof.Machine.execRlxgs h none_ a off s
  | .rlxbeg h => Sys2Proof.Machine.execRlxbeg h s
  | .rlxend h => Sys2Proof.Machine.execRlxend h s
  | .rlxq h sel d => Sys2Proof.Machine.execRlxq h sel d s
  | .rlxseed h src j => Sys2Proof.Machine.execRlxseed h src j s
  | .gcfg h ps a off => Sys2Proof.Machine.execGcfg h ps a off s
  | .gperm h d a => Sys2Proof.Machine.execGperm h d a s
  | .gadd h ps a => Sys2Proof.Machine.execGadd h ps a s
  | .gtest h pd => Sys2Proof.Machine.execGtest h pd s
  | .gq h sel d => Sys2Proof.Machine.execGq h sel d s
  | .bnew h hf hs ps size => Sys2Proof.Machine.execBnew h hf hs ps size s
  | .hdrop h a => Sys2Proof.Machine.execHdrop h a s
  | .hmov h d a => Sys2Proof.Machine.execHmov h d a s
  | .hcpy h d a => Sys2Proof.Machine.execHcpy h d a s
  | .hld h sign width d a idx off => Sys2Proof.Machine.execHld h sign width d a idx off s
  | .hst h width src a idx off => Sys2Proof.Machine.execHst h width src a idx off s
  | .hstm h b off a => Sys2Proof.Machine.execHstm h b off a s
  | .hldm h a ps b off => Sys2Proof.Machine.execHldm h a ps b off s
  | .hldmRing h a ps b off => Sys2Proof.Machine.execHldmRing h a ps b off s
  | .hxfer h ps a port ring => Sys2Proof.Machine.execHxfer h ps a port ring s
  | .hqry h sel d a => Sys2Proof.Machine.execHqry h sel d a s
  | .launch h d a => Sys2Proof.Machine.execLaunch h d a s
  | .stepmk h pw => Sys2Proof.Machine.execStepmk h pw s
  | .dieq h sel d => Sys2Proof.Machine.execDieq h sel d s
  | .treeset h a off => Sys2Proof.Machine.execTreeset h a off s
  | .treesetCanon h => Sys2Proof.Machine.execTreesetCanon h s
  | .cred h op ty d a => Sys2Proof.Machine.execCred h op ty d a s
  | .sysr h d n => Sys2Proof.Machine.execSysr h d n s
  | .sysw h n a => Sys2Proof.Machine.execSysw h n a s
  | .trap h code => Sys2Proof.Machine.execTrap h code s
  | .eret h => Sys2Proof.Machine.execEret h s
  | .brk h act code => Sys2Proof.Machine.execBrk h act code s
  | .halt h => Sys2Proof.Machine.execHalt h s
  | .trcon h => Sys2Proof.Machine.execTrcon h s
  | .trcoff h => Sys2Proof.Machine.execTrcoff h s
  | .cntrd h n d => Sys2Proof.Machine.execCntrd h n d s
  | .stallCountExpiry wave slot => Sys2Proof.Machine.execStallCountExpiry wave slot s
  | .overdueWave wave => Sys2Proof.Machine.execOverdueWave wave s
  | .counterDecrement wave => Sys2Proof.Machine.execCounterDecrement wave s
  | .sleepExpiry wave slot => Sys2Proof.Machine.execSleepExpiry wave slot s
  | .variableResultCompletion op slow => Sys2Proof.Machine.execVariableResultCompletion op slow s
  | .icacheMissFill wave slot => Sys2Proof.Machine.execIcacheMissFill wave slot s
  | .translationWalk op => Sys2Proof.Machine.execTranslationWalk op s
  | .memoryAccessPerform op lane => Sys2Proof.Machine.execMemoryAccessPerform op lane s
  | .faultEntryDeferredWrite die => Sys2Proof.Machine.execFaultEntryDeferredWrite die s
  | .atomicPerform op lane => Sys2Proof.Machine.execAtomicPerform op lane s
  | .gateTimeout op lane => Sys2Proof.Machine.execGateTimeout op lane s
  | .replayDivergeEnd launch => Sys2Proof.Machine.execReplayDivergeEnd launch s
  | .pinnedRetryAccept op lane => Sys2Proof.Machine.execPinnedRetryAccept op lane s
  | .txRetryAccept op lane => Sys2Proof.Machine.execTxRetryAccept op lane s
  | .commandCompletion op => Sys2Proof.Machine.execCommandCompletion op s
  | .tdefCompletion op => Sys2Proof.Machine.execTdefCompletion op s
  | .hxferDelivery x => Sys2Proof.Machine.execHxferDelivery x s
  | .hxferAck op => Sys2Proof.Machine.execHxferAck op s
  | .gaugeMerge die => Sys2Proof.Machine.execGaugeMerge die s
  | .passEnd region => Sys2Proof.Machine.execPassEnd region s
  | .fqackWrite die seq => Sys2Proof.Machine.execFqackWrite die seq s
  | .faultCompletionApply die => Sys2Proof.Machine.execFaultCompletionApply die s
  | .fqtailWrite die tail => Sys2Proof.Machine.execFqtailWrite die tail s
  | .asgenWrite asid => Sys2Proof.Machine.execAsgenWrite asid s
  | .asgenDrainComplete asid => Sys2Proof.Machine.execAsgenDrainComplete asid s
  | .repack die core base => Sys2Proof.Machine.execRepack die core base s
  | .debugHalt launch => Sys2Proof.Machine.execDebugHalt launch s
  | .debugResume launch => Sys2Proof.Machine.execDebugResume launch s
  | .debugKill launch => Sys2Proof.Machine.execDebugKill launch s
  | .debugStop die core wslot path => Sys2Proof.Machine.execDebugStop die core wslot path s
  | .debugGo die core wslot path => Sys2Proof.Machine.execDebugGo die core wslot path s
  | .debugStep die core wslot path => Sys2Proof.Machine.execDebugStep die core wslot path s
  | .debugDump launch => Sys2Proof.Machine.execDebugDump launch s
  | .systemRegisterWrite die n x => Sys2Proof.Machine.execSystemRegisterWrite die n x s
  | .trapDelivery wave => Sys2Proof.Machine.execTrapDelivery wave s
  | .waveRetire wave => Sys2Proof.Machine.execWaveRetire wave s
  | .preemption wave => Sys2Proof.Machine.execPreemption wave s
  | .contextSwitch launch cluster => Sys2Proof.Machine.execContextSwitch launch cluster s
  | .contextRestore launch cluster cores => Sys2Proof.Machine.execContextRestore launch cluster cores s
  | .haltComplete launch => Sys2Proof.Machine.execHaltComplete launch s
  | .dumpWrite launch => Sys2Proof.Machine.execDumpWrite launch s
  | .launchEligible launch => Sys2Proof.Machine.execLaunchEligible launch s
  | .bindRecordWrite b => Sys2Proof.Machine.execBindRecordWrite b s
  | .dispatchStep die => Sys2Proof.Machine.execDispatchStep die s
  | .granuleDrainComplete core granule => Sys2Proof.Machine.execGranuleDrainComplete core granule s
  | .teamFirstIssue team => Sys2Proof.Machine.execTeamFirstIssue team s
  | .deterministicFirstOwner core => Sys2Proof.Machine.execDeterministicFirstOwner core s
  | .fragmentationEvent die slot => Sys2Proof.Machine.execFragmentationEvent die slot s
  | .oppChange launch => Sys2Proof.Machine.execOppChange launch s
  | .stepBoundary launch d => Sys2Proof.Machine.execStepBoundary launch d s
  | .launchComplete launch => Sys2Proof.Machine.execLaunchComplete launch s
  | .addressSpaceRelease asid => Sys2Proof.Machine.execAddressSpaceRelease asid s
  | .poolLevelEval die => Sys2Proof.Machine.execPoolLevelEval die s
  | .swapOut die => Sys2Proof.Machine.execSwapOut die s
  | .swapIn die => Sys2Proof.Machine.execSwapIn die s
  | .tracePeriodicSync die => Sys2Proof.Machine.execTracePeriodicSync die s
  | .startCold x => Sys2Proof.Machine.execStartCold x s
  | .startWarm x => Sys2Proof.Machine.execStartWarm x s
  | .requestRingPoll die ring => Sys2Proof.Machine.execRequestRingPoll die ring s
  | .start r => Sys2Proof.Machine.execStart r s
  | .keyload r => Sys2Proof.Machine.execKeyload r s
  | .keySlotSwitch slot => Sys2Proof.Machine.execKeySlotSwitch slot s
  | .poolreg r => Sys2Proof.Machine.execPoolreg r s
  | .measure r => Sys2Proof.Machine.execMeasure r s
  | .attest r => Sys2Proof.Machine.execAttest r s
  | .badop r => Sys2Proof.Machine.execBadop r s
  | .peerLinkTrainingFail port => Sys2Proof.Machine.execPeerLinkTrainingFail port s
  | .peerAckTimeout port => Sys2Proof.Machine.execPeerAckTimeout port s
  | .powerRemoval => Sys2Proof.Machine.execPowerRemoval s
  | .operatingPointStable die => Sys2Proof.Machine.execOperatingPointStable die s
  | .carriedHandleAccess op lane => Sys2Proof.Machine.execCarriedHandleAccess op lane s
  | .completionRingRetry launch => Sys2Proof.Machine.execCompletionRingRetry launch s
  | .breachAlarm sensor => Sys2Proof.Machine.execBreachAlarm sensor s
  | .hostLaneFail lanes => Sys2Proof.Machine.execHostLaneFail lanes s
  | .hostCoherence addr byte => Sys2Proof.Machine.execHostCoherence addr byte s

end Sys2Proof.Machine
end

