-- ==== Sys2Proof/Machine/Step.lean ====
section
/-! DEFINITION. One step of the machine, and the placement of an instruction where it is fetched next. -/

namespace Sys2Proof.Machine

/-- One step: `State.move` over the meanings of `exec`. -/
def step (s : State) : Host.Outcome State Fault Refusal := s.move exec

/-- The state with the word `w` where the next step fetches its instruction. Every word of the HX8 has 96 bits
(R52). -/
def State.withFetchWord (s : State) (_nbits w : Nat) : State := s.probe (BitVec.ofNat 96 w)

end Sys2Proof.Machine
end

