-- ==== Sys2Proof/Safety.lean ====
section
/-! DEFINITION. The terms in which statements speak of a run: when a form issues, what a register holds, what an
instruction leaves unchanged, and the results that the tables of the spec give, written with exact integers
where the tables speak of them. -/

namespace Sys2Proof.Machine

/-! ## Steps and issues -/

/-- A step is safe when it answers a next state. -/
def SafeStep (s : State) : Prop := ∃ t, step s = .next t

/-- Form `i` issues in `s` from the path that `c` describes: a path is to issue in this step (R24, R34), and neither its
wait mask, its counter, the scoreboard, a relaxation body, a transaction nor a poisoned input stands in the way
(R16, R60, R65, R311, R193, R69). -/
structure Issues (s : State) (i : Instr) (c : Ctx) : Prop where
  ctx : s.ctx i = some c
  go : c.gate = .go

/-! ## What a register holds -/

/-- Lane `l` of vN, and its poison bit. -/
def Regs.vAt (g : Regs) (n l : Nat) : Word := tget g.v (32 * n + l) 0
def Regs.vBad (g : Regs) (n l : Nat) : Bool := (tget g.vP n 0).getLsbD l
/-- sN, and its poison bit. -/
def Regs.sAt (g : Regs) (n : Nat) : DWord := tget g.s n 0
def Regs.sBad (g : Regs) (n : Nat) : Bool := g.sP.getLsbD n
/-- pK in lane `l`, its poison bit, and the origin that the file holds for it (R67). -/
def Regs.pAt (g : Regs) (k l : Nat) : Bool := (tget g.p k 0).getLsbD l
def Regs.pBad (g : Regs) (k l : Nat) : Bool := (tget g.pP k 0).getLsbD l
def Regs.pOrg (g : Regs) (k : Nat) : Word := tget g.pO k 0
/-- hN. -/
def Regs.hAt (g : Regs) (n : Nat) : HWord := tget g.h n 0

/-! ## What an instruction leaves -/

/-- Every register lane outside the named ones holds what it held, with its poison bit; no handle register
changes. -/
structure Kept (g g' : Regs) (dv : Nat → Nat → Prop) (ds : Nat → Prop) (dp : Nat → Nat → Prop) : Prop where
  v : ∀ n l, l < 32 → ¬ dv n l → g'.vAt n l = g.vAt n l ∧ g'.vBad n l = g.vBad n l
  s : ∀ n, ¬ ds n → g'.sAt n = g.sAt n ∧ g'.sBad n = g.sBad n
  p : ∀ k l, l < 32 → ¬ dp k l → g'.pAt k l = g.pAt k l ∧ g'.pBad k l = g.pBad k l
  o : ∀ k, (∀ l, ¬ dp k l) → g'.pOrg k = g.pOrg k
  h : ∀ n, g'.hAt n = g.hAt n

/-- No register changes. -/
abbrev KeptAll (g g' : Regs) : Prop := Kept g g' (fun _ _ => False) (fun _ => False) (fun _ _ => False)

/-- Outside wave `wk`, and the tangents of live regions, nothing of the module changes: no other wave, no team,
launch, die, core, operation or system register, and no byte of memory. -/
structure Elsewhere (s t : State) (wk : Nat) : Prop where
  all : t = { s with waves := t.waves, regions := t.regions }
  waves : ∀ k, k ≠ wk → t.wave k = s.wave k
  regions : ∀ k, (tfind t.regions k).map (fun r => { r with tans := [] }) =
    (tfind s.regions k).map (fun r => { r with tans := [] })
  mem : ∀ a, memGet t.mem a = memGet s.mem a

/-- The part of a wave that an issue leaves: everything but its registers with their hazards, its counters, its span
state and its paths; the wave has issued in this cycle. -/
def WaveRest (w w' : Wave) : Prop :=
  w' = { w with
    regs := w'.regs, haz := w'.haz, unset := w'.unset, c := w'.c, due := w'.due, span := w'.span, barDone := w'.barDone
    slot0 := w'.slot0, slot1 := w'.slot1, issuedNow := true, fresh := false }

/-- What an issue of the form that goes on at the next instruction does to its wave, beyond its results: the path
goes on under the stall count (R56), the other path stays, the counter rises (R15) and falls in the next cycle
for a fixed class or with no executing lane (R60), and the rest of the wave stays. -/
structure Moves (c : Ctx) (w' : Wave) : Prop where
  path : w'.slot c.slot = some (c.p.advance.issued c.h.stall)
  other : w'.slot (1 - c.slot) = c.w.slot (1 - c.slot)
  ctr : ∀ k, w'.ctr k = if k = c.h.ctr ∧ k < 6 then c.w.ctr k + 1 else c.w.ctr k
  due : w'.due = if c.h.ctr < 6 ∧ (c.i.latClass ≠ .v ∨ c.any = false) then c.w.due ++ [(c.h.ctr, c.s.now + 1)] else c.w.due
  span : c.i.endsSpan = false → w'.span = { c.w.span with ender := none } ∧ w'.barDone = c.w.barDone
  rest : WaveRest c.w w'

/-- A form that changes nothing outside its wave has been issued: `t` is the next state, `w'` its wave. -/
structure Done (c : Ctx) (t : State) (w' : Wave) : Prop where
  wave : t.wave c.wk = some w'
  out : Elsewhere c.s t c.wk
  moves : Moves c w'

/-! ## Results with poison (R67, R68, R97) -/

/-- What a lane's destination receives: the value, or the origin of the first poisoned input with the poison bit. -/
def Receives (val : Word) (bad : Bool) (ins : List Rd) (x : Word) : Prop :=
  match ins.find? Rd.pois with
  | none => val = x ∧ bad = false
  | some r => val = r.org ∧ bad = true

/-- The same for all 64 bits of a uniform register (R79). -/
def Receives64 (val : DWord) (bad : Bool) (ins : List Rd) (x : DWord) : Prop :=
  match ins.find? Rd.pois with
  | none => val = x ∧ bad = false
  | some r => val = r.org.setWidth 64 ∧ bad = true

/-- The same for a lane of a predicate: its poison bit is set when an input is poisoned (R67). -/
def ReceivesP (val bad : Bool) (ins : List Rd) (x : Bool) : Prop :=
  match ins.find? Rd.pois with
  | none => val = x ∧ bad = false
  | some _ => bad = true

/-- From `g` to `g'`, each executing lane of vN receives `val`, and nothing else changes (R96). -/
def LanesOf (c : Ctx) (g g' : Regs) (n : Nat) (ins : Nat → List Rd) (val : Nat → Word) : Prop :=
  (∀ l, l < 32 → c.x.getLsbD l = true → Receives (g'.vAt n l) (g'.vBad n l) (ins l ++ [c.guard l]) (val l)) ∧
  Kept g g' (fun m l => m = n ∧ c.x.getLsbD l = true) (fun _ => False) (fun _ _ => False)

/-- From `g` to `g'`, sN receives `val` when a lane executes, with the guards of all executing lanes as its last
inputs, and nothing else changes (R68, R97). -/
def UniformOf (c : Ctx) (g g' : Regs) (n : Nat) (ins : List Rd) (val : DWord) : Prop :=
  (c.any = true → Receives64 (g'.sAt n) (g'.sBad n) (ins ++ (lanes c.x).map c.guard) val) ∧
  Kept g g' (fun _ _ => False) (fun m => m = n ∧ c.any = true) (fun _ _ => False)

/-- From `g` to `g'`, each executing lane of pK receives `val`, and nothing else changes; p7 receives nothing (R14). -/
def PredOf (c : Ctx) (g g' : Regs) (k : Nat) (ins : Nat → List Rd) (val : Nat → Bool) : Prop :=
  (∀ l, l < 32 → k ≠ 7 → c.x.getLsbD l = true → ReceivesP (g'.pAt k l) (g'.pBad k l) (ins l ++ [c.guard l]) (val l)) ∧
  Kept g g' (fun _ _ => False) (fun _ => False) (fun m l => m = k ∧ m ≠ 7 ∧ c.x.getLsbD l = true)

/-- The result of a 32-bit lane-wise form: each executing lane of a vector register, or the uniform register from the
lowest executing lane, zero-extended (R96, R97). -/
def LaneResult (c : Ctx) (g g' : Regs) (d : Dst) (ins : Nat → List Rd) (val : Nat → Word) : Prop :=
  match d with
  | .v n => LanesOf c g g' n ins val
  | .s n => UniformOf c g g' n (ins (lowest c.x)) ((val (lowest c.x)).setWidth 64)

/-- The result of a 64-bit lane-wise form: vN receives bits 31-0 and vN+1 bits 63-32, or sN all of them (R98). -/
def LaneResult64 (c : Ctx) (g g' : Regs) (d : Dst) (ins : Nat → List Rd) (val : Nat → DWord) : Prop :=
  match d with
  | .v n =>
      (∀ l, l < 32 → c.x.getLsbD l = true →
        Receives (g'.vAt n l) (g'.vBad n l) (ins l ++ [c.guard l]) ((val l).setWidth 32) ∧
        Receives (g'.vAt (n + 1) l) (g'.vBad (n + 1) l) (ins l ++ [c.guard l]) ((val l >>> 32).setWidth 32)) ∧
      Kept g g' (fun m l => (m = n ∨ m = n + 1) ∧ c.x.getLsbD l = true) (fun _ => False) (fun _ _ => False)
  | .s n => UniformOf c g g' n (ins (lowest c.x)) (val (lowest c.x))

/-- The results of a compare: pE receives `no`, and pD `yes` unless it is pE, which is written last (R103, R146). -/
def CompareResult (c : Ctx) (g g' : Regs) (pd pe : Nat) (ins : Nat → List Rd) (yes no : Nat → Bool) : Prop :=
  (∀ l, l < 32 → c.x.getLsbD l = true →
    (pe ≠ 7 → ReceivesP (g'.pAt pe l) (g'.pBad pe l) (ins l ++ [c.guard l]) (no l)) ∧
    (pd ≠ 7 → pd ≠ pe → ReceivesP (g'.pAt pd l) (g'.pBad pd l) (ins l ++ [c.guard l]) (yes l))) ∧
  Kept g g' (fun _ _ => False) (fun _ => False) (fun m l => (m = pd ∨ m = pe) ∧ m ≠ 7 ∧ c.x.getLsbD l = true)

/-- An operand as a 32-bit word. -/
def Rd.word (r : Rd) : Word := r.val.setWidth 32

/-! ## The functions of Table 7-1, in exact integers -/

/-- The low 32 bits of an integer, or the integer clamped to the type's range (R101). -/
def wrapOr (ty : Ty) (sat : Bool) (x : Int) : Word :=
  if sat then BitVec.ofInt 32 (max ty.min (min ty.max x)) else BitVec.ofInt 32 x

/-- The two-source integer forms: destination, operands, and the function of Table 7-1. -/
def int2 : Instr → Option (Dst × Src × Src × (Word → Word → Word))
  | .iadd _ ty sat d a b => some (d, a, b, fun x y => wrapOr ty sat (ty.int x + ty.int y))
  | .isub _ ty sat d a b => some (d, a, b, fun x y => wrapOr ty sat (ty.int x - ty.int y))
  | .imul _ d a b => some (d, a, b, fun x y => BitVec.ofNat 32 (x.toNat * y.toNat))
  | .imulh _ ty d a b => some (d, a, b, fun x y => BitVec.ofInt 32 (ty.int x * ty.int y / 2 ^ 32))
  | .imin _ ty d a b => some (d, a, b, fun x y => BitVec.ofInt 32 (min (ty.int x) (ty.int y)))
  | .imax _ ty d a b => some (d, a, b, fun x y => BitVec.ofInt 32 (max (ty.int x) (ty.int y)))
  | .and _ d a b => some (d, a, b, fun x y => maskOf fun i => x.getLsbD i && y.getLsbD i)
  | .or _ d a b => some (d, a, b, fun x y => maskOf fun i => x.getLsbD i || y.getLsbD i)
  | .xor _ d a b => some (d, a, b, fun x y => maskOf fun i => x.getLsbD i != y.getLsbD i)
  | .shl _ d a b => some (d, a, b, fun x y => if 32 ≤ y.toNat then 0 else BitVec.ofNat 32 (x.toNat * 2 ^ y.toNat))
  | .shr _ d a b => some (d, a, b, fun x y => if 32 ≤ y.toNat then 0 else BitVec.ofNat 32 (x.toNat / 2 ^ y.toNat))
  | .sar _ d a b => some (d, a, b, fun x y => BitVec.ofInt 32 (x.toInt / 2 ^ (min y.toNat 32)))
  | _ => none

/-- The value of the low bits of a word as STYPE (R105). -/
def subVal (sty : SubTy) (x : Word) : Int :=
  match sty with
  | .s8 => if x.toNat % 256 < 128 then (x.toNat % 256 : Nat) else (x.toNat % 256 : Nat) - 256
  | .u8 => (x.toNat % 256 : Nat)
  | .s16 => if x.toNat % 65536 < 32768 then (x.toNat % 65536 : Nat) else (x.toNat % 65536 : Nat) - 65536
  | .u16 => (x.toNat % 65536 : Nat)
  | .s32 => if x.toNat < 2 ^ 31 then (x.toNat : Int) else (x.toNat : Int) - 2 ^ 32
  | .u32 => (x.toNat : Int)

/-- A bit field of `x` from bit `p`, at most `n` long, extended by its sign or with zeros (R102). -/
def fieldOf (signed : Bool) (x : Word) (p n : Nat) : Word :=
  maskOf fun i =>
    let m := min n (32 - p)
    decide (p < 32) && decide (0 < m) && (if i < m then x.getLsbD (p + i) else signed && x.getLsbD (p + m - 1))

/-- `x`'s low bits inserted into `z` at bits `p` to `p + n - 1` (R102). -/
def insertOf (x z : Word) (p n : Nat) : Word :=
  maskOf fun i => if p ≤ i ∧ i < p + n then x.getLsbD (i - p) else z.getLsbD i

/-- The n-th word of a list. -/
def nth (v : List Word) (n : Nat) : Word := v.getD n 0

/-- The other integer forms of 32 bits: destination, operands, and the function of Table 7-1. -/
def int13 : Instr → Option (Dst × List Src × (List Word → Word))
  | .iabs _ d a => some (d, [a], fun v => BitVec.ofNat 32 (nth v 0).toInt.natAbs)
  | .not _ d a => some (d, [a], fun v => maskOf fun i => !(nth v 0).getLsbD i)
  | .popc _ d a => some (d, [a], fun v => BitVec.ofNat 32 ((List.range 32).countP fun i => (nth v 0).getLsbD i))
  | .clz _ d a => some (d, [a], fun v => BitVec.ofNat 32 (32 - Nat.size (nth v 0).toNat))
  | .brev _ d a => some (d, [a], fun v => maskOf fun i => (nth v 0).getLsbD (31 - i))
  | .icvt _ sty ty d a => some (d, [a], fun v => wrapOr ty true (subVal sty (nth v 0)))
  | .bfe _ ty d a b => some (d, [a, b], fun v =>
      fieldOf (ty == .s32) (nth v 0) ((nth v 1).toNat % 256) ((nth v 1).toNat / 256 % 256))
  | .imad _ ty sat d a b c => some (d, [a, b, c], fun v =>
      wrapOr ty sat (ty.int (nth v 0) * ty.int (nth v 1) + ty.int (nth v 2)))
  | .lut3 _ lut d a b c => some (d, [a, b, c], fun v => maskOf fun i =>
      lut.getLsbD (((nth v 0).getLsbD i).toNat + 2 * ((nth v 1).getLsbD i).toNat + 4 * ((nth v 2).getLsbD i).toNat))
  | .shf _ right d a b c => some (d, [a, b, c], fun v =>
      let x := (nth v 1).toNat * 2 ^ 32 + (nth v 0).toNat
      let n := min (nth v 2).toNat 32
      if right then BitVec.ofNat 32 (x / 2 ^ n) else BitVec.ofNat 32 (x * 2 ^ n / 2 ^ 32))
  | .bfi _ d a b c => some (d, [a, b, c], fun v =>
      insertOf (nth v 0) (nth v 2) ((nth v 1).toNat % 256) ((nth v 1).toNat / 256 % 256))
  | .bperm _ d a b c => some (d, [a, b, c], fun v => maskOf fun i =>
      let sel := (nth v 2).toNat / 2 ^ (4 * (i / 8)) % 16
      let x := (nth v 1).toNat * 2 ^ 32 + (nth v 0).toNat
      x.testBit (8 * (sel % 8) + if 8 ≤ sel then 7 else i % 8))
  | _ => none

/-! ## Floating-point forms: the operation of Table 9-1 on the operands' bits -/

/-- FP32 forms of a fixed latency. -/
def float13 : Instr → Option (Dst × List Src × (List Word → Word))
  | .fadd _ d a b => some (d, [a, b], fun v => BitVec.ofNat 32 (fp32.add (nth v 0).toNat (nth v 1).toNat))
  | .fsub _ d a b => some (d, [a, b], fun v => BitVec.ofNat 32 (fp32.sub (nth v 0).toNat (nth v 1).toNat))
  | .fmul _ d a b => some (d, [a, b], fun v => BitVec.ofNat 32 (fp32.mul (nth v 0).toNat (nth v 1).toNat))
  | .ffma _ d a b c => some (d, [a, b, c], fun v =>
      BitVec.ofNat 32 (fp32.fma (nth v 0).toNat (nth v 1).toNat (nth v 2).toNat))
  | .fmin _ d a b => some (d, [a, b], fun v => BitVec.ofNat 32 (fp32.minMax false (nth v 0).toNat (nth v 1).toNat))
  | .fmax _ d a b => some (d, [a, b], fun v => BitVec.ofNat 32 (fp32.minMax true (nth v 0).toNat (nth v 1).toNat))
  | .fclass _ d a => some (d, [a], fun v => fclassWord (nth v 0).toNat)
  | .frnd _ r d a => some (d, [a], fun v => frndOf r (nth v 0))
  | .fcvt _ r dty sty d a => some (d, [a], fun v => fcvtOf r dty sty (nth v 0))
  | .f2i _ r dty sty d a => some (d, [a], fun v => f2iOf r dty sty (nth v 0))
  | .i2f _ r dty sty d a => some (d, [a], fun v => i2fOf r dty sty (nth v 0))
  | .fscale _ d a n => some (d, [a, n], fun v => fscaleOf (nth v 0) (nth v 1))
  | .fdot4 _ d a b c => some (d, [a, b, c], fun v => fdot4Of (nth v 0) (nth v 1) (nth v 2))
  | _ => none

/-- One half of a paired-half form: the operation where HALF takes it, else the half of A (R151). -/
def halfOf (take : Bool) (f : Nat → Nat → Nat → Nat) (x y z : Nat) : Nat := if take then f x y z else x

/-- A paired-half form: bits 15-0 and bits 31-16. -/
def pairOf (half : Half) (f : Nat → Nat → Nat → Nat) (v : List Word) : Word :=
  BitVec.ofNat 32
    (halfOf (half != .hi) f ((nth v 0).toNat % 65536) ((nth v 1).toNat % 65536) ((nth v 2).toNat % 65536)
      + 65536 * halfOf (half != .lo) f ((nth v 0).toNat / 65536) ((nth v 1).toNat / 65536) ((nth v 2).toNat / 65536))

/-- The paired-half forms (Table 9-1). -/
def half23 : Instr → Option (Dst × List Src × (List Word → Word))
  | .hadd2 _ half d a b => some (d, [a, b], pairOf half fun x y _ => fp16.add x y)
  | .hmul2 _ half d a b => some (d, [a, b], pairOf half fun x y _ => fp16.mul x y)
  | .hmin2 _ half d a b => some (d, [a, b], pairOf half fun x y _ => fp16.minMax false x y)
  | .hmax2 _ half d a b => some (d, [a, b], pairOf half fun x y _ => fp16.minMax true x y)
  | .hfma2 _ half d a b c => some (d, [a, b, c], pairOf half fp16.fma)
  | .bfma2 _ half d a b c => some (d, [a, b, c], pairOf half bf16.fma)
  | _ => none

/-- IDIV in exact integers, with the corners of R106. -/
def quotient (ty : Ty) (x y : Word) : Word :=
  if y = 0 then (match ty with | .u32 => 0xFFFFFFFF | .s32 => if 0 ≤ x.toInt then 0x7FFFFFFF else 0x80000000)
  else wrapOr ty true ((ty.int x).tdiv (ty.int y))

/-- The forms whose results come later (R61): IDIV and the functions of Table 9-4. -/
def slow12 : Instr → Option (Dst × List Src × (List Word → Word))
  | .idiv _ ty d a b => some (d, [a, b], fun v => quotient ty (nth v 0) (nth v 1))
  | .fdiv _ d a b => some (d, [a, b], fun v => BitVec.ofNat 32 (fp32.div (nth v 0).toNat (nth v 1).toNat))
  | .fsqrt _ d a => some (d, [a], fun v => BitVec.ofNat 32 (Fn.sqrt.eval (nth v 0).toNat))
  | .frcp _ d a => some (d, [a], fun v => BitVec.ofNat 32 (Fn.rcp.eval (nth v 0).toNat))
  | .frsq _ d a => some (d, [a], fun v => BitVec.ofNat 32 (Fn.rsq.eval (nth v 0).toNat))
  | .fexp _ d a => some (d, [a], fun v => BitVec.ofNat 32 (Fn.exp.eval (nth v 0).toNat))
  | .fexp2 _ d a => some (d, [a], fun v => BitVec.ofNat 32 (Fn.exp2.eval (nth v 0).toNat))
  | .flog _ d a => some (d, [a], fun v => BitVec.ofNat 32 (Fn.log.eval (nth v 0).toNat))
  | .flog2 _ d a => some (d, [a], fun v => BitVec.ofNat 32 (Fn.log2.eval (nth v 0).toNat))
  | .fsin _ d a => some (d, [a], fun v => BitVec.ofNat 32 (Fn.sin.eval (nth v 0).toNat))
  | .fcos _ d a => some (d, [a], fun v => BitVec.ofNat 32 (Fn.cos.eval (nth v 0).toNat))
  | .ftanh _ d a => some (d, [a], fun v => BitVec.ofNat 32 (Fn.tanh.eval (nth v 0).toNat))
  | .fsigm _ d a => some (d, [a], fun v => BitVec.ofNat 32 (Fn.sigm.eval (nth v 0).toNat))
  | _ => none

/-- The compares: predicates, operands, the condition and what the second destination receives (R103, R146, R152). -/
def compareForm : Instr → Option (Nat × Nat × Src × Src × (Word → Word → Bool) × (Word → Word → Bool))
  | .isetp _ cmp ty pd pe a b => some (pd, pe, a, b,
      fun x y => cmp.holds (ty.int x) (ty.int y), fun x y => !cmp.holds (ty.int x) (ty.int y))
  | .fsetp _ cmp pd pe a b => some (pd, pe, a, b,
      fun x y => cmp.holds fp32 x.toNat y.toNat,
      fun x y => ordered fp32 x.toNat y.toNat && !cmp.holds fp32 x.toNat y.toNat)
  | .hsetp2 _ half cmp pd pe a b => some (pd, pe, a, b,
      fun x y => half.allOf (cmp.holds fp16) x.toNat y.toNat, fun x y => half.allOf (cmp.fails fp16) x.toNat y.toNat)
  | _ => none

/-! ## Posting a pending operation -/

/-- Outside wave `wk` nothing of the module changes but the list of pending operations and the tangents of regions. -/
structure ElsewhereOps (s t : State) (wk : Nat) : Prop where
  all : t = { s with waves := t.waves, regions := t.regions, ops := t.ops, opSeq := t.opSeq }
  waves : ∀ k, k ≠ wk → t.wave k = s.wave k
  regions : ∀ k, (tfind t.regions k).map (fun r => { r with tans := [] }) =
    (tfind s.regions k).map (fun r => { r with tans := [] })
  mem : ∀ a, memGet t.mem a = memGet s.mem a

/-- A form has posted the pending operation `o` under the next number and gone on: it has changed no register yet, and
every other operation stays (R61). -/
structure Posts (c : Ctx) (t : State) (w' : Wave) (o : Op) : Prop where
  wave : t.wave c.wk = some w'
  out : ElsewhereOps c.s t c.wk
  moves : Moves c w'
  regs : w'.regs = c.w.regs
  op : t.op c.s.opSeq = some o
  seq : t.opSeq = c.s.opSeq + 1
  others : ∀ k, k ≠ c.s.opSeq → t.op k = c.s.op k

/-- The results that operation `o` will write at its completion, applied in order. -/
def Op.written (o : Op) (g : Regs) : Regs := o.writes.foldl (fun g r => r.apply g) g

/-- Every well-formed form of a table of lane-wise forms of a fixed latency completes: its destination receives the
table's function of its operands, poison by R68, and nothing else changes but the path, the counter and the mark
that the wave has issued. -/
def Completes (form : Instr → Option (Dst × List Src × (List Word → Word))) : Prop :=
  ∀ (s : State) (c : Ctx) (i : Instr) (d : Dst) (ops : List Src) (f : List Word → Word) (V ver : Nat),
    form i = some (d, ops, f) → i.wf V ver = true → Issues s i c →
    ∃ t w', exec i s = .next t ∧ Done c t w' ∧
      LaneResult c c.w.regs w'.regs d (fun l => ops.map fun a => c.rd a l) (fun l => f (ops.map fun a => (c.rd a l).word))

/-- Every well-formed form of a table of lane-wise forms of the variable class completes its issue: with an executing lane
it posts an operation that will write the table's function of the operands as they were read; with none it only
counts. -/
def CompletesLater (form : Instr → Option (Dst × List Src × (List Word → Word))) : Prop :=
  ∀ (s : State) (c : Ctx) (i : Instr) (d : Dst) (ops : List Src) (f : List Word → Word) (V ver : Nat),
    form i = some (d, ops, f) → i.wf V ver = true → Issues s i c →
    (c.any = true → ∃ t w' o, exec i s = .next t ∧ Posts c t w' o ∧ o.wave = c.wk ∧ o.ctr = c.h.ctr ∧ o.finished = true ∧
      ∀ g, LaneResult c g (o.written g) d (fun l => ops.map fun a => c.rd a l)
        (fun l => f (ops.map fun a => (c.rd a l).word))) ∧
    (c.any = false → ∃ t w', exec i s = .next t ∧ Done c t w' ∧ KeptAll c.w.regs w'.regs)

/-- A form completes and changes no register. -/
def CompletesPlain (i : Instr) : Prop :=
  ∀ (s : State) (c : Ctx), Issues s i c → ∃ t w', exec i s = .next t ∧ Done c t w' ∧ KeptAll c.w.regs w'.regs

/-- A form completes with the change `P` of its wave's registers. -/
def CompletesWith (i : Instr) (P : Ctx → Regs → Regs → Prop) : Prop :=
  ∀ (s : State) (c : Ctx), Issues s i c → ∃ t w', exec i s = .next t ∧ Done c t w' ∧ P c c.w.regs w'.regs

/-! ## Control transfer -/

/-- What a transfer of control does to its wave beyond its paths and its results: the counter, the stack and the rest of the
wave, and, in a wave that is not traced, nothing outside the wave. -/
structure Transfers (c : Ctx) (t : State) (w' : Wave) : Prop where
  wave : t.wave c.wk = some w'
  out : c.w.trace = false → Elsewhere c.s t c.wk
  ctr : ∀ k, w'.ctr k = if k = c.h.ctr ∧ k < 6 then c.w.ctr k + 1 else c.w.ctr k
  rest : WaveRest c.w w'

/-- The path of an issue at `pc`, held by the form's stall count (R56). -/
def Ctx.heldAt (c : Ctx) (p : Path) (pc : DWord) : Path := (p.at pc).issued c.h.stall

/-! ## Accesses to memory -/

/-- The lanes of an atomic that had performed before a pre-emption, when it is issued again (R190). -/
def Ctx.made (c : Ctx) : Mask := if (c.w.barDone.any fun b => b.1 == c.p.pc) then c.w.done &&& c.x else 0

/-- The address operand of a memory form, and the lanes that make an access: not those of a load with a poisoned
address or guard (R68), nor doomed ones (R192), nor those of an atomic that have performed (R190). -/
def Ctx.accesses (c : Ctx) : Instr → Option (Addr × Mask)
  | .ld _ _ _ _ _ m | .ldNf _ _ _ _ _ _ m => some (m, c.x &&& ~~~ c.poisLanes m &&& ~~~ c.doomed)
  | .st _ _ _ _ m | .rel _ _ _ m => some (m, c.x &&& ~~~ c.doomed)
  | .atom _ _ _ _ _ _ _ m | .red _ _ _ _ _ _ m => some (m, c.x &&& ~~~ c.made)
  | .enq _ _ _ m | .deq _ _ _ m | .acq _ _ _ m => some (m, c.x)
  | _ => none

/-- The state that a memory form is checked in: the done mask is the atomic's that issues, and of one that is issued for the first
time it is clear (R190). -/
def Ctx.accessState (c : Ctx) : Instr → State
  | .atom _ _ _ _ _ _ _ _ | .red _ _ _ _ _ _ _ => c.s.modWave c.wk fun w =>
      { w with done := if (c.w.barDone.any fun b => b.1 == c.p.pc) then w.done else 0, doneOf := some c.s.opSeq }
  | _ => c.s

/-- The words that a lane of a memory form takes from its registers. -/
def Ctx.stored (c : Ctx) (l : Nat) : Instr → List Word
  | .st _ _ w src _ => c.words src w.regs l
  | .rel _ _ src _ => c.words src 1 l
  | .atom _ op _ _ w _ src _ | .red _ op _ _ w src _ => c.words src (op.regs w) l
  | .enq _ _ src _ => c.words src 4 l
  | _ => []

/-- The code that stops a lane. -/
def codeOf (r : Except (Nat × DWord) (List Seg)) : Option Nat := match r with | .error e => some e.1 | .ok _ => none

/-- A memory form has posted its access `o` and changed no register; its path goes on, or waits on the access while a
place is to be translated (R163, R181). -/
structure PostsAccess (c : Ctx) (t : State) (w' : Wave) (o : Op) : Prop where
  wave : t.wave c.wk = some w'
  out : ElsewhereOps c.s t c.wk
  path : w'.slot c.slot = some (if o.holding = true then { c.p.issued c.h.stall with wait := .op c.s.opSeq }
    else c.p.advance.issued c.h.stall)
  other : w'.slot (1 - c.slot) = c.w.slot (1 - c.slot)
  ctr : ∀ k, w'.ctr k = if k = c.h.ctr ∧ k < 6 then c.w.ctr k + 1 else c.w.ctr k
  rest : WaveRest { c.w with done := w'.done, doneOf := w'.doneOf } w'
  regs : w'.regs = c.w.regs
  op : t.op c.s.opSeq = some o
  seq : t.opSeq = c.s.opSeq + 1
  others : ∀ k, k ≠ c.s.opSeq → t.op k = c.s.op k
  fields : o.wave = c.wk ∧ o.slot = c.slot ∧ o.pc = c.p.pc ∧ o.instr = c.i ∧ o.ctr = c.h.ctr

/-- No command of the operation's address space is pending (R226). -/
def State.noCommands (s : State) (o : Op) : Prop :=
  ∀ x ∈ s.ops, x.2.isCmd = true → x.2.finished = false → s.asidOf x.2.wave ≠ s.asidOf o.wave

/-- No pool is registered for the operation's address space (R284). -/
def State.noPool (s : State) (o : Op) : Prop := ∀ d ∈ s.dies, ∀ p, d.2.pool = some p → p.asid ≠ s.asidOf o.wave

/-- Every command of the address space is complete to the operation, and no pool is registered: no byte is undefined to it (R226,
R284). -/
structure State.Quiet (s : State) (id : Nat) (o : Op) : Prop where
  places : s.cmdPlaces id o false = []
  pool : s.noPool o

/-- The turn of lane `l` of the pending access `id` of a wave outside a relaxation body: the lane is translated and has
not performed, nothing that R182, R222 or R227 names holds it back, no command races with it (R226) and no sequence of a pool shuts it out (R284), no
checkpoint is to receive its results (R89), and no earlier operation of its form without a counter is pending (R61). `again` says that it has met a retry response, `tx` that it belongs
to a transaction. -/
structure Turn (s : State) (id : Nat) (o : Op) (w : Wave) (l : Nat) (again tx : Bool) : Prop where
  op : s.op id = some o
  wave : s.wave o.wave = some w
  lane : l < 32
  mask : ∀ k, o.todo.getLsbD k = true → o.mask.getLsbD k = true
  todo : o.todo.getLsbD l = true
  walked : o.walked = true
  ready : o.ready l = true
  retry : o.retry.getLsbD l = again
  order : s.heldBack id o l = false
  pins : s.retried w.team (o.seg l) = false
  body : o.steps = []
  tx : o.tx.getLsbD l = tx
  races : ∀ b ∈ s.lostAt id o (s.lanePlaces w o l), b = false
  alone : s.noCommands o
  ckpt : ∀ k, w.span.ckpt = some k → k.opsBefore ≤ id
  first : s.behind id o = false

/-- The step in which a lane of a plain access performs. -/
def performStep (again tx : Bool) (id l : Nat) : Instr :=
  if again then (if tx then .txRetryAccept id l else .pinnedRetryAccept id l) else .memoryAccessPerform id l

/-- The step in which a target of an atomic or of a ring form performs. -/
def targetStep (again : Bool) (id l : Nat) : Instr := if again then .pinnedRetryAccept id l else .atomicPerform id l

/-- The last lanes of an access have performed when none is left but `m`. -/
def Op.lastOf (o : Op) (m : Mask) : Bool := o.todo &&& ~~~ m == 0

/-- The lanes `m` of access `id` have performed: the access stays with the others, or it is complete, with its counter
lowered and the results that were known at its issue written over `g` (R61, R181). No other wave and no other
operation changes. -/
structure Performed (s t : State) (id : Nat) (o : Op) (m : Mask) (g : Regs) : Prop where
  left : o.lastOf m = false → ∃ w o' , t.wave o.wave = some w ∧ w.regs = g ∧ (∀ k, w.ctr k = ((s.wave o.wave).map fun v => v.ctr k).getD 0) ∧
    t.op id = some o' ∧ o'.todo = o.todo &&& ~~~ m ∧ o'.instr = o.instr ∧ o'.writes = o.writes ∧ o'.segs = o.segs
  last : o.lastOf m = true → ∃ w, t.wave o.wave = some w ∧ w.regs = o.written g ∧ t.op id = none ∧
    ∀ k, w.ctr k = if k = o.ctr ∧ k < 6 then ((s.wave o.wave).map fun v => v.ctr k).getD 0 - 1
      else ((s.wave o.wave).map fun v => v.ctr k).getD 0
  waves : ∀ k, k ≠ o.wave → t.wave k = s.wave k
  ops : ∀ k, k ≠ id → t.op k = s.op k

/-- A word that a load gives from its bytes (R184): 8 and 16 bits extended by their sign or with zeros, else the `k`-th
four bytes, the least significant first. -/
def loadValue (width : Width) (signed : Bool) (bs : List Byte) (k : Nat) : Word :=
  match width with
  | .w8 => if signed && decide (128 ≤ leNat bs) then BitVec.ofInt 32 ((leNat bs : Int) - 256) else BitVec.ofNat 32 (leNat bs)
  | .w16 =>
      if signed && decide (32768 ≤ leNat bs) then BitVec.ofInt 32 ((leNat bs : Int) - 65536) else BitVec.ofNat 32 (leNat bs)
  | _ => BitVec.ofNat 32 (leNat ((bs.drop (4 * k)).take 4))

/-- The poison of a place: that of a register lane which a window reaches (R94). -/
def State.placeRd (s : State) : Place → Rd
  | .reg wk n k _ => { val := 0, pois := (s.regsOf wk).vBad n k, org := (s.regsOf wk).vAt n k }
  | _ => { val := 0 }

/-- A line that was reached through this key slot alone. -/
def State.ownLine (s : State) (key pa : Nat) : Prop := ∀ x, tfind s.lineKey (pa / 128) = some x → x.key = key ∧ x.mixed = false

/-- The wave is live, or has ended while its team's register block stands (R88). -/
def State.hasRegs (s : State) (wk : Nat) : Prop :=
  (s.wave wk).isSome = true ∨ ∃ x, s.team (wk / 32) = some x ∧ (tfind x.past (wk % 32)).isSome = true

/-- The bytes of one place. -/
def State.bytesAt (s : State) (ck : Nat) (g : Place) (n : Nat) : List Byte := (List.range n).map fun k => s.placeByte ck g k

/-- From `s` to `t`, the core `ck` of wave `wk` has written `bs` at one place; every other byte of the module reads
as before, and no register lane but that of a register window changes. -/
def Stored (s t : State) (ck : Nat) (g : Place) (bs : List Byte) : Prop :=
  match g with
  | .phys pa 0 key =>
      (∀ k, k < bs.length → t.l1Byte ck key (pa + k) = bs.getD k 0) ∧
      (∀ a, (a < pa ∨ pa + bs.length ≤ a) → t.l1Byte ck key a = s.l1Byte ck key a) ∧
      (∀ j, j ≠ ck → t.core j = s.core j) ∧ t.mem = s.mem
  | .phys pa _ _ =>
      (∀ k, k < bs.length → memGet t.mem (pa + k) = bs.getD k 0) ∧
      (∀ a, (a < pa ∨ pa + bs.length ≤ a) → memGet t.mem a = memGet s.mem a) ∧ t.cores = s.cores
  | .scr tk off =>
      (∀ x, s.team tk = some x → ∃ y, t.team tk = some y ∧
        (∀ k, k < bs.length → memGet y.scr (off + k) = bs.getD k 0) ∧
        ∀ a, (a < off ∨ off + bs.length ≤ a) → memGet y.scr a = memGet x.scr a) ∧
      (∀ j, j ≠ tk → t.team j = s.team j) ∧ t.mem = s.mem ∧ t.cores = s.cores
  | .reg wk n k b =>
      (s.hasRegs wk → k < 32 → b + bs.length ≤ 4 →
        (∀ j, j < bs.length → t.regByte wk n k (b + j) = bs.getD j 0) ∧
        ∀ m l x, l < 32 → x < 4 → ¬ (m = n ∧ l = k ∧ b ≤ x ∧ x < b + bs.length) → t.regByte wk m l x = s.regByte wk m l x) ∧
      t.mem = s.mem ∧ t.cores = s.cores ∧ ((s.wave wk).isSome = true → t.teams = s.teams)
  | .glob _ => False

/-- No other key slot has reached the line of a place of normal memory, which holds all its bytes (R177). -/
def State.ownPlace (s : State) (ck n : Nat) : Place → Prop
  | .phys pa 0 key => pa % 128 + n ≤ 128 ∧ s.ownLine key pa ∧ ∀ x, tfind (s.core ck).l1 (pa / 128) = some x → x.key = key
  | _ => True

/-- The state once the core has room for the line of a place of normal memory: its lowest line has gone when its granules in
CACHE are full (R165). -/
def State.roomFor (s : State) (ck : Nat) : Place → State
  | .phys pa 0 _ => if thas (s.core ck).l1 (pa / 128) || (s.core ck).lineRoom == 0 then s else s.makeRoom ck
  | _ => s

/-- The place that the core writes: its own copy of a line of normal memory, or the L2 when no granule is in CACHE (R165). -/
def State.writtenAt (s : State) (ck : Nat) : Place → Place
  | .phys pa 0 key => if thas (s.core ck).l1 (pa / 128) || (s.core ck).lineRoom != 0 then .phys pa 0 key else .phys pa 1 key
  | p => p

/-- The state in which an atomic of narrow scope finds its line: no core keeps an older copy, unless the team has it pinned
(R219, R222). -/
def State.narrowBase (s : State) (team line : Nat) : State :=
  if (tfind s.pins line).any (fun p => p.team == team) then s else s.evictEverywhere line

/-- The lanes that an atomic's target takes with lane `l`. -/
def Op.group (o : Op) (l : Nat) : List Nat := (lanes o.todo).filter fun k => o.ready k && sameTarget (o.seg k) (o.seg l)

/-- Data, or compare value, of a lane of an atomic. -/
def Op.operand (o : Op) (width : Width) (k off : Nat) : Nat :=
  leNat ((bytesOf ((tget o.data k []).drop off)).take width.bytes)

/-- The registers that a load writes, and the residency predicate of LD.NF. -/
def loadDest : Instr → Option (Width × Bool × Nat × Option Nat)
  | .ld _ _ sign width d _ => some (width, sign, d, none)
  | .ldNf _ _ sign width d pf _ => some (width, sign, d, some pf)
  | _ => none

/-! ## Forms that are complete when they have issued -/

/-- What an issue does to its wave when the form is complete at once: its counter falls in the next cycle (R60). -/
structure MovesNow (c : Ctx) (w' : Wave) : Prop where
  path : w'.slot c.slot = some (c.p.advance.issued c.h.stall)
  other : w'.slot (1 - c.slot) = c.w.slot (1 - c.slot)
  ctr : ∀ k, w'.ctr k = if k = c.h.ctr ∧ k < 6 then c.w.ctr k + 1 else c.w.ctr k
  due : w'.due = if c.h.ctr < 6 then c.w.due ++ [(c.h.ctr, c.s.now + 1)] else c.w.due
  span : c.i.endsSpan = false → w'.span = { c.w.span with ender := none } ∧ w'.barDone = c.w.barDone

/-- The counters and the path of a wave after an issue that posts or completes an operation, whatever else it does. -/
structure GoesOn (c : Ctx) (t : State) (w' : Wave) : Prop where
  wave : t.wave c.wk = some w'
  ctr : ∀ k, w'.ctr k = if k = c.h.ctr ∧ k < 6 then c.w.ctr k + 1 else c.w.ctr k
  other : w'.slot (1 - c.slot) = c.w.slot (1 - c.slot)
  waves : ∀ k, k ≠ c.wk → t.wave k = c.s.wave k

/-- The path waits on the pending operation `id`. -/
def Ctx.waitsOn (c : Ctx) (w' : Wave) (id : Nat) : Prop :=
  w'.slot c.slot = some { c.p.issued c.h.stall with wait := .op id }

/-! ## Engine commands -/

/-- What a command captures at issue: its tensors, the words that follow its tag, and the ranges that it reads and
writes. -/
structure Plan where
  tens : List Tensor := []
  words : List DWord := []
  src : List Span := []
  dest : List Span := []
  /-- codes of alignment and of places that the form itself excludes -/
  extra : List (DWord × Nat) := []
  /-- the rows of Table 11-2 above translation are checked at issue (R258); the form itself checks its place else -/
  checked : Bool := true

/-- The tensor of an identifier in the wave's address space, as the wave's die holds it (R238, R241). -/
def Ctx.tensor (c : Ctx) (t : Nat) : Option Tensor := tfind c.s.tensors (2 ^ 24 * c.w.die + tensorKey c.hdr.asid t)

/-- A plan that is made only under a condition. -/
def planIf (p : Prop) [Decidable p] (x : Plan) : Option Plan := if p then some x else none

/-- The rows of A and of its scales that a matrix product reads (R269). -/
def productReads (c : Ctx) (t : Tensor) (k : Nat) (scaled : Bool) : List Span :=
  (rowsOf c.x).flatMap fun r => (t.row r 0, t.rowBytes) :: (if scaled then [(t.scaleAt (r * ceil128 k), 4 * ceil128 k)] else [])

/-- The slot's tag is one of those that the product takes. -/
def Ctx.slotOk (c : Ctx) (slot : Nat) (tags : List Nat) : Option Nat := if c.slotTag slot ∈ tags then none else some 2

/-- The plan of a matrix product with the tile held (Table 18-3, R268, R269). -/
def productPlan (c : Ctx) (acc ts fmt k sgran : Nat) (slotCause : Option Nat) (word : DWord) : Option Plan :=
  (c.tensor ts).bind fun t => planIf (c.holds acc = true ∧ c.matrixBad t fmt k sgran slotCause = none)
    { tens := [t], words := [word], src := productReads c t k (sgran != 0) }

/-- The plan of MLD and MST: the rows of R at an address of the team's own scratchpad (R270). -/
def movePlan (c : Ctx) (acc a : Nat) (off : BitVec 16) (load : Bool) : Option Plan :=
  let x := c.sOff a off
  let rows := (rowsOf c.x).map fun r => (x + BitVec.ofNat 64 (512 * r), 512)
  (c.ownOff x).bind fun o => planIf (c.holds acc = true ∧ x.toNat % 128 = 0 ∧
      ∀ l ∈ lanes c.x, o + 2048 * (l + 1) ≤ c.scrSize)
    { words := [x], src := if load then rows else [], dest := if load then [] else rows, checked := false }

/-- The plan of each command of R257 whose conditions hold, those of Table 11-2 apart (R258, R267-R274). -/
def commandPlan (c : Ctx) : Instr → Option Plan
  | .cpy _ _ td ts => (c.tensor td).bind fun d => (c.tensor ts).bind fun t =>
      let both := copiesScales d t
      planIf (d.ndim = t.ndim ∧ d.dims = t.dims ∧ cpyPair d t = true)
        { tens := [d, t], src := t.spans ++ (if both then [t.scales] else []), dest := d.spans ++ (if both then [d.scales] else []) }
  | .cpyr _ _ td ts a => (c.tensor td).bind fun d => (c.tensor ts).bind fun t =>
      let x := (c.rdS a).val
      planIf (d.fmt = t.fmt ∧ d.ndim = t.ndim ∧ 2 ≤ d.ndim ∧ d.dim 0 = t.dim 0 ∧ d.dim 2 = t.dim 2 ∧
          d.dim 3 = t.dim 3 ∧ d.dim 4 = t.dim 4)
        { tens := [d, t], words := [x], src := (x, 4 * d.dim 1) :: t.spans, dest := d.spans
          extra := if x.toNat % 4 = 0 then [] else [(x, fMisaligned)] }
  | .qnt _ _ td ts => (c.tensor td).bind fun d => (c.tensor ts).bind fun t =>
      planIf ((t.fmt = 0 ∨ t.fmt = 1 ∨ t.fmt = 2) ∧ d.fmt = 3 ∧ d.sgran ≠ 0 ∧ d.ndim = t.ndim ∧ d.dims = t.dims ∧
          t.dims.prod * t.e ≤ 65536)
        { tens := [d, t], src := t.spans, dest := d.spans ++ [d.scales] }
  | .weirget _ _ a ts r => (c.tensor ts).bind fun t =>
      let x := (c.rdS a).val
      let f := (c.rdS r).val.toNat % 2 ^ 32
      let n := (c.rdS r).val.toNat / 2 ^ 32 % 2 ^ 16
      planIf ((c.rdS a).pois = false ∧ (c.rdS r).pois = false ∧ t.filt = true ∧ 1 ≤ n ∧ n ≤ 4096 ∧ f + n ≤ t.dim 1)
        { tens := [t], words := [x, (c.rdS r).val], src := (List.range n).map fun i => (t.row (f + i) 0, t.rowBytes)
          dest := [(x, 2112 * n)], extra := if x.toNat % 64 = 0 then [] else [(x, fMisaligned)] }
  | .mma _ _ acc ts slot =>
      if c.slotTag slot = 2 then productPlan c acc ts 3 256 1 (c.slotOk slot [1, 2]) 2
      else productPlan c acc ts 3 128 1 (c.slotOk slot [1, 2]) 1
  | .mmah _ _ bf acc ts slot => productPlan c acc ts (if bf then 2 else 1) 128 0
      (if slot % 2 = 1 then some 3 else if c.slotTag slot = 3 ∧ c.slotTag (slot + 1) = 3 then none else some 2) 1
  | .mmai _ _ acc ts slot => productPlan c acc ts 6 128 0 (c.slotOk slot [4]) 1
  | .mzero _ _ acc => planIf (c.holds acc = true) {}
  | .mld _ _ acc a off => movePlan c acc a off true
  | .mst _ _ acc a off => movePlan c acc a off false
  | .wbld _ _ layout slot a off =>
      let x := c.sOff a off
      planIf (¬ (layout = .h16 ∧ slot % 2 = 1))
        { words := [x], src := [(x, imageBytes layout)]
          extra := (if x.toNat % 64 = 0 then [] else [(x, fMisaligned)]) ++ imageCodes (x, imageBytes layout) }
  | _ => none

/-- No row of Table 11-2 above translation stops a plan. -/
def Plan.clear (c : Ctx) (p : Plan) : Prop :=
  p.checked = true → p.extra = [] ∧ c.engCodes .engineLoad p.src = [] ∧ c.engCodes .engineStore p.dest = []

/-- A command has been posted under the next number with what it captured, and the path has gone on; no register and no
byte of memory changes (R257), and the model notes the places of the command (R226, R284). Only QNT and WBLD change their core
besides (R247, R267). -/
structure PostsCommand (c : Ctx) (t : State) (w' : Wave) (o : Op) (p : Plan) : Prop where
  wave : t.wave c.wk = some w'
  moves : Moves c w'
  regs : w'.regs = c.w.regs
  all : t = { c.s with
    waves := t.waves, ops := t.ops, opSeq := t.opSeq, cores := t.cores, stamp := t.stamp, cmdLog := t.cmdLog, seqHeld := t.seqHeld }
  waves : ∀ k, k ≠ c.wk → t.wave k = c.s.wave k
  cores : ∀ k, k ≠ c.ck → t.core k = c.s.core k
  core : (∀ h e d s, c.i ≠ .qnt h e d s) → (∀ h e l n a f, c.i ≠ .wbld h e l n a f) → t.cores = c.s.cores
  op : t.op c.s.opSeq = some o
  seq : t.opSeq = c.s.opSeq + 1
  others : ∀ k, k ≠ c.s.opSeq → t.op k = c.s.op k
  fields : o.wave = c.wk ∧ o.instr = c.i ∧ o.ctr = c.h.ctr ∧ o.pc = c.p.pc ∧ o.mask = c.x ∧ o.finished = false
  tens : o.tens = p.tens
  words : o.u = [0, (match evOf c.i with | some n => (c.rdS n).val | none => 0)] ++ p.words
  dest : o.dest = p.dest.flatMap fun r => c.s.engSegs c.w (lowest c.x) r
  src : o.src = p.src.flatMap fun r => c.s.engSegs c.w (lowest c.x) r

/-- The identifiers that a command names. -/
def namedIds : Instr → List Nat
  | .cpy _ _ td ts | .cpyr _ _ td ts _ | .qnt _ _ td ts => [td, ts]
  | .weirget _ _ _ ts _ | .mma _ _ _ ts _ | .mmah _ _ _ _ ts _ | .mmai _ _ _ ts _ => [ts]
  | _ => []

/-- No record of a command of the team waits for room in its event queue (R252). -/
def State.noRecords (s : State) (tk : Nat) : Prop :=
  ∀ x ∈ s.ops, x.2.wave / 32 = tk → ¬ (x.2.isCmd = true ∧ x.2.finished = true)

/-- The place in a slot of byte `k` of a weight image (R245, R267): the second half of an H16 image in the next slot, the
scales from offset 0x5000 on. -/
def imagePlace (layout : WLayout) (slot k : Nat) : Nat × Nat :=
  match layout with
  | .e4m3 => (slot, if k < 0x4000 then k else k + 0x1000)
  | .sp | .i8 => (slot, k)
  | .h16 => if k < 0x4000 then (slot, k) else (slot + 1, k - 0x4000)

/-- The value that a matrix product leaves in a cell that held `old` (R136, R137, R269): `a` the row of A, `sa` its scales,
`b` the column of the slot's tile, `sb` its scales. -/
def productCell (i : Instr) (old : Nat) (a sa b sb : List Nat) : Word :=
  match i with
  | .mmai .. =>
      let sg (x : Nat) : Int := (BitVec.ofNat 8 x).toInt
      BitVec.ofInt 32 (old + ((a.zip b).map fun x => sg x.1 * sg x.2).sum)
  | .mmah _ _ bf _ _ _ => BitVec.ofNat 32 (mmahElem (if bf then bf16 else fp16) old a b)
  | _ => BitVec.ofNat 32 (mmaElem old a b sa sb)

/-- The accumulator tile, slot and tensor of a matrix product. -/
def productForm : Instr → Option (Nat × Nat)
  | .mma _ _ acc _ slot | .mmah _ _ _ acc _ slot | .mmai _ _ acc _ slot => some (acc, slot)
  | _ => none

/-- What TQRY reads of a defined identifier (R263). -/
def tensorFields (t : Tensor) : List DWord :=
  [t.base, t.sbase, BitVec.ofNat 64 (t.fmt * 2 ^ 28 + t.ndim * 2 ^ 25 + t.sgran * 2 ^ 23 + (if t.filt then 2 ^ 22 else 0)),
    BitVec.ofNat 64 (t.dim 0), BitVec.ofNat 64 (t.dim 1), BitVec.ofNat 64 (t.dim 2), BitVec.ofNat 64 (t.dim 3),
    BitVec.ofNat 64 (t.dim 4), BitVec.ofNat 64 (t.stride 1), BitVec.ofNat 64 (t.stride 2), BitVec.ofNat 64 (t.stride 3),
    BitVec.ofNat 64 (t.stride 4), 1]

/-- A path that waited on the operation `id` in slot `k` of a wave goes on past its instruction. -/
def PathReleased (w w' : Wave) (id k : Nat) : Prop :=
  ∀ p, w.slot k = some p → p.wait = .op id →
    w'.slot k = some { ({ p with wait := .none } : Path).advance with hold := p.hold }

/-- Operation `id` of wave `w` is complete: it is gone, its counter has fallen, its path goes on, and no other operation
and no other wave changes. -/
structure Completed (s t : State) (id : Nat) (o : Op) (w w' : Wave) : Prop where
  wave : t.wave o.wave = some w'
  op : t.op id = none
  ctr : ∀ k, w'.ctr k = if k = o.ctr ∧ k < 6 then w.ctr k - 1 else w.ctr k
  path : PathReleased w w' id o.slot
  ops : ∀ k, k ≠ id → t.op k = s.op k
  waves : ∀ k, k ≠ o.wave → t.wave k = s.wave k

/-- The pending operation `id`, of wave `w`: it has no results that were known at issue, and no checkpoint is to receive
any (R89). -/
structure Pending (s : State) (id : Nat) (o : Op) (w : Wave) : Prop where
  op : s.op id = some o
  wave : s.wave o.wave = some w
  writes : o.writes = []
  ckpt : ∀ k, w.span.ckpt = some k → k.opsBefore ≤ id
  first : s.behind id o = false

/-- A wave of no region without a pending fault takes the fault `code` with its extra word at an instruction (R395). -/
def TakesFault (t : State) (wk code : Nat) (pc extra : DWord) : Prop :=
  ∃ w f, t.wave wk = some w ∧ w.trap.pend = some f ∧ f.code = code ∧ f.pc = pc ∧ f.extra = extra

/-- Operation `id` of wave `w` has ended without a path that waited on it: it is gone, its counter has fallen, and no other
operation and no other wave changes. -/
structure Ended (s t : State) (id : Nat) (o : Op) (w w' : Wave) : Prop where
  wave : t.wave o.wave = some w'
  op : t.op id = none
  ctr : ∀ k, w'.ctr k = if k = o.ctr ∧ k < 6 then w.ctr k - 1 else w.ctr k
  ops : ∀ k, k ≠ id → t.op k = s.op k
  waves : ∀ k, k ≠ o.wave → t.wave k = s.wave k

/-- The pending operation `id` of wave `w`, whatever results it will write. -/
structure Standing (s : State) (id : Nat) (o : Op) (w : Wave) : Prop where
  op : s.op id = some o
  wave : s.wave o.wave = some w
  ckpt : ∀ k, w.span.ckpt = some k → k.opsBefore ≤ id
  first : s.behind id o = false

/-- A form has been issued and gone on with its operation `o` pending under the next number; its wave's registers are as they
were. -/
structure Pends (c : Ctx) (t : State) (w' : Wave) (o : Op) : Prop where
  on : GoesOn c t w'
  path : w'.slot c.slot = some (c.p.advance.issued c.h.stall)
  op : t.op c.s.opSeq = some o
  seq : t.opSeq = c.s.opSeq + 1
  fields : o.wave = c.wk ∧ o.instr = c.i ∧ o.ctr = c.h.ctr ∧ o.mask = c.x ∧ o.pc = c.p.pc
  mem : t.mem = c.s.mem

/-- Every register but the named handle registers, and the predicate `k` in some lanes, holds what it held. -/
structure KeptBut (g g' : Regs) (hs : Nat → Prop) (dp : Nat → Nat → Prop) : Prop where
  v : ∀ n l, l < 32 → g'.vAt n l = g.vAt n l ∧ g'.vBad n l = g.vBad n l
  s : ∀ n, g'.sAt n = g.sAt n ∧ g'.sBad n = g.sBad n
  p : ∀ k l, l < 32 → ¬ dp k l → g'.pAt k l = g.pAt k l ∧ g'.pBad k l = g.pBad k l
  h : ∀ n, ¬ hs n → g'.hAt n = g.hAt n

/-- Table 25-1: what GQ reads of a launch's Gauge unit `g` under its block `e`. -/
def gaugeFields (g : GaugeUnit) (e : EstBlock) : List DWord :=
  [BitVec.ofNat 64 g.c, g.mean, g.m2,
    (if g.c < 2 then BitVec.ofNat 64 fp64.nan
      else BitVec.ofNat 64 (fp64.div g.m2.toNat (fp64.roundFrac .rn false (Frac.ofInt (g.c - 1))))),
    g.hw.getD (BitVec.ofNat 64 fp64.nan), BitVec.ofNat 64 g.low, BitVec.ofNat 64 (g.st * 2 ^ 32 + g.nstop), e.tol, e.tolrel, e.z]

/-- The status of a rank is known: it lies at or beyond the stop, or it is closed (R332, R357). -/
def GaugeUnit.known (g : GaugeUnit) (r : Nat) : Prop := (g.st = 1 ∧ g.nstop ≤ r) ∨ r ∈ g.merged ∨ r < g.low ∨ r ∈ g.closed

/-- The status of a known rank: its sample has been merged, and it lies before the stop. -/
def GaugeUnit.took (g : GaugeUnit) (r : Nat) : Prop := r ∈ g.merged ∧ ¬ (g.st = 1 ∧ g.nstop ≤ r)


end Sys2Proof.Machine
end

