-- ==== Sys2Proof/Certificates/Slice0/Obligations.lean ====
section
/-! DEFINITION. The statements for the provers. -/

open Sys2Proof Sys2Proof.Machine

/-! ## Registers: lane-wise results -/

/-- The integer forms of 32 bits and a fixed latency: two sources, then one and three (R96, R97, R101, R102, R105, Table 7-1). -/
def Obligations.IntegerFixedLatency : Prop :=
  Completes (fun i => (int2 i).map fun x => (x.1, [x.2.1, x.2.2.1], fun v => x.2.2.2 (nth v 0) (nth v 1))) ∧ Completes int13

/-- IADD64 and LEA (R98, R101): the sum modulo 2^64, LEA's index extended by TYPE and shifted. -/
def Obligations.IntegerWide : Prop :=
  (∀ (h : Ctl) (d : Dst) (a b : Src) (V ver : Nat), (Instr.iadd64 h d a b).wf V ver = true →
    CompletesWith (.iadd64 h d a b) fun c g g' =>
      LaneResult64 c g g' d (fun l => [c.rd64 a l, c.rd64 b l])
        (fun l => BitVec.ofNat 64 ((c.rd64 a l).val.toNat + (c.rd64 b l).val.toNat))) ∧
  (∀ (h : Ctl) (ty : Ty) (sh : Nat) (d : Dst) (a b : Src) (V ver : Nat), (Instr.lea h ty sh d a b).wf V ver = true →
    CompletesWith (.lea h ty sh d a b) fun c g g' =>
      LaneResult64 c g g' d (fun l => [c.rd64 a l, c.rd b l])
        (fun l => BitVec.ofInt 64 ((c.rd64 a l).val.toNat + ty.int (c.rd b l).word * 2 ^ sh)))

/-- ISETP, FSETP and HSETP2 (R103, R146, R152): HSETP2's NaN sentence is in the functions `Half.allOf` and `FCmp.fails` of the model, so
this rests on the rules and quotes none. -/
def Obligations.Compares : Prop :=
  ∀ (i : Instr) (pd pe : Nat) (a b : Src) (yes no : Word → Word → Bool), compareForm i = some (pd, pe, a, b, yes, no) →
    CompletesWith i fun c g g' =>
      CompareResult c g g' pd pe (fun l => [c.rd a l, c.rd b l]) (fun l => yes (c.rd a l).word (c.rd b l).word)
        (fun l => no (c.rd a l).word (c.rd b l).word)

/-- SEL, MOV and MOVI (R104): SEL takes A where the predicate is true; a copy to a uniform register from a uniform or a
system register moves all 64 bits, by MOV and by MOVI of the register class; MOVI.HI replaces bits 63-32. Two clauses are the model's
choice: SEL to a uniform register takes the predicate of its lowest executing lane (log entry 23, DESIGN CHOICE), and MOVI.HI
carries no poison of sD (log entry 9, DEDUCED). -/
def Obligations.SelectAndMove : Prop :=
  (∀ (h : Ctl) (d : Dst) (a b : Src) (q : PSrc) (V ver : Nat), (Instr.sel h d a b q).wf V ver = true →
    CompletesWith (.sel h d a b q) fun c g g' =>
      LaneResult c g g' d (fun l => [c.rd a l, c.rd b l, c.rdPS q l])
        (fun l => if (c.rdPS q l).val = 1 then (c.rd a l).word else (c.rd b l).word)) ∧
  (∀ (h : Ctl) (n : Nat) (a : Src),
    CompletesWith (.mov h (.v n) a) (fun c g g' => LanesOf c g g' n (fun l => [c.rd a l]) (fun l => (c.rd a l).word)) ∧
    CompletesWith (.movi h false (.v n) a)
      (fun c g g' => LanesOf c g g' n (fun l => [c.rd a l]) (fun l => (c.rd a l).word))) ∧
  (∀ (h : Ctl) (n m : Nat), n < 64 →
    CompletesWith (.mov h (.s n) (.s m)) (fun c g g' => UniformOf c g g' n [c.rdS m] (c.rdS m).val) ∧
    CompletesWith (.movi h false (.s n) (.s m)) (fun c g g' => UniformOf c g g' n [c.rdS m] (c.rdS m).val) ∧
    CompletesWith (.mov h (.s n) (.sys m))
      (fun c g g' => UniformOf c g g' n [] (c.sys m (lowest c.x))) ∧
    CompletesWith (.movi h false (.s n) (.sys m))
      (fun c g g' => UniformOf c g g' n [] (c.sys m (lowest c.x)))) ∧
  (∀ (h : Ctl) (n : Nat) (x : Word), n < 64 →
    CompletesWith (.movi h false (.s n) (.imm x)) (fun c g g' => UniformOf c g g' n [] (x.setWidth 64)) ∧
    CompletesWith (.movi h true (.s n) (.imm x))
      (fun c g g' => UniformOf c g g' n [] (BitVec.ofNat 64 (x.toNat * 2 ^ 32 + (c.w.regs.sAt n).toNat % 2 ^ 32))))

/-- The FP32 forms of a fixed latency, over the operations of correct rounding (R140-R148, R153, Table 9-1), and the
paired-half forms, of which a half that HALF leaves out keeps A's half (R151). -/
def Obligations.FloatFixedLatency : Prop := Completes float13 ∧ Completes half23

/-- IDIV and the functions of Table 9-4 (R61, R106, R149): the issue posts the result. -/
def Obligations.VariableLatencyIssue : Prop := CompletesLater slow12

/-- VARIABLE_RESULT_COMPLETION (R60, R61, R89) of an operation that is not behind an earlier one of its form without a counter: the
posted results are written, the counter falls and the operation is gone. A
result issued before the head of the wave's span is written into the checkpoint too; otherwise nothing else
changes: no other operation, no other wave, no byte of memory. -/
def Obligations.VariableLatencyCompletion : Prop :=
  ∀ (s : State) (id : Nat) (o : Op) (w : Wave) (slow : Bool),
    s.op id = some o → s.wave o.wave = some w → o.finished = true → o.isMem = false → o.isCmd = false →
    o.owed = false → s.behind id o = false →
    ((∀ k, w.span.ckpt = some k → k.opsBefore ≤ id) →
      ∃ t w', exec (.variableResultCompletion id slow) s = .next t ∧ t.wave o.wave = some w' ∧
        w'.regs = o.written w.regs ∧ w'.span = w.span ∧
        (∀ k, w'.ctr k = if k = o.ctr ∧ k < 6 then w.ctr k - 1 else w.ctr k) ∧
        t.op id = none ∧ (∀ k, k ≠ id → t.op k = s.op k) ∧ (∀ k, k ≠ o.wave → t.wave k = s.wave k) ∧
        ∀ a, memGet t.mem a = memGet s.mem a) ∧
    (∀ k, w.span.ckpt = some k → id < k.opsBefore → o.writes ≠ [] →
      ∃ t w' k', exec (.variableResultCompletion id slow) s = .next t ∧ t.wave o.wave = some w' ∧
        w'.regs = o.written w.regs ∧ w'.span.ckpt = some k' ∧ k'.regs = o.written k.regs)

/-- The predicate forms (R107, Table 7-2): PLOP's table of three predicates, PSET's bit of a uniform, P2V's byte, and V2P's
predicates, those of a poisoned mask included. -/
def Obligations.PredicateForms : Prop :=
  (∀ (h : Ctl) (lut : BitVec 8) (pd : Nat) (a b q : PSrc),
    CompletesWith (.plop h lut pd a b q) fun c g g' =>
      PredOf c g g' pd (fun l => [c.rdPS a l, c.rdPS b l, c.rdPS q l]) (fun l =>
        lut.getLsbD ((if (c.rdPS a l).val = 1 then 1 else 0) + (if (c.rdPS b l).val = 1 then 2 else 0)
          + (if (c.rdPS q l).val = 1 then 4 else 0)))) ∧
  (∀ (h : Ctl) (pd : Nat) (x : Src),
    CompletesWith (.pset h pd x) fun c g g' =>
      PredOf c g g' pd (fun l => [c.rd x l]) (fun l => (c.rd x l).word.getLsbD l)) ∧
  (∀ (h : Ctl) (n : Nat),
    CompletesWith (.p2v h n) fun c g g' =>
      LanesOf c g g' n (fun l => (List.range 8).map fun k => c.rdP k l)
        (fun l => BitVec.ofNat 32 (128 + ((List.range 7).map fun k => (c.rdP k l).val.toNat * 2 ^ k).sum))) ∧
  (∀ (h : Ctl) (a m : Src),
    CompletesWith (.v2p h a m) fun c g g' =>
      let q := c.rd m (lowest c.x)
      let named (k : Nat) : Prop := k < 7 ∧ (q.pois = true ∨ q.val.getLsbD k = true)
      (∀ k l, named k → l < 32 → c.x.getLsbD l = true →
        ReceivesP (g'.pAt k l) (g'.pBad k l) [c.rd a l, q, c.guard l] ((c.rd a l).word.getLsbD k)) ∧
      Kept g g' (fun _ _ => False) (fun _ => False) (fun k l => named k ∧ c.x.getLsbD l = true))

/-- ELECT, VOTE, SHFL and FEAT (R117-R119, R121, R441). Where a SHFL takes poison of its source lane and of its own, that the origin
of a comes first is the model's choice (log entry 9, DESIGN CHOICE). -/
def Obligations.WaveForms : Prop :=
  (∀ (h : Ctl) (n : Nat), n < 64 → CompletesWith (.elect h (.s n)) fun c g g' =>
    UniformOf c g g' n [] (BitVec.ofNat 64 (lowest c.x))) ∧
  (∀ (h : Ctl) (k : Nat), CompletesWith (.elect h (.p k)) fun c g g' =>
    PredOf c g g' k (fun _ => []) (fun l => l == lowest c.x)) ∧
  (∀ (h : Ctl) (k : Nat) (a : PSrc), CompletesWith (.vote h .all (.p k) a) fun c g g' =>
    PredOf c g g' k (fun _ => (lanes c.x).map fun j => c.rdPS a j)
      (fun _ => (lanes c.x).all fun j => (c.rdPS a j).val = 1)) ∧
  (∀ (h : Ctl) (k : Nat) (a : PSrc), CompletesWith (.vote h .any (.p k) a) fun c g g' =>
    PredOf c g g' k (fun _ => (lanes c.x).map fun j => c.rdPS a j)
      (fun _ => (lanes c.x).any fun j => (c.rdPS a j).val = 1)) ∧
  (∀ (h : Ctl) (n : Nat) (a : PSrc), n < 64 → CompletesWith (.vote h .ballot (.s n) a) fun c g g' =>
    UniformOf c g g' n ((lanes c.x).map fun j => c.rdPS a j)
      ((maskOf fun j => c.x.getLsbD j && (c.rdPS a j).val = 1).setWidth 64)) ∧
  (∀ (h : Ctl) (mode : SMode) (n : Nat) (a b : Src), CompletesWith (.shfl h mode n a b) fun c g g' =>
    let from_ (l : Nat) : Nat :=
      let k := (c.rd b l).val.toNat
      let j : Int := match mode with
        | .idx => (k % 32 : Nat) | .up => (l : Int) - k | .down => (l : Int) + k | .xor => (l ^^^ (k % 32) : Nat)
      if 0 ≤ j ∧ j < 32 ∧ c.x.getLsbD j.toNat = true then j.toNat else l
    LanesOf c g g' n (fun l => [c.rd a (from_ l), c.rd b l]) (fun l => (c.rd a (from_ l)).word)) ∧
  (∀ (h : Ctl) (d : Dst) (a : Src) (V ver : Nat), (Instr.feat h d a).wf V ver = true →
    CompletesWith (.feat h d a) fun c g g' =>
      LaneResult c g g' d (fun l => [c.rd a l]) (fun l => featureValue (c.rd a l).val.toNat))

/-! ## Control and wave forms -/

/-- NOP, YIELD and IPREF complete and change no register, and IPREF asks for lines where a lane executes; WAITC completes when its counters are zero, and SLEEP holds its
path for its count (R44, R120, R121). -/
def Obligations.WaitsAndHints : Prop :=
  (∀ h, CompletesPlain (.nop h)) ∧
  (∀ h, CompletesPlain (.yield h)) ∧
  (∀ (h : Ctl) (target : Word) (lines : Nat) (s : State) (c : Ctx), Issues s (.ipref h target lines) c →
    ∃ t w', exec (.ipref h target lines) s = .next t ∧ t.wave c.wk = some w' ∧ Moves c w' ∧ KeptAll c.w.regs w'.regs ∧
      t = { c.s with waves := t.waves, ifetch := t.ifetch } ∧ (∀ k, k ≠ c.wk → t.wave k = c.s.wave k) ∧
      t.ifetch = if c.any = true then c.s.ifetch ++ (c.iprefBlocks target lines).eraseDups else c.s.ifetch) ∧
  (∀ (h : Ctl) (mask : Nat) (s : State) (c : Ctx), Issues s (.waitc h mask) c →
    (c.w.waitOk mask = true → (∀ z ∈ c.w.haz, z.clobbered = false) →
      ∃ t w', exec (.waitc h mask) s = .next t ∧ Done c t w' ∧ KeptAll c.w.regs w'.regs ∧
        ∀ z ∈ w'.haz, ∀ k ∈ z.ctrs, mask.testBit k = false) ∧
    (c.w.waitOk mask = false → ∃ t r, exec (.waitc h mask) s = .next t ∧ t = c.s.block r)) ∧
  (∀ (h : Ctl) (n : Src) (s : State) (c : Ctx), Issues s (.sleep h n) c →
    ∃ t w', exec (.sleep h n) s = .next t ∧ t.wave c.wk = some w' ∧ Elsewhere c.s t c.wk ∧ WaveRest c.w w' ∧
      w'.regs = c.w.regs ∧ w'.slot (1 - c.slot) = c.w.slot (1 - c.slot) ∧
      w'.slot c.slot = some (if c.any = true
        then { c.p.advance.issued c.h.stall with wait := .sleep (c.rd n (lowest c.x)).val.toNat }
        else c.p.advance.issued c.h.stall))

/-- The target of BRA, CALL and RET: an address in the code region of the instruction, or all of sA (R108, R109). -/
def branchTarget (c : Ctx) : Instr → Option DWord
  | .bra _ target => some (BitVec.ofNat 64 (c.p.pc.toNat / 2 ^ 32 * 2 ^ 32 + target.toNat))
  | .call _ _ target => some (BitVec.ofNat 64 (c.p.pc.toNat / 2 ^ 32 * 2 ^ 32 + target.toNat))
  | .ret _ a => some (c.rdS a).val
  | _ => none

/-- The register that CALL writes: the address after it (R109). -/
def linkResult (c : Ctx) (g g' : Regs) : Instr → Prop
  | .call _ d _ => UniformOf c g g' d [] (nextPc c.p.pc)
  | _ => KeptAll g g'

/-- BRA, CALL and RET outside a relaxation body, at a target that the line admits: with every active lane they move the
path; with none they go on; otherwise they diverge, one level deeper, the taken lanes on a new path in the
other slot (R25, R27, R108, R109). A target that the line does not admit is a fault (R54), and one that cannot be read yet, because a table of its translation lies in a
line that a team has pinned, blocks the issue (R222, log entry 15). -/
def Obligations.Branches : Prop :=
  ∀ (s : State) (c : Ctx) (i : Instr) (target : DWord) (V ver : Nat), branchTarget c i = some target →
    i.wf V ver = true → Issues s i c → c.w.region = none →
    (c.any = false → ∃ t w', exec i s = .next t ∧ Done c t w' ∧ KeptAll c.w.regs w'.regs) ∧
    (c.any = true → ∀ code x, c.s.targetBad c.w c.p.pc target = some (code, x) →
      exec i s = .next (if code = fRetry then c.s.block 1 else c.fault code 0 0 x)) ∧
    (c.any = true → c.s.targetBad c.w c.p.pc target = none →
      (c.x = c.p.mask → ∃ t w', exec i s = .next t ∧ Transfers c t w' ∧ linkResult c c.w.regs w'.regs i ∧
        w'.slot c.slot = some (c.heldAt c.p target) ∧ w'.slot (1 - c.slot) = c.w.slot (1 - c.slot)) ∧
      (c.x ≠ c.p.mask → c.w.slot (1 - c.slot) = none → c.p.depth < 63 →
        ∃ t w' p q, exec i s = .next t ∧ Transfers c t w' ∧ linkResult c c.w.regs w'.regs i ∧
          w'.slot c.slot = some p ∧ p.pc = nextPc c.p.pc ∧ p.mask = c.p.mask &&& ~~~c.x ∧ p.depth = c.p.depth + 1 ∧
          p.res = true ∧
          w'.slot (1 - c.slot) = some q ∧ q.pc = target ∧ q.mask = c.x ∧ q.depth = c.p.depth + 1 ∧ q.res = false ∧
          p.hold = some (max 1 c.h.stall) ∧ q.hold = some (max 1 c.h.stall)) ∧
      (c.x ≠ c.p.mask → 63 ≤ c.p.depth →
        ∃ e, exec i s = .next (c.fault fDivergeDepth 0 0 e)))

/-- BRX outside a relaxation body (R26, R108): the lanes whose target is that of the lowest active lane go on there; the
others, if any, are a new path at the BRX. A lane that does not execute has the next instruction as its target. -/
def Obligations.IndexedBranch : Prop :=
  ∀ (h : Ctl) (a : Src) (s : State) (c : Ctx), Issues s (.brx h a) c → c.w.region = none → c.any = true →
    let target (l : Nat) : DWord :=
      if c.x.getLsbD l then BitVec.ofNat 64 (c.p.pc.toNat / 2 ^ 32 * 2 ^ 32 + (c.rd a l).word.toNat) else nextPc c.p.pc
    let first := target (lowest c.p.mask)
    let g := maskOf fun l => c.p.mask.getLsbD l && target l == first
    (∀ l, l < 32 → c.x.getLsbD l = true → c.s.targetBad c.w c.p.pc (target l) = none) →
    (g = c.p.mask → ∃ t w', exec (.brx h a) s = .next t ∧ Transfers c t w' ∧ w'.regs = c.w.regs ∧
      w'.slot c.slot = some (c.heldAt c.p first) ∧ w'.slot (1 - c.slot) = c.w.slot (1 - c.slot)) ∧
    (g ≠ c.p.mask → c.w.slot (1 - c.slot) = none → c.p.depth < 63 →
      ∃ t w' p q, exec (.brx h a) s = .next t ∧ Transfers c t w' ∧ w'.regs = c.w.regs ∧
        w'.slot c.slot = some p ∧ p.pc = first ∧ p.mask = g ∧ p.depth = c.p.depth + 1 ∧ p.res = true ∧
        w'.slot (1 - c.slot) = some q ∧ q.pc = c.p.pc ∧ q.mask = c.p.mask &&& ~~~g ∧ q.depth = c.p.depth + 1 ∧
        q.res = false)

/-- JOIN (R29, R110): at depth 0 it goes on; beside a sibling that does not wait it waits; beside one that waits the two
merge at the instruction after the JOIN of the path that carries the resident flag. -/
def Obligations.Join : Prop :=
  ∀ (h : Ctl) (s : State) (c : Ctx), Issues s (.join h) c →
    (c.p.depth = 0 → ∃ t w', exec (.join h) s = .next t ∧ Done c t w' ∧ KeptAll c.w.regs w'.regs) ∧
    (∀ o, 0 < c.p.depth → c.w.slot (1 - c.slot) = some o → o.jw = false →
      ∃ t w', exec (.join h) s = .next t ∧ Transfers c t w' ∧ w'.regs = c.w.regs ∧
        w'.slot c.slot = some { c.p.issued c.h.stall with jw := true, rep := none } ∧ w'.slot (1 - c.slot) = some o) ∧
    (∀ o, 0 < c.p.depth → c.w.slot (1 - c.slot) = some o → o.jw = true → c.w.stack = [] →
      ∃ t w' p, exec (.join h) s = .next t ∧ Transfers c t w' ∧ w'.regs = c.w.regs ∧
        w'.slot0 = some p ∧ w'.slot1 = none ∧ p.mask = c.p.mask ||| o.mask ∧ p.depth = c.p.depth - 1 ∧ p.jw = false ∧
        p.pc = nextPc (if c.p.res then c.p.pc else o.pc))

/-- EXIT (R32, R111): with no executing lane it goes on; the executing lanes retire, and a path with lanes left goes on with
them; a path of depth 0 without lanes left ends, and the other slot keeps its path. -/
def Obligations.Exit : Prop :=
  ∀ (h : Ctl) (s : State) (c : Ctx), Issues s (.exit h) c →
    (c.any = false → ∃ t w', exec (.exit h) s = .next t ∧ Done c t w' ∧ KeptAll c.w.regs w'.regs) ∧
    (c.any = true → c.x ≠ c.p.mask →
      ∃ t w' p, exec (.exit h) s = .next t ∧ t.wave c.wk = some w' ∧ w'.regs = c.w.regs ∧
        w'.retired = c.w.retired ||| c.x ∧ w'.slot c.slot = some p ∧ p.mask = c.p.mask &&& ~~~c.x ∧
        p.pc = c.p.advance.pc ∧ w'.slot (1 - c.slot) = c.w.slot (1 - c.slot) ∧
        (∀ k, k ≠ c.wk → t.wave k = c.s.wave k) ∧ ∀ a, memGet t.mem a = memGet c.s.mem a) ∧
    (c.any = true → c.x = c.p.mask → c.p.depth = 0 →
      ∃ t w', exec (.exit h) s = .next t ∧ t.wave c.wk = some w' ∧ w'.regs = c.w.regs ∧
        w'.retired = c.w.retired ||| c.x ∧ w'.slot c.slot = none ∧ w'.slot (1 - c.slot) = c.w.slot (1 - c.slot) ∧
        w'.stack = c.w.stack ∧ (∀ k, k ≠ c.wk → t.wave k = c.s.wave k))

/-- SPAN (R87, R112-R114): with no executing lane it goes on; ranges that R113 refuses are a fault with no effect; else, where
the checkpoint area can be written and no pre-emption waits, the working set becomes the ranges and the span opens
with a checkpoint of the registers and of the paths as they go on. -/
def Obligations.Span : Prop :=
  ∀ (h : Ctl) (r0 r1 r2 r3 : RegRange) (s : State) (c : Ctx), Issues s (.span h r0 r1 r2 r3) c →
    (c.any = false → ∃ t w', exec (.span h r0 r1 r2 r3) s = .next t ∧ Done c t w' ∧ KeptAll c.w.regs w'.regs) ∧
    (c.any = true → spanBad c.hdr.v [r0, r1, r2, r3] = true →
      exec (.span h r0 r1 r2 r3) s = .next (c.fault fSpanRange 0 0 (spanWord [r0, r1, r2, r3]))) ∧
    (let ws := [r0, r1, r2, r3].filter fun r => r ≠ ⟨0xFF, 0⟩
     let at_ (j : Nat) : Option Path :=
       (if (j = 0 ↔ c.slot = 0) then some (c.p.advance.issued c.h.stall) else c.w.slot j).map fun p => { p with hold := none, blk := none }
     let k : Ckpt := ⟨at_ 0, at_ 1, c.w.stack, ws, [r0, r1, r2, r3], c.w.regs, c.w.storeSum, c.w.rlx, c.w.gctx, c.s.opSeq⟩
     c.any = true → spanBad c.hdr.v [r0, r1, r2, r3] = false → c.w.preempt = none →
      (∃ m, c.s.hwWriteAll c.wk c.slot c.p.pc c.p.mask k.image = .done m) →
      ∃ t w', exec (.span h r0 r1 r2 r3) s = .next t ∧ t.wave c.wk = some w' ∧ w'.ws = ws ∧
        w'.span = { isOpen := true, ckpt := some k } ∧ w'.regs = c.w.regs ∧ w'.slot c.slot = some (c.p.advance.issued c.h.stall) ∧
        w'.slot (1 - c.slot) = c.w.slot (1 - c.slot) ∧ ∀ j, j ≠ c.wk → t.wave j = c.s.wave j)

/-- REP (R115): with no executing lane it goes on; a count above 65,535 is a fault; with n from 1 the next instruction is to be
issued n times, where it is none of the forms that R115 shuts out. That the count is looked at before the next instruction is the
model's choice (log entry 9, DESIGN CHOICE). -/
def Obligations.Repeat : Prop :=
  ∀ (h : Ctl) (n : Src) (s : State) (c : Ctx), Issues s (.rep h n) c →
    let k := (c.rd n (lowest c.x)).val.toNat
    (c.any = false → ∃ t w', exec (.rep h n) s = .next t ∧ Done c t w' ∧ KeptAll c.w.regs w'.regs) ∧
    (c.any = true → 65535 < k → exec (.rep h n) s = .next (c.fault fRepCount 0 0 (BitVec.ofNat 64 k))) ∧
    (c.any = true → 1 ≤ k → k ≤ 65535 → c.p.rep = none →
      (∀ o, c.s.opcAt c.w c.p.succ.1 = some o → 0x40 ≤ o) →
      (∀ j, c.s.decodeAt c.w c.p.succ.1 = some (.instr j) → j.endsSpan = false ∧ ∀ g, j ≠ .rlxend g) →
      ∃ t w', exec (.rep h n) s = .next t ∧ Transfers c t w' ∧ w'.regs = c.w.regs ∧
        w'.slot c.slot = some { (c.p.advance).issued c.h.stall with rep := some k } ∧
        w'.slot (1 - c.slot) = c.w.slot (1 - c.slot)) ∧
    (c.any = true → k = 0 → c.p.rep = none → c.p.loop = none →
      (∀ o, c.s.opcAt c.w c.p.succ.1 = some o → 0x40 ≤ o) →
      (∀ j, c.s.decodeAt c.w c.p.succ.1 = some (.instr j) → j.endsSpan = false ∧ ∀ g, j ≠ .rlxend g) →
      ∃ t w' p, exec (.rep h n) s = .next t ∧ Transfers c t w' ∧ w'.regs = c.w.regs ∧
        w'.slot c.slot = some p ∧ p.pc = nextPc (nextPc c.p.pc))

/-- LOOP outside a relaxation body, on a body that R116 admits (R116): with every active lane executing, the path enters the
body with its count pinned, or passes it when the count is 0; with none it passes it; a count above 65,535 is a
fault. -/
def Obligations.Loop : Prop :=
  ∀ (h : Ctl) (n : LoopCnt) (last : Word) (s : State) (c : Ctx), Issues s (.loop h n last) c → c.w.region = none →
    let e : DWord := BitVec.ofNat 64 (c.p.pc.toNat / 2 ^ 32 * 2 ^ 32 + last.toNat)
    let k := match n with | .imm k => k | .reg r => (c.rdS r).val.toNat % 2 ^ 32
    (c.any = false → ∃ t w', exec (.loop h n last) s = .next t ∧ Transfers c t w' ∧ w'.regs = c.w.regs ∧
      w'.slot c.slot = some (c.heldAt c.p (nextPc e)) ∧ w'.slot (1 - c.slot) = c.w.slot (1 - c.slot)) ∧
    (c.any = true → pcForm e = true → c.p.pc < e → e.toNat / 64 + 1 - (nextPc c.p.pc).toNat / 64 ≤ 8 →
      c.loopSlot e = none →
      (65535 < k → exec (.loop h n last) s = .next (c.fault fLoopFormat 0 0 (causeWord 2 0))) ∧
      (1 ≤ k → k ≤ 65535 → c.x = c.p.mask → ∃ t w' p, exec (.loop h n last) s = .next t ∧ Transfers c t w' ∧
        w'.regs = c.w.regs ∧ w'.slot c.slot = some p ∧ p.pc = nextPc c.p.pc ∧ p.mask = c.p.mask ∧
        p.loop = some ⟨k, nextPc c.p.pc, e⟩ ∧ w'.slot (1 - c.slot) = c.w.slot (1 - c.slot)) ∧
      (k = 0 → c.x = c.p.mask → ∃ t w' p, exec (.loop h n last) s = .next t ∧ Transfers c t w' ∧
        w'.regs = c.w.regs ∧ w'.slot c.slot = some p ∧ p.pc = nextPc e ∧ p.loop = none))

/-! ## Memory -/

/-- The issue of LD, LD.NF, ST, REL, ACQ, ATOM, RED, ENQ and DEQ (R163, R181, R184, R185, R187, R198, R204): with no
executing lane the form only counts. When no lane's address is refused above the dividing row of Table 11-2 the
access is posted, with each lane's address, places and words, and the path waits while a place is to be
translated or the form's checks are left; else the form takes the fault of the lowest code, at the lowest lane
that has it, with the lanes of that code as its mask. A load's poisoned lanes make no access: at completion their
destinations receive the origin of the address, else of the guard, and no other lane but a doomed one changes
(R68, R192). -/
def Obligations.MemoryIssue : Prop :=
  (∀ (s : State) (c : Ctx) (i : Instr) (m : Addr) (x : Mask), c.accesses i = some (m, x) → Issues s i c →
    let place (l : Nat) := (c.accessState i).opPlaces c.w (c.memOp m c.x) l
    (c.any = false → ∃ t w', exec i s = .next t ∧ Done c t w' ∧ KeptAll c.w.regs w'.regs) ∧
    (c.any = true → ∀ g : Nat → List Seg, (∀ l, l < 32 → x.getLsbD l = true → place l = .ok (g l)) →
      ∃ t w' o, exec i s = .next t ∧ PostsAccess c t w' o ∧ o.todo = x ∧ o.finished = (x == 0) ∧
        o.holding = (x != 0 && (o.keeps || (lanes x).any fun l => (g l).any fun y => y.place.isGlob)) ∧
        o.walked = !o.holding ∧
        ∀ l, l < 32 → x.getLsbD l = true → o.addr l = (c.addr m l).val ∧ o.seg l = g l ∧ tget o.data l [] = c.stored l i) ∧
    (c.any = true → ∀ code l₀ a, l₀ < 32 → x.getLsbD l₀ = true → place l₀ = .error (code, a) →
      (∀ l k, l < 32 → x.getLsbD l = true → codeOf (place l) = some k → code ≤ k ∧ (k = code → l₀ ≤ l)) →
      exec i s = .next (({ c with s := c.accessState i } : Ctx).fault code
        (maskOf fun l => x.getLsbD l && codeOf (place l) == some code) a))) ∧
  (∀ (h : Ctl) (cache : Cache) (sign : Bool) (width : Width) (d : Nat) (m : Addr) (s : State) (c : Ctx),
    Issues s (.ld h cache sign width d m) c → c.any = true →
    (∀ l, l < 32 → c.x.getLsbD l = true → ∃ g, c.s.opPlaces c.w (c.memOp m c.x) l = .ok g) →
    ∃ t w' o, exec (.ld h cache sign width d m) s = .next t ∧ PostsAccess c t w' o ∧
      ∀ g, Kept g (o.written g)
          (fun n l => (∃ k, k < width.regs ∧ n = d + k) ∧ ((c.poisLanes m).getLsbD l = true ∨ c.doomed.getLsbD l = true))
          (fun _ => False) (fun _ _ => False) ∧
        ∀ k l, k < width.regs → l < 32 → (c.poisLanes m).getLsbD l = true → c.doomed.getLsbD l = false →
          (o.written g).vBad (d + k) l = true ∧
          (o.written g).vAt (d + k) l = if (c.addr m l).pois = true then (c.addr m l).org else (c.guard l).org)

/-- A lane of LD and LD.NF performs, at once or again after a retry response (R158, R181, R184, R222): its registers receive
the bytes of its place, those that it has read before its other bytes as they were then (R219), extended as the width says, with the
poison of a register lane that a window reaches; LD.NF's predicate reads true. Which line makes room is the model's choice (log
entry 15, DESIGN CHOICE). No byte of scratchpad changes, and none of memory but for the written bytes of a line that makes
room in the L1 (R165). -/
def Obligations.LoadPerform : Prop :=
  ∀ (s : State) (id : Nat) (o : Op) (w : Wave) (l : Nat) (again : Bool) (width : Width) (sign : Bool) (d : Nat)
    (pf : Option Nat) (g : Place), loadDest o.instr = some (width, sign, d, pf) → Turn s id o w l again false →
    o.seg l = [⟨g, width.bytes⟩] →
    ∃ t r, exec (performStep again false id l) s = .next t ∧ Performed s t id o (laneBit l) r ∧
      (∀ k, k < width.regs → Receives (r.vAt (d + k) l) (r.vBad (d + k) l) [s.placeRd g]
        (loadValue width sign (o.withGot l (s.bytesAt w.ck g width.bytes)) k)) ∧
      (∀ k, pf = some k → k ≠ 7 → r.pAt k l = true ∧ r.pBad k l = false) ∧
      Kept w.regs r (fun n j => (∃ k, k < width.regs ∧ n = d + k) ∧ j = l) (fun _ => False)
        (fun k j => pf = some k ∧ k ≠ 7 ∧ j = l) ∧
      t.teams = s.teams ∧ ∀ a, memGet t.mem a = memGet (s.roomFor w.ck g).mem a

/-- A lane of ST performs, at once or again after a retry response (R181, R185, R222): its bytes are written at its place,
into the core's own copy of a line of normal memory, for which the lowest line makes room where the L1 is full, or at the L2
where no granule is in CACHE (R165); every other byte reads as before. Which line makes room is the model's choice (log entry 15,
DESIGN CHOICE). A lane that is permanently inactive keeps its registers (R18). The line is one that no other key slot has reached
(R177), and no checkpoint is to receive the bytes (R89). -/
def Obligations.StorePerform : Prop :=
  ∀ (s : State) (id : Nat) (o : Op) (w : Wave) (l : Nat) (again : Bool) (h : Ctl) (cache : Cache) (width : Width)
    (src : Nat) (m : Addr) (g : Place), o.instr = .st h cache width src m → Turn s id o w l again false →
    o.seg l = [⟨g, width.bytes⟩] → (o.bytes l).length = width.bytes → o.writes = [] → s.ownPlace w.ck width.bytes g →
    (∀ wk n k b, g = .reg wk n k b → ∀ v x, s.wave wk = some v → v.span.ckpt = some x → x.opsBefore ≤ id) →
    ∃ t, exec (performStep again false id l) s = .next t ∧
      Stored (s.roomFor w.ck g) t w.ck (s.writtenAt w.ck g) (o.bytes l) ∧
      ((∀ wk n k b, g ≠ .reg wk n k b) → Performed s t id o (laneBit l) w.regs)

/-- A target of ATOM and RED performs in a launch that is not recorded and not replayed (R187-R189): all its lanes act in
ascending order on the value that it holds, each receiving what it found; at scratchpad and at narrow scope in
the core, at wide scope at the L2, once every core's copy of the line is written back. At narrow scope the core uses no
older copy of a line that its team has not pinned, and no other core keeps one (R219). The scope is the one at which the form acts
now, wide for a team that has ended (R223, log entry 15); which line makes room is the model's choice (log entry 15, DESIGN CHOICE). A
CAS of 32 bits is taken where no pool is registered for its address space, since it may return a sequence (R284). -/
def Obligations.AtomicPerform : Prop :=
  ∀ (s : State) (id : Nat) (o : Op) (w : Wave) (l : Nat) (again : Bool) (op : AOp) (width : Width) (d : Option Nat)
    (g : Place), o.atomic = some (op, width, d) → Turn s id o w l again false → (s.hdr w).rrmode = 0 →
    o.seg l = [⟨g, width.bytes⟩] → (op = .cas → width = .w32 → s.noPool o) →
    let run (u : State) (p : Place) : Nat × List (Nat × Nat) :=
      atomTarget op (8 * width.bytes) (leNat (u.bytesAt w.ck p width.bytes))
        ((o.group l).map fun k => (k, o.operand width k 0, o.operand width k width.regs))
    let ends (u t : State) (p p' : Place) : Prop := ∃ r,
      Performed s t id o (maskOf fun k => k ∈ o.group l) r ∧ Stored u t w.ck p' (leBytes width.bytes (run u p).1) ∧
      (∀ n x, d = some n → x ∈ (run u p).2 → ∀ j, j < width.regs →
        r.vAt (n + j) x.1 = BitVec.ofNat 32 (x.2 / 2 ^ (32 * j)) ∧ r.vBad (n + j) x.1 = false) ∧
      Kept w.regs r (fun m k => (∃ n j, d = some n ∧ j < width.regs ∧ m = n + j) ∧ k ∈ o.group l) (fun _ => False)
        (fun _ _ => False)
    (∀ tk off, g = .scr tk off → ∃ t, exec (targetStep again id l) s = .next t ∧ ends s t g g) ∧
    (∀ pa key, g = .phys pa 0 key → (s.scopeNow w o.scope).wide = false → (s.narrowBase w.team (pa / 128)).ownPlace w.ck width.bytes g →
      let u := s.narrowBase w.team (pa / 128)
      ∃ t, exec (targetStep again id l) s = .next t ∧ ends (u.roomFor w.ck g) t g (u.writtenAt w.ck g)) ∧
    (∀ pa key, g = .phys pa 0 key → (s.scopeNow w o.scope).wide = true → pa % 128 + width.bytes ≤ 128 →
      ∃ t, exec (targetStep again id l) s = .next t ∧ ends (s.evictEverywhere (pa / 128)) t (.phys pa 1 key) (.phys pa 1 key))

/-- The lanes that name one ring block act on it in ascending order (R198): as many as there is room, or are elements, for
move an element, and their predicate reads true; the others' reads false. A lane of DEQ receives its element's
words as the L2 holds them. Every command of the address space is complete to the form, and no pool is registered for it (R226,
R284). -/
def Obligations.RingPerform : Prop :=
  ∀ (s : State) (id : Nat) (o : Op) (w : Wave) (l : Nat) (again : Bool) (b : RingBlk) (ps : Nat) (dst : Option Nat),
    ((∃ h src m, o.instr = .enq h ps src m ∧ dst = none) ∨ ∃ h d m, o.instr = .deq h d ps m ∧ dst = some d) →
    Turn s id o w l again false → s.Quiet id o → s.ringBlock w (o.seg l) = some b →
    (∀ y ∈ o.seg l, ∃ pa mt key, y.place = .phys pa mt key) →
    let plan := b.plan o.isEnq (o.ringLanes l)
    ∀ el : Nat × DWord → List Seg,
    (∀ x ∈ plan, s.elemSegs w x.1 x.2 b.size o.elemAcc = .ok (el x) ∧ s.retried w.team (el x) = false ∧
      s.heldAt id o l (el x) = false ∧ ∀ y ∈ el x, ∃ pa mt key, y.place = .phys pa mt key) →
    s.writesLeft id o (s.boundLines w (o.bound 1 ((o.addr l).setWidth 128))) = false →
    let u := plan.foldl (fun s x => s.reachSegs (el x)) s
    ∃ t r, exec (targetStep again id l) s = .next t ∧ Performed s t id o (maskOf fun k => k ∈ o.ringLanes l) r ∧
      (ps ≠ 7 → ∀ k ∈ o.ringLanes l, r.pBad ps k = false ∧ r.pAt ps k = plan.any fun x => x.1 == k) ∧
      (∀ d x j, dst = some d → x ∈ plan → j < b.size / 4 → r.vBad (d + j) x.1 = false ∧
        r.vAt (d + j) x.1 = BitVec.ofNat 32 (leNat (((((u.toL2 (o.seg l)).toL2 (el x)).readSegs w.ck ((el x).map Seg.atL2)).drop (4 * j)).take 4))) ∧
      Kept w.regs r (fun n k => (∃ d j, dst = some d ∧ j < b.size / 4 ∧ n = d + j) ∧ ∃ x ∈ plan, x.1 = k) (fun _ => False)
        (fun p k => p = ps ∧ p ≠ 7 ∧ k ∈ o.ringLanes l)

/-- An access in a transaction (R192): a store is held in the lane's buffer and reaches no memory; a doomed lane's load
returns zero, and its store is discarded. -/
def Obligations.TransactionalAccess : Prop :=
  ∀ (s : State) (id : Nat) (o : Op) (w : Wave) (l : Nat) (again : Bool), Turn s id o w l again true →
    (∀ h cache width src m pa key, o.instr = .st h cache width src m → o.seg l = [⟨.phys pa 0 key, width.bytes⟩] →
      pa % 128 + width.bytes ≤ 128 →
      (tget w.tx l {}).doomed = false → (addLines (tget w.tx l {}).lines [pa / 128]).length ≤ 8 →
      (o.bytes l).length = width.bytes → o.writes = [] →
      ∃ t w', exec (performStep again true id l) s = .next t ∧ t.wave o.wave = some w' ∧ w'.regs = w.regs ∧
        t.mem = s.mem ∧ t.cores = s.cores ∧
        (∀ k, k < width.bytes → tget (tget w'.tx l {}).buf (pa + k) 0 = (o.bytes l).getD k 0) ∧
        (∀ a, (a < pa ∨ pa + width.bytes ≤ a) → tfind (tget w'.tx l {}).buf a = tfind (tget w.tx l {}).buf a) ∧
        (tget w'.tx l {}).lines = addLines (tget w.tx l {}).lines [pa / 128] ∧ ∀ k, k ≠ l → tget w'.tx k {} = tget w.tx k {}) ∧
    (∀ h cache sign width d m, o.instr = .ld h cache sign width d m → (tget w.tx l {}).doomed = true →
      (∀ y ∈ o.seg l, ∃ pa mt key, y.place = .phys pa mt key) →
      ∃ t r, exec (performStep again true id l) s = .next t ∧ Performed s t id o (laneBit l) r ∧
        (∀ k, k < width.regs → r.vAt (d + k) l = 0 ∧ r.vBad (d + k) l = false) ∧
        Kept w.regs r (fun n j => (∃ k, k < width.regs ∧ n = d + k) ∧ j = l) (fun _ => False) (fun _ _ => False) ∧
        t.mem = s.mem ∧ t.cores = s.cores) ∧
    (∀ h cache width src m, o.instr = .st h cache width src m → (tget w.tx l {}).doomed = true → o.writes = [] →
      ∃ t, exec (performStep again true id l) s = .next t ∧ t.mem = s.mem ∧ t.cores = s.cores ∧
        ∃ w', t.wave o.wave = some w' ∧ w'.regs = w.regs ∧ w'.tx = w.tx)

/-- PREF brings the lines that its lanes name into the core's L1 and never faults (R186): with room for them every line that the
core holds stays, and without a granule in CACHE none comes (R165). PGREQ completes at once when every
page is resident, else it posts a wait on one entry for each page, of kind 4, with the lanes of the page (R159); while a table of a lane's
translation lies in a line that a team has pinned it does not issue (R222, log entry 15). -/
def Obligations.PrefetchAndPageRequest : Prop :=
  (∀ (h : Ctl) (cache : Cache) (m : Addr) (s : State) (c : Ctx), Issues s (.pref h cache m) c →
    ∃ t w', exec (.pref h cache m) s = .next t ∧ t.wave c.wk = some w' ∧ MovesNow c w' ∧ w'.regs = c.w.regs ∧
      t = { c.s with waves := t.waves, cores := t.cores, mem := t.mem, lineKey := t.lineKey } ∧
      (∀ k, k ≠ c.wk → t.wave k = c.s.wave k) ∧ (∀ k, k ≠ c.ck → t.core k = c.s.core k) ∧
      ((c.s.core c.ck).l1.length + 32 ≤ (c.s.core c.ck).lineRoom → t.mem = c.s.mem ∧
        (∀ line x, tfind (c.s.core c.ck).l1 line = some x → tfind (t.core c.ck).l1 line = some x) ∧
        ∀ l x, l < 32 → c.x.getLsbD l = true → c.prefLine m l = some x → thas (t.core c.ck).l1 x.1 = true) ∧
      ((c.s.core c.ck).lineRoom = 0 → t.mem = c.s.mem ∧ t.core c.ck = c.s.core c.ck)) ∧
  (∀ (h : Ctl) (m : Addr) (s : State) (c : Ctx), Issues s (.pgreq h m) c →
    (∃ l, l < 32 ∧ c.x.getLsbD l = true ∧ c.pgreqHeld m l = true) → exec (.pgreq h m) s = .next (c.s.block 1)) ∧
  (∀ (h : Ctl) (m : Addr) (s : State) (c : Ctx), Issues s (.pgreq h m) c →
    (∀ l, l < 32 → c.x.getLsbD l = true → c.pgreqHeld m l = false) →
    ((∀ l, l < 32 → c.x.getLsbD l = true → c.pgreqVa m l = none) →
      ∃ t w', exec (.pgreq h m) s = .next t ∧ t.wave c.wk = some w' ∧ MovesNow c w' ∧ w'.regs = c.w.regs ∧
        Elsewhere c.s t c.wk) ∧
    ((∃ l, l < 32 ∧ c.x.getLsbD l = true ∧ (c.pgreqVa m l).isSome = true) →
      ∃ t w', exec (.pgreq h m) s = .next t ∧ GoesOn c t w' ∧ w'.slot c.slot = some (c.p.advance.issued c.h.stall) ∧
        w'.regs = c.w.regs ∧ t.opSeq = c.s.opSeq + 1 ∧ (∃ o, t.op c.s.opSeq = some o ∧ o.instr = .pgreq h m ∧ o.finished = false) ∧
        ∀ l va, l < 32 → c.x.getLsbD l = true → c.pgreqVa m l = some va →
          ∃ e ∈ (t.die c.w.die).fq, e.kind = 4 ∧ e.op = some c.s.opSeq ∧ e.va.toNat / 4096 = va / 4096 ∧ e.mask.getLsbD l = true))

/-- FENCE (R205, R223): it holds its path while an operation of the wave is pending; then it completes, and at CLUSTER scope
or wider the core's L1 holds no line, its written bytes are in memory, and the team pins no line. Lines of host memory
belong to .SYSTEM alone (R227). A narrow FENCE changes besides its wave only what the model notes of the order of events. -/
def Obligations.Fence : Prop :=
  ∀ (h : Ctl) (scope : Scope) (s : State) (c : Ctx), Issues s (.fence h scope) c →
    (c.any = false → ∃ t w', exec (.fence h scope) s = .next t ∧ Done c t w' ∧ KeptAll c.w.regs w'.regs) ∧
    (c.any = true → c.s.opsOf c.wk ≠ [] → exec (.fence h scope) s = .next (c.s.block 1)) ∧
    (c.any = true → c.s.opsOf c.wk = [] → (∀ z ∈ c.w.haz, z.clobbered = false) → ∃ t w',
      exec (.fence h scope) s = .next t ∧ t.wave c.wk = some w' ∧ MovesNow c w' ∧ w'.regs = c.w.regs ∧
      (∀ z ∈ w'.haz, z.readyAt.isSome = true) ∧ (∀ k, k ≠ c.wk → t.wave k = c.s.wave k) ∧
      (scope.wide = false → t = { c.s with
        waves := t.waves, stamp := t.stamp, fences := t.fences, cmdLog := t.cmdLog, seqHeld := t.seqHeld }) ∧
      (scope.wide = true → (scope = .system → (t.core c.ck).l1 = []) ∧
        (∀ line x, tfind (t.core c.ck).l1 line = some x → hostLine line = true) ∧
        (∀ line p, tfind t.pins line = some p → p.team ≠ c.w.team) ∧
        ((∀ x ∈ c.s.pins, x.2.team = c.w.team → x.2.core = c.ck) → (∀ x ∈ (c.s.core c.ck).l1, ∀ o ∈ x.2.dirty, o < 128) →
          ∀ line x o, tfind (c.s.core c.ck).l1 line = some x → o ∈ x.dirty → (hostLine line = false ∨ scope = .system) →
            memGet t.mem (128 * line + o) = memGet x.data o)))

/-- The transaction of each lane of TXEND is over; every other lane keeps its own (R194). -/
def txOver (c : Ctx) (w' : Wave) : Prop :=
  (∀ l, l < 32 → c.txLanes.getLsbD l = true → (tget w'.tx l {}).active = false) ∧
  ∀ l, l < 32 → c.txLanes.getLsbD l = false → tget w'.tx l {} = tget c.w.tx l {}

/-- A TXEND may end its transactions: none of its lanes has an access pending (R192), no line of its sets is pinned by another
team (R222), and executing lanes outside a transaction have a target that the line admits (R54, R194). -/
structure TxEnds (c : Ctx) : Prop where
  any : c.any = true
  ops : ∀ o ∈ c.s.opsOf c.wk, o.2.tx &&& c.txLanes &&& o.2.todo = 0
  pins : ∀ l, l < 32 → c.txLanes.getLsbD l = true → ∀ y ∈ (tget c.w.tx l {}).reads ++ (tget c.w.tx l {}).lines,
    c.s.pinnedAway c.w.team y = false
  target : c.x &&& ~~~ c.txLanes = 0 ∨ c.s.targetBad c.w c.p.pc c.p.abortTo = none

/-- The lanes that leave a TXEND for the abort target: those whose transactions fail, and executing lanes outside a
transaction (R194). -/
def txLeave (c : Ctx) : Mask :=
  (c.x &&& ~~~ c.txLanes) ||| c.doomed ||| maskOf fun l => l ∈ c.txPlan.2.1 ++ c.txPlan.2.2

/-- TXBEGIN, TXABORT, TXSTAT and TXEND answer a next state with their effects (R191, R194, R195): TXBEGIN at an abort target that
the line admits, TXABORT and TXSTAT always, and TXEND when nothing that R192 or R222 names holds it: its transactions are
over, committed lanes fall through, and the lanes that leave go to the abort target. At a target that the line does not admit
TXBEGIN is a fault; a TXEND that is held stays, without issuing (log entries 26 and 27, DEDUCED). That a lane doomed before keeps its
earlier cause at TXABORT is the model's choice (log entry 26, DESIGN CHOICE). -/
def Obligations.Transactions : Prop :=
  (∀ (h : Ctl) (target : Word) (s : State) (c : Ctx), Issues s (.txbegin h target) c →
    let dest : DWord := BitVec.ofNat 64 (c.p.pc.toNat / 2 ^ 32 * 2 ^ 32 + target.toNat)
    (c.any = true → c.s.targetBad c.w c.p.pc dest = none →
      ∃ t w', exec (.txbegin h target) s = .next t ∧ GoesOn c t w' ∧ w'.regs = c.w.regs ∧
        w'.slot c.slot = some { c.p.advance.issued c.h.stall with abortTo := dest } ∧
        (∀ l, l < 32 → tget w'.tx l {} =
          if c.x.getLsbD l = true then { active := true, born := c.s.opSeq } else tget c.w.tx l {}) ∧
        t.mem = c.s.mem) ∧
    (c.any = false → ∃ t w', exec (.txbegin h target) s = .next t ∧ Done c t w' ∧ KeptAll c.w.regs w'.regs) ∧
    (c.any = true → ∀ code x, c.s.targetBad c.w c.p.pc dest = some (code, x) →
      exec (.txbegin h target) s = .next (if code = fRetry then c.s.block 1 else c.fault code 0 0 x))) ∧
  (∀ (h : Ctl) (code : Src) (s : State) (c : Ctx), Issues s (.txabort h code) c →
    ∃ t w', exec (.txabort h code) s = .next t ∧ GoesOn c t w' ∧ w'.regs = c.w.regs ∧
      w'.slot c.slot = some (c.p.advance.issued c.h.stall) ∧ t.mem = c.s.mem ∧
      ∀ l, l < 32 → (c.txLanes.getLsbD l = true → (tget w'.tx l {}).doomed = true ∧ (tget w'.tx l {}).active = true ∧
          (tget w'.tx l {}).code = (c.rd code (lowest c.x)).val.toNat % 256 ∧
          (tget w'.tx l {}).cause = if (tget c.w.tx l {}).doomed = true then (tget c.w.tx l {}).cause else 1) ∧
        (c.txLanes.getLsbD l = false → tget w'.tx l {} = tget c.w.tx l {})) ∧
  (∀ (h : Ctl) (d : Nat) (s : State) (c : Ctx), Issues s (.txstat h d) c →
    (c.any = true → ∃ t w' o, exec (.txstat h d) s = .next t ∧ Posts c t w' o ∧ o.finished = true ∧
      ∀ g, LanesOf c g (o.written g) d (fun _ => []) fun l =>
        let x := tget c.w.tx l {}
        BitVec.ofNat 32 ((if x.active then 2 ^ 31 else 0) + (if x.active && x.doomed then 2 ^ 30 else 0) + x.code * 256 + x.cause)) ∧
    (c.any = false → ∃ t w', exec (.txstat h d) s = .next t ∧ Done c t w' ∧ KeptAll c.w.regs w'.regs)) ∧
  (∀ (h : Ctl) (s : State) (c : Ctx), Issues s (.txend h) c →
    (TxEnds c → txLeave c = 0 → ∃ t w', exec (.txend h) s = .next t ∧ t.wave c.wk = some w' ∧ MovesNow c w' ∧
      w'.regs = c.w.regs ∧ txOver c w' ∧ (∀ k, k ≠ c.wk → t.wave k = c.s.wave k) ∧
      ∀ l, c.txLanes = laneBit l → l < 32 → tsorted (tget c.w.tx l {}).buf = true →
        ∀ a b, tfind (tget c.w.tx l {}).buf a = some b → memGet t.mem a = b) ∧
    (TxEnds c → txLeave c = c.p.mask → ∃ t w', exec (.txend h) s = .next t ∧ t.wave c.wk = some w' ∧
      w'.regs = c.w.regs ∧ txOver c w' ∧ w'.slot c.slot = some (c.heldAt c.p c.p.abortTo) ∧
      w'.slot (1 - c.slot) = c.w.slot (1 - c.slot) ∧ ∀ k, k ≠ c.wk → t.wave k = c.s.wave k) ∧
    (TxEnds c → txLeave c ≠ 0 → txLeave c ≠ c.p.mask → c.w.slot (1 - c.slot) = none → c.p.depth < 63 →
      ∃ t w' p q, exec (.txend h) s = .next t ∧ t.wave c.wk = some w' ∧ w'.regs = c.w.regs ∧ txOver c w' ∧
        w'.slot c.slot = some p ∧ p.pc = nextPc c.p.pc ∧ p.mask = c.p.mask &&& ~~~ txLeave c ∧ p.depth = c.p.depth + 1 ∧
        w'.slot (1 - c.slot) = some q ∧ q.pc = c.p.abortTo ∧ q.mask = txLeave c ∧ q.depth = c.p.depth + 1 ∧
        ∀ k, k ≠ c.wk → t.wave k = c.s.wave k) ∧
    (c.any = false → ∃ t w', exec (.txend h) s = .next t ∧ Done c t w' ∧ KeptAll c.w.regs w'.regs) ∧
    (c.any = true → (∃ o ∈ c.s.opsOf c.wk, o.2.tx &&& c.txLanes &&& o.2.todo ≠ 0) →
      ((∀ o ∈ c.s.opsOf c.wk, o.2.tx &&& c.txLanes &&& o.2.todo ≠ 0 → o.2.retry &&& o.2.tx ≠ 0) →
        exec (.txend h) s = .next (c.s.block 9)) ∧
      ((∃ o ∈ c.s.opsOf c.wk, o.2.tx &&& c.txLanes &&& o.2.todo ≠ 0 ∧ o.2.retry &&& o.2.tx = 0) →
        exec (.txend h) s = .next (c.s.block 1))))

/-- The object number and the length of BIND and UNBIND, and whether the object is one that R201 admits. -/
def bindEntry (c : Ctx) (kind : BindKind) (obj : Nat) (start : DWord) (len : BindLen) : BindEntry × Prop :=
  let n := match len with | .imm v => (v + 1) * 16 | .reg r => (c.rdS r).val.toNat
  match kind with
  | .bar => (⟨0, BitVec.ofNat 128 obj, start, n⟩, obj < c.team.bars)
  | .ring => (⟨1, (c.rdS obj).val.setWidth 128, start, n⟩, True)
  | .flag => (⟨2, (c.rdS obj).val.setWidth 128, start, n⟩, (c.rdS obj).val.toNat % 4 = 0)
  | .tile => (⟨3, BitVec.ofNat 128 ((c.rdH obj).toNat % 2 ^ 126), start, n⟩, (c.rdH obj).toNat / 2 ^ 126 ≠ 0)

/-- BIND adds an entry to the team's bind table, and UNBIND removes one that is equal (R201, R202): with a range of the
global window and an object that R201 admits they complete, BIND only while fewer than 64 entries stand; else
they take BIND_RANGE, and BIND on a full table BIND_FULL. -/
def Obligations.BindAndUnbind : Prop :=
  ∀ (h : Ctl) (kind : BindKind) (obj a : Nat) (off : BitVec 16) (len : BindLen) (add : Bool) (s : State) (c : Ctx)
    (x : Team), Issues s (if add then .bind h kind obj a off len else .unbind h kind obj a off len) c →
    c.s.team c.w.team = some x →
    let i : Instr := if add then .bind h kind obj a off len else .unbind h kind obj a off len
    let start := (c.rdS a).val + off.signExtend 64
    let e := bindEntry c kind obj start len
    (c.any = false → ∃ t w', exec i s = .next t ∧ Done c t w' ∧ KeptAll c.w.regs w'.regs) ∧
    (c.any = true → bindRangeOk start e.1.len = true → e.2 → (add = true → x.binds.length < 64) →
      ∃ t w', exec i s = .next t ∧ t.wave c.wk = some w' ∧ Moves c w' ∧ w'.regs = c.w.regs ∧
        t = { c.s with waves := t.waves, teams := t.teams } ∧ (∀ k, k ≠ c.wk → t.wave k = c.s.wave k) ∧
        t.team c.w.team = some { x with binds := if add then x.binds ++ [e.1] else x.binds.erase e.1 } ∧
        ∀ k, k ≠ c.w.team → t.team k = c.s.team k) ∧
    (c.any = true → (bindRangeOk start e.1.len = false ∨ ¬ e.2) → ∃ w, exec i s = .next (c.fault fBindRange 0 start w)) ∧
    (c.any = true → bindRangeOk start e.1.len = true → e.2 → add = true → 64 ≤ x.binds.length →
      ∃ w, exec i s = .next (c.fault fBindFull 0 start w))

/-- The number of a barrier form. -/
def barNumber : Instr → Option Nat
  | .barinit _ b _ | .bara _ b | .barw _ b _ | .baraw _ b _ | .barq _ b _ => some b
  | _ => none

/-- A barrier form with no executing lane only counts; with a number that the stage does not have it takes BAR_RANGE (R206).
BARINIT enrols its waves in a barrier in phase 0 without arrivals, and every operation that waited on it completes, and a wave that
a pre-emption had taken off in such a wait is to find the barrier broken (R400); it takes BAR_RANGE for a count of 0 or one above the
team's waves, and for a register mask that names a wave which the team does not have, while a mask of 0 enrols no wave (R37, R207).
BARQ reads the barrier (R209). -/
def Obligations.BarrierSetAndQuery : Prop :=
  (∀ (i : Instr) (b : Nat) (s : State) (c : Ctx), barNumber i = some b → Issues s i c →
    (c.any = false → ∃ t w', exec i s = .next t ∧ Done c t w' ∧ KeptAll c.w.regs w'.regs) ∧
    (c.any = true → c.team.bars ≤ b →
      exec i s = .next (c.fault fBarRange 0 0 (BitVec.ofNat 64 (b * 2 ^ 32 + c.team.bars % 2 ^ 32))))) ∧
  (∀ (h : Ctl) (b : Nat) (m : BarSet) (s : State) (c : Ctx), Issues s (.barinit h b m) c → c.any = true → b < c.team.bars →
    let n := match m with | .imm n => n | .reg r => (c.rdS r).val.toNat % 2 ^ 32
    let set : List Nat := match m with
      | .imm n => List.range n
      | .reg r => (List.range 32).filter fun i => (c.rdS r).val.getLsbD i
    let good : Prop := match m with | .imm n => 1 ≤ n ∧ n ≤ c.team.waves | .reg _ => n < 2 ^ c.team.waves
    (¬ good → ∃ w, exec (.barinit h b m) s = .next (c.fault fBarRange 0 0 w)) ∧
    (good → ∃ t w', exec (.barinit h b m) s = .next t ∧ t.wave c.wk = some w' ∧
      t.barrier c.w.team b = { enrolled := set } ∧ (∀ j, j ≠ b → t.barrier c.w.team j = c.s.barrier c.w.team j) ∧
      (∀ id o, c.s.op id = some o → o.barOn c.w.team b = true → c.s.behind id o = false → t.op id = none) ∧
      ((∀ x ∈ c.s.ops, x.2.barOn c.w.team b = false) →
        w'.regs = c.w.regs ∧ t.ops = c.s.ops ∧ t.mem = c.s.mem ∧ w'.slot c.slot = some (c.p.advance.issued c.h.stall) ∧
        w'.slot (1 - c.slot) = c.w.slot (1 - c.slot) ∧
        ∀ k, k ≠ c.wk → t.wave k = (c.s.wave k).map fun v => if v.team = c.w.team then v.barGone b else v))) ∧
  (∀ (h : Ctl) (b d : Nat) (s : State) (c : Ctx), Issues s (.barq h b d) c → d < 64 → c.any = true → b < c.team.bars →
    let x := c.s.barrier c.w.team b
    x.arrived.Nodup → (∀ i ∈ x.arrived, i < 32) →
    ∃ t w' v, exec (.barq h b d) s = .next t ∧ Done c t w' ∧ UniformOf c c.w.regs w'.regs d [] v ∧
      (∀ i, i < 32 → v.getLsbD (32 + i) = decide (i ∈ x.arrived)) ∧ v.toNat / 2 ^ 16 % 2 ^ 16 = x.phase % 2 ^ 16 ∧
      v.toNat / 2 ^ 8 % 2 ^ 8 = x.enrolled.length % 2 ^ 8 ∧ v.toNat / 2 % 2 ^ 7 = (if thas x.pending c.w.ix then 1 else 0) ∧
      v.toNat % 2 = if x.broken then 1 else 0)

/-- The barrier still lacks an arrival besides that of the wave. -/
def lacks (c : Ctx) (x : Barrier) : Prop := ∃ i ∈ x.enrolled, i ≠ c.w.ix ∧ i ∉ x.arrived

/-- BARA (R208): on a broken barrier, or in a wave that is not enrolled, it has no effect; while a store to scratchpad or
to bound bytes is pending it holds its path; else it arrives in the current phase and notes it, and an arrival
that completes the phase begins the next one and wakes its waiters; in a phase in which the wave has arrived it
waits for the next. That a held form holds its path by not issuing is the model's reading (log entry 27, DEDUCED). `coming` and
`passed` are the model's own notes of what happens before what. -/
def Obligations.BarrierArrive : Prop :=
  ∀ (h : Ctl) (b : Nat) (s : State) (c : Ctx), Issues s (.bara h b) c → c.any = true → b < c.team.bars →
    let x := c.s.barrier c.w.team b
    ((c.w.ix ∉ x.enrolled ∨ x.broken = true) → ∃ t w', exec (.bara h b) s = .next t ∧ t.wave c.wk = some w' ∧
      MovesNow c w' ∧ w'.regs = c.w.regs ∧ Elsewhere c.s t c.wk) ∧
    (c.w.ix ∈ x.enrolled → x.broken = false → c.barBroke = false →
      (c.barHeld b = true → exec (.bara h b) s = .next (c.s.block 1)) ∧
      (c.barHeld b = false →
        (c.w.ix ∉ x.arrived → lacks c x → ∃ t w', exec (.bara h b) s = .next t ∧ GoesOn c t w' ∧ w'.regs = c.w.regs ∧
          w'.slot c.slot = some (c.p.advance.issued c.h.stall) ∧
          t.barrier c.w.team b = { x with arrived := x.arrived ++ [c.w.ix], pending := tput x.pending c.w.ix x.phase
                                          coming := (t.barrier c.w.team b).coming }) ∧
        (c.w.ix ∉ x.arrived → ¬ lacks c x → c.w.ix ∉ c.team.exited → c.p.wait = .none →
          (∀ o ∈ c.s.ops, o.2.barOn c.w.team b = true → o.2.u.getD 1 0 ≠ 1) →
          ∃ t w', exec (.bara h b) s = .next t ∧ t.wave c.wk = some w' ∧
          w'.slot c.slot = some (c.p.advance.issued c.h.stall) ∧
          t.barrier c.w.team b = { x with phase := (x.phase + 1) % 65536, arrived := x.enrolled.filter (· ∈ c.team.exited)
                                          pending := tput x.pending c.w.ix x.phase
                                          coming := (t.barrier c.w.team b).coming, passed := (t.barrier c.w.team b).passed } ∧
          ∀ id o, c.s.op id = some o → o.barOn c.w.team b = true → o.u.getD 0 0 = BitVec.ofNat 64 x.phase →
            o.u.getD 1 0 = 0 → id < c.s.opSeq → c.s.behind id o = false → t.op id = none) ∧
        (c.w.ix ∈ x.arrived → ∃ t w' o, exec (.bara h b) s = .next t ∧ GoesOn c t w' ∧ w'.regs = c.w.regs ∧
          c.waitsOn w' c.s.opSeq ∧ t.op c.s.opSeq = some o ∧ o.u = [BitVec.ofNat 64 x.phase, 1] ∧
          t.barrier c.w.team b = x)))

/-- BARW and BARAW in a wave whose wait was not cut off by a pre-emption (R208): on a broken barrier they complete with a
true pB. BARW with its pending flag set for a phase that is over completes with a false pB, and for the current
phase waits for it; without the flag it arrives and waits where the wave is enrolled, and where it is not it
waits, or completes with a false pB when every enrolled wave has exited. BARAW arrives and waits, whatever the
flag; an arrival in a phase in which the wave has arrived is held for the next one. That a held BARAW holds its path by not issuing
is the model's reading (log entry 27, DEDUCED). -/
def Obligations.BarrierWait : Prop :=
  ∀ (h : Ctl) (b pb : Nat) (both : Bool) (s : State) (c : Ctx),
    Issues s (if both then .baraw h b pb else .barw h b pb) c → c.any = true → b < c.team.bars → c.w.barDone = none →
    let i : Instr := if both then .baraw h b pb else .barw h b pb
    let x := c.s.barrier c.w.team b
    let flag := tfind x.pending c.w.ix
    let ends (st : Bool) : Prop := ∃ t w' o, exec i s = .next t ∧ GoesOn c t w' ∧ w'.regs = c.w.regs ∧
      w'.slot c.slot = some (c.p.advance.issued c.h.stall) ∧ t.op c.s.opSeq = some o ∧ o.finished = true ∧
      (∀ g, PredOf c g (o.written g) pb (fun _ => []) (fun _ => st)) ∧
      t.barrier c.w.team b = { x with pending := if both || x.broken then x.pending else tdel x.pending c.w.ix }
    let waits (ph held : Nat) (y : Barrier) : Prop := ∃ t w' o, exec i s = .next t ∧ GoesOn c t w' ∧ w'.regs = c.w.regs ∧
      c.waitsOn w' c.s.opSeq ∧ t.op c.s.opSeq = some o ∧ o.u = [BitVec.ofNat 64 ph, BitVec.ofNat 64 held] ∧ o.finished = false ∧
      { t.barrier c.w.team b with coming := y.coming } = y
    (x.broken = true → ends true) ∧
    (x.broken = false → both = false → ∀ ph, flag = some ph →
      (x.phase ≠ ph → ends false) ∧ (x.phase = ph → waits ph 0 { x with pending := tdel x.pending c.w.ix })) ∧
    (x.broken = false → (both = false → flag = none) → c.w.ix ∉ x.enrolled →
      (x.allExited c.team.exited = false → waits x.phase 0 x) ∧
      (x.allExited c.team.exited = true → ends false)) ∧
    (x.broken = false → (both = false → flag = none) → c.w.ix ∈ x.enrolled → (both = true → c.barHeld b = false) →
      let y := { x with pending := if both then tdel x.pending c.w.ix else x.pending }
      (c.w.ix ∈ x.arrived → waits x.phase 1 y) ∧
      (c.w.ix ∉ x.arrived → lacks c x → waits x.phase 0 { y with arrived := x.arrived ++ [c.w.ix] })) ∧
    (x.broken = false → both = true → c.w.ix ∈ x.enrolled → c.barHeld b = true →
      exec i s = .next (c.s.block 1))

/-! ## Tensors, commands, events, tasks and accumulators -/

/-- The issue of a command of R257 (R241, R258, R267-R274): with no executing lane it only counts; with an identifier that is
undefined it takes TENSOR_UNDEF, and a form on a tile that its team does not hold ACC_STATE; where its own
conditions and the rows of Table 11-2 above translation hold it posts a command with what it captured. -/
def Obligations.CommandIssue : Prop :=
  ∀ (s : State) (c : Ctx) (i : Instr), i.isCommand = true → Issues s i c →
    (c.any = false → ∃ t w', exec i s = .next t ∧ Done c t w' ∧ KeptAll c.w.regs w'.regs) ∧
    (c.any = true → ∀ p, commandPlan c i = some p → p.clear c → ∃ t w' o, exec i s = .next t ∧ PostsCommand c t w' o p) ∧
    (c.any = true → (∀ h e a t r, i = .weirget h e a t r → (c.rdS a).pois = false ∧ (c.rdS r).pois = false) →
      ∀ n, (namedIds i).find? (fun n => (c.tensor n).isNone) = some n →
      exec i s = .next (c.fault fTensorUndef 0 0 (BitVec.ofNat 64 n))) ∧
    (c.any = true → ∀ acc, ((∃ h e, i = .mzero h e acc) ∨ (∃ h e a f, i = .mld h e acc a f) ∨ ∃ h e a f, i = .mst h e acc a f) →
      c.holds acc = false → exec i s = .next (c.fault fAccState 0 0 (BitVec.ofNat 64 acc)))

/-- COMMAND_COMPLETION of a command whose turn has come, on a core that stands free of defects and of releases that wait
(R226, R243, R252, R257): without a tag and with status 0 its counter falls and it is gone. MZERO leaves its rows
zero, MMA, MMAH and MMAI accumulate their products, MLD loads them, and WBLD its slots (R267, R269, R270); every
other cell of the tiles keeps its value, and no register changes. -/
def Obligations.CommandCompletion : Prop :=
  ∀ (s : State) (id : Nat) (o : Op) (w : Wave), Pending s id o w → o.isCmd = true → o.finished = false →
    s.cmdReady id o w = true → s.defects = [] → (∀ n, (s.acc w.ck n).freeing = false) → evOf o.instr = none → o.dest = [] →
    let u := (s.flushL1 w.ck).reachSegs (s.engPlaces w .engineLoad o.src)
    let rows := rowsOf o.mask
    let ends (t : State) : Prop := ∃ w', t.wave o.wave = some w' ∧ w'.regs = w.regs ∧ t.op id = none ∧
      (∀ k, w'.ctr k = if k = o.ctr ∧ k < 6 then w.ctr k - 1 else w.ctr k) ∧ (∀ k, k ≠ id → t.op k = s.op k) ∧
      ∀ k, k ≠ o.wave → t.wave k = s.wave k
    let frame (t : State) (acc : Nat) : Prop := (∀ n r j, j < 128 → ¬ (n = acc ∧ r ∈ rows) →
      (t.acc w.ck n).cell r j = (s.acc w.ck n).cell r j) ∧ ∀ a, memGet t.mem a = memGet u.mem a
    (∀ h e acc, o.instr = .mzero h e acc → ∃ t, exec (.commandCompletion id) s = .next t ∧ ends t ∧ frame t acc ∧
      ∀ r ∈ rows, ∀ j, j < 128 → (t.acc w.ck acc).cell r j = 0) ∧
    (∀ h e acc a f, o.instr = .mld h e acc a f → ∃ t, exec (.commandCompletion id) s = .next t ∧ ends t ∧ frame t acc ∧
      ∀ r ∈ rows, ∀ j, j < 128 → (t.acc w.ck acc).cell r j =
        BitVec.ofNat 32 (leNat (((u.engRead id o w (o.u.getD 2 0 + BitVec.ofNat 64 (512 * r), 512)).drop (4 * j)).take 4))) ∧
    (∀ acc slot x, productForm o.instr = some (acc, slot) → o.tens = [x] → ∃ t, exec (.commandCompletion id) s = .next t ∧
      ends t ∧ frame t acc ∧
      let b := u.slotCols id o w.ck slot
      ∀ r ∈ rows, ∀ j, j < 128 → (t.acc w.ck acc).cell r j =
        productCell o.instr ((u.accRow id o w.ck acc r).getD j 0).toNat (elemsOf x.e (u.engRead id o w (x.row r 0, x.rowBytes)))
          (if b.2 = [] then [] else elemsOf 4 (u.engRead id o w (x.scaleAt (r * ceil128 (x.dim 0)), 4 * b.2.length)))
          (b.1.getD j []) b.2) ∧
    (∀ h e layout slot a f, o.instr = .wbld h e layout slot a f → u.failLines w .engineLoad o.src = [] →
      ∃ t, exec (.commandCompletion id) s = .next t ∧ ends t ∧
        (∀ k, k < imageBytes layout → memGet (t.wslot w.ck (imagePlace layout slot k).1).bytes (imagePlace layout slot k).2
          = (u.engRead id o w (o.u.getD 2 0, imageBytes layout)).getD k 0) ∧
        (∀ n, (∀ k, n ≠ (imagePlace layout slot k).1) → t.wslot w.ck n = s.wslot w.ck n) ∧
        ∀ n, t.acc w.ck n = s.acc w.ck n)

/-- TDEF holds its path until TDEF_COMPLETION reads its record: a valid one becomes the entry of the identifier on the wave's die
and the path goes on, a malformed one is TENSOR_FORMAT; while the address space has launches resident on further dies, each
later step gives the entry to one of them, in ascending order, which is the model's choice (log entry 31, DESIGN CHOICE), and then the counter
falls. A poisoned address leaves the identifier undefined on every die (R240, R241, R260, R262). TQRY reads the entry of the
wave's die, and zero of an undefined one (R263). -/
def Obligations.TensorIdentifiers : Prop :=
  (∀ (h : Ctl) (n a : Nat) (off : BitVec 16) (s : State) (c : Ctx), Issues s (.tdef h n a off) c →
    let x := (c.rdS a).val + off.signExtend 64
    (c.any = false → ∃ t w', exec (.tdef h n a off) s = .next t ∧ Done c t w' ∧ KeptAll c.w.regs w'.regs) ∧
    (c.any = true → (c.rdS a).pois = true → ∃ t w', exec (.tdef h n a off) s = .next t ∧ GoesOn c t w' ∧
      w'.regs = c.w.regs ∧ w'.slot c.slot = some (c.p.advance.issued c.h.stall) ∧
      (c.hdr.asid < 4096 → n < 4096 → (∀ d, t.tensorAt d c.hdr.asid n = none) ∧
        ∀ k, k % 2 ^ 24 ≠ tensorKey c.hdr.asid n → tfind t.tensors k = tfind c.s.tensors k)) ∧
    (c.any = true → (c.rdS a).pois = false → ∀ g, c.s.aperture c.w (lowest c.x) x 64 .load = .ok g →
      ∃ t w' o, exec (.tdef h n a off) s = .next t ∧ GoesOn c t w' ∧ w'.regs = c.w.regs ∧ c.waitsOn w' c.s.opSeq ∧
        t.op c.s.opSeq = some o ∧ o.instr = c.i ∧ o.walked = false ∧ o.todo = laneBit (lowest c.x) ∧
        o.seg (lowest c.x) = g ∧ o.addr (lowest c.x) = x ∧ t.tensors = c.s.tensors ∧ t.mem = c.s.mem) ∧
    (c.any = true → (c.rdS a).pois = false → ∀ e, c.s.aperture c.w (lowest c.x) x 64 .load = .error e →
      exec (.tdef h n a off) s = .next (c.fault e c.x x))) ∧
  (∀ (s : State) (id : Nat) (o : Op) (w : Wave) (h : Ctl) (n a : Nat) (off : BitVec 16), Pending s id o w →
    o.instr = .tdef h n a off → o.walked = true → o.ready (lowest o.todo) = true → s.heldBack id o (lowest o.todo) = false →
    s.retried w.team (o.seg (lowest o.todo)) = false → o.tens = [] → s.Quiet id o →
    (∀ y ∈ s.ops, y.1 ≠ id → y.2.isTdef = true → y.2.tens = []) →
    let gs := o.seg (lowest o.todo)
    let r := tensorOf (s.readSegs w.ck gs)
    let asid := (s.hdr w).asid
    let ds := s.tensorDies asid w.die
    let sets (t : State) (x : Tensor) : Prop := (∀ d, d < 8 → d ∉ ds → t.tensorAt d asid n = some x) ∧
      (∀ k, (∀ d, d < 8 → d ∉ ds → k ≠ 2 ^ 24 * d + tensorKey asid n) → tfind t.tensors k = tfind s.tensors k) ∧
      (x.filt = true → tfind t.touched (tensorKey asid n) = none) ∧
      t.mem = (gs.foldl (fun s g => s.touchPlace w.ck g.place) s).mem
    (∀ x, r = some x → ds = [] → ∃ t w', exec (.tdefCompletion id) s = .next t ∧ Completed s t id o w w' ∧
      w'.regs = w.regs ∧ sets t x) ∧
    (∀ x, r = some x → ds ≠ [] → o.holding = true → ∃ t w' o', exec (.tdefCompletion id) s = .next t ∧
      t.wave o.wave = some w' ∧ PathReleased w w' id o.slot ∧ w'.regs = w.regs ∧ (∀ k, w'.ctr k = w.ctr k) ∧
      t.op id = some o' ∧ o'.instr = o.instr ∧ o'.tens = [x] ∧ o'.u = ds.map (BitVec.ofNat 64 ·) ∧ sets t x) ∧
    (r = none → w.region = none → w.trap.pend = none → ∃ t, exec (.tdefCompletion id) s = .next t ∧
      TakesFault t o.wave fTensorFormat o.pc (o.addr (lowest o.todo)) ∧ t.tensors = s.tensors)) ∧
  (∀ (s : State) (id : Nat) (o : Op) (w : Wave) (h : Ctl) (n a : Nat) (off : BitVec 16) (x : Tensor) (d : DWord)
    (rest : List DWord), Pending s id o w → o.instr = .tdef h n a off → o.tens = [x] → o.u = d :: rest →
    (∀ y ∈ s.ops, y.1 ≠ id → y.2.isTdef = true → y.2.tens = []) →
    ∃ t, exec (.tdefCompletion id) s = .next t ∧ t.tensorAt d.toNat (s.asidOf o.wave) n = some x ∧ t.mem = s.mem ∧
      (rest = [] → ∃ w', Ended s t id o w w' ∧ w'.regs = w.regs) ∧
      (rest ≠ [] → t.waves = s.waves ∧ t.op id = some { o with u := rest })) ∧
  (∀ (h : Ctl) (d : Dst) (n sel : Nat) (s : State) (c : Ctx) (V ver : Nat), (Instr.tqry h d n sel).wf V ver = true →
    Issues s (.tqry h d n sel) c →
    (c.any = true → ∃ t w' o, exec (.tqry h d n sel) s = .next t ∧ Posts c t w' o ∧ o.finished = true ∧
      ∀ g, LaneResult64 c g (o.written g) d (fun _ => [])
        (fun _ => match c.tensor n with | some x => (tensorFields x).getD sel 0 | none => 0)) ∧
    (c.any = false → ∃ t w', exec (.tqry h d n sel) s = .next t ∧ Done c t w' ∧ KeptAll c.w.regs w'.regs))

/-- EVPOP and EVWAIT in a team without a record that waits for room (R275): of the records that were in the queue when the cycle
began they take the oldest, whose four words they give to every executing lane, EVPOP with a true predicate; when none is left
EVPOP gives a false predicate, and poisons the four registers in a lane whose guard is poisoned (R68), and EVWAIT does not issue.
After a wave of a higher index has taken a record neither issues in that cycle (log entry 8, DEDUCED). -/
def Obligations.EventQueue : Prop :=
  ∀ (h : Ctl) (d ps : Nat) (wait : Bool) (s : State) (c : Ctx), Issues s (if wait then .evwait h d else .evpop h d ps) c →
    let i : Instr := if wait then .evwait h d else .evpop h d ps
    (c.any = false → ∃ t w', exec i s = .next t ∧ Done c t w' ∧ KeptAll c.w.regs w'.regs) ∧
    (c.any = true → ∀ q x rest, c.s.team c.w.team = some q → q.events = x :: rest → q.evReady ≠ 0 →
      (∀ k, q.evLast = some k → k ≤ c.w.ix) → c.s.noRecords c.w.team →
      ∃ t w' o, exec i s = .next t ∧ t.wave c.wk = some w' ∧ (∀ k, k ≠ c.wk → t.wave k = c.s.wave k) ∧ w'.regs = c.w.regs ∧
        (∀ k, w'.ctr k = if k = c.h.ctr ∧ k < 6 then c.w.ctr k + 1 else c.w.ctr k) ∧
        w'.slot c.slot = some (c.p.advance.issued c.h.stall) ∧ w'.slot (1 - c.slot) = c.w.slot (1 - c.slot) ∧
        t.op c.s.opSeq = some o ∧ o.finished = true ∧ t.mem = c.s.mem ∧ t.team c.w.team =
          some { q with events := rest, evOps := q.evOps.drop 1, evReady := q.evReady - 1, evLast := some c.w.ix } ∧
        ∀ g, (∀ l k, l < 32 → k < 4 → c.x.getLsbD l = true → Receives ((o.written g).vAt (d + k) l) ((o.written g).vBad (d + k) l)
            [c.guard l] (BitVec.ofNat 32 (x.toNat / 2 ^ (32 * k)))) ∧
          (wait = false → ps ≠ 7 → ∀ l, l < 32 → c.x.getLsbD l = true →
            ReceivesP ((o.written g).pAt ps l) ((o.written g).pBad ps l) [c.guard l] true) ∧
          Kept g (o.written g) (fun n l => d ≤ n ∧ n < d + 4 ∧ c.x.getLsbD l = true) (fun _ => False)
            (fun k l => wait = false ∧ k = ps ∧ k ≠ 7 ∧ c.x.getLsbD l = true)) ∧
    (c.any = true → (∃ k, c.team.evLast = some k ∧ c.w.ix < k) → exec i s = .next (c.s.block 0)) ∧
    (c.any = true → (c.team.events = [] ∨ c.team.evReady = 0) → (∀ k, c.team.evLast = some k → k ≤ c.w.ix) →
      (wait = true → exec i s = .next (c.s.block 14)) ∧
      (wait = false → ∃ t w' o, exec i s = .next t ∧ Posts c t w' o ∧ o.finished = true ∧
        ∀ g, (ps ≠ 7 → ∀ l, l < 32 → c.x.getLsbD l = true →
            ReceivesP ((o.written g).pAt ps l) ((o.written g).pBad ps l) [c.guard l] false) ∧
          (∀ l k, l < 32 → k < 4 → c.x.getLsbD l = true → (c.guard l).pois = true →
            (o.written g).vAt (d + k) l = (c.guard l).org ∧ (o.written g).vBad (d + k) l = true) ∧
          Kept g (o.written g) (fun n l => d ≤ n ∧ n < d + 4 ∧ c.x.getLsbD l = true ∧ (c.guard l).pois = true) (fun _ => False)
            (fun k l => k = ps ∧ k ≠ 7 ∧ c.x.getLsbD l = true)))

/-- The task forms hold their path until the table applies them (R276); what they captured. -/
def taskWords (c : Ctx) : Instr → Option (List DWord)
  | .tkdef _ x => some [(c.rdS x).val, (c.rdS (x + 1)).val, (c.rdS (x + 2)).val]
  | .tkdec _ i _ | .tkdone _ i => some [(c.rdS i).val]
  | .tkpull _ _ _ _ _ => some []
  | _ => none

/-- TKDEF, TKDEC, TKPULL and TKDONE (R253, R254, R276, Table 17-7): each waits on an operation, which the task table of the
wave's die then applies to the entry that it names. TKDEF defines a FREE entry, WAITING, or READY with a count of
0; TKDEC lowers the count of a WAITING entry, which is READY at 0; TKDONE frees a TAKEN entry, and then, step by
step, decrements its successors; TKPULL takes the first READY entry of its types, of the lowest priority number. On an entry in
another state they take TASK_STATE. -/
def Obligations.Tasks : Prop :=
  (∀ (s : State) (c : Ctx) (i : Instr) (ws : List DWord), taskWords c i = some ws → Issues s i c →
    (c.any = false → ∃ t w', exec i s = .next t ∧ Done c t w' ∧ KeptAll c.w.regs w'.regs) ∧
    (c.any = true → ∃ t w' o, exec i s = .next t ∧ GoesOn c t w' ∧ w'.regs = c.w.regs ∧ c.waitsOn w' c.s.opSeq ∧
      t.op c.s.opSeq = some o ∧ o.instr = i ∧ o.mask = c.x ∧ o.u = 0 :: ws ∧ t.dies = c.s.dies ∧ t.mem = c.s.mem)) ∧
  (∀ (s : State) (id : Nat) (o : Op) (w : Wave) (slow : Bool), Pending s id o w → o.finished = false → w.off = false →
    let e := Instr.variableResultCompletion id slow
    let v (k : Nat) : Nat := (o.u.getD (k + 1) 0).toNat
    let ix := v 0 % 2 ^ 14
    let x := s.task w.die ix
    let asid := (s.hdr w).asid
    let standsStill (t : State) : Prop := (∃ w', t.wave o.wave = some w' ∧ w' = { w with metFences := w'.metFences }) ∧
      ∀ k, k ≠ o.wave → t.wave k = s.wave k
    let fails (cause : Nat) : Prop := w.region = none → w.trap.pend = none → ∃ t, exec e s = .next t ∧
      TakesFault t o.wave fTaskState o.pc (BitVec.ofNat 64 (cause * 2 ^ 57 + ix)) ∧ ∀ k, t.task w.die k = s.task w.die k
    let gives (y : Task) : Prop := ∃ t w', exec e s = .next t ∧ Completed s t id o w w' ∧ w'.regs = w.regs ∧
      t.task w.die ix = y ∧ ∀ k, k ≠ ix → t.task w.die k = s.task w.die k
    (∀ h n, o.instr = .tkdef h n →
      (v 0 / 2 ^ 34 = 0 → v 2 / 2 ^ 56 = 0 → x.st = 0 → gives
        { arg := o.u.getD 2 0, count := v 0 / 2 ^ 14 % 2 ^ 16, asid := asid, ty := v 0 / 2 ^ 30 % 4, prio := v 0 / 2 ^ 32 % 4
          succ := [v 2 % 2 ^ 14, v 2 / 2 ^ 14 % 2 ^ 14, v 2 / 2 ^ 28 % 2 ^ 14, v 2 / 2 ^ 42 % 2 ^ 14]
          st := if v 0 / 2 ^ 14 % 2 ^ 16 = 0 then 2 else 1 }) ∧
      ((v 0 / 2 ^ 34 ≠ 0 ∨ v 2 / 2 ^ 56 ≠ 0) → fails 1) ∧
      (v 0 / 2 ^ 34 = 0 → v 2 / 2 ^ 56 = 0 → x.st ≠ 0 → fails (if x.asid = asid then 0 else 2))) ∧
    (∀ h i n, o.instr = .tkdec h i n →
      (x.st = 1 → x.asid = asid → 1 ≤ n → gives
        { x with count := x.count - n, under := x.under || decide (x.count < n), st := if x.count ≤ n then 2 else 1 }) ∧
      (x.st = 2 → x.asid = asid → 1 ≤ n → gives { x with under := true }) ∧
      ((x.st = 1 ∨ x.st = 2) → x.asid = asid → n = 0 → gives x) ∧
      ((x.st = 0 ∨ x.st = 3) → x.asid = asid → fails 0) ∧ (x.st ≠ 0 → x.asid ≠ asid → fails 2)) ∧
    (∀ h i, o.instr = .tkdone h i →
      (o.u.drop 2 = [] →
        (x.st = 3 → x.asid = asid → x.succs = [] → gives { x with st := 0 }) ∧
        (x.st = 3 → x.asid = asid → x.succs ≠ [] → ∃ t, exec e s = .next t ∧ standsStill t ∧ t.mem = s.mem ∧
          t.op id = some { o with u := o.u.take 2 ++ x.succs.map (BitVec.ofNat 64 ·) } ∧
          t.task w.die ix = { x with st := 0 } ∧ ∀ k, k ≠ ix → t.task w.die k = s.task w.die k) ∧
        (x.st ≠ 3 → x.asid = asid → fails 0) ∧ (x.st ≠ 0 → x.asid ≠ asid → fails 2)) ∧
      (∀ k ks, o.u.drop 2 = k :: ks → k.toNat ≠ 0x3FFF →
        let y := s.task w.die k.toNat
        ∃ t, exec e s = .next t ∧ (∀ j, j ≠ k.toNat → t.task w.die j = s.task w.die j) ∧
          (y.st = 1 → t.task w.die k.toNat =
            { y with count := y.count - 1, under := y.under || decide (y.count < 1), st := if y.count ≤ 1 then 2 else 1 }) ∧
          (y.st ≠ 1 → t.task w.die k.toNat = { y with under := true }) ∧
          (ks = [] → ∃ w', Completed s t id o w w' ∧ w'.regs = w.regs) ∧
          (ks ≠ [] → standsStill t ∧ t.op id = some { o with u := o.u.take 2 ++ ks }))) ∧
    (∀ h wait d ps types, o.instr = .tkpull h wait d ps types →
      (∀ k y, pullPick (s.die w.die).tasks asid types = some (k, y) → d < 64 → d + 1 < 64 → ∃ t w', exec e s = .next t ∧
        Completed s t id o w w' ∧ t.task w.die k = { y with st := 3 } ∧ (∀ j, j ≠ k → t.task w.die j = s.task w.die j) ∧
        w'.regs.sAt d = BitVec.ofNat 64 (k + y.ty * 2 ^ 14 + y.prio * 2 ^ 16) ∧ w'.regs.sAt (d + 1) = y.arg ∧
        (ps ≠ 7 → ∀ l, l < 32 → o.mask.getLsbD l = true → w'.regs.pAt ps l = true ∧ w'.regs.pBad ps l = false) ∧
        Kept w.regs w'.regs (fun _ _ => False) (fun n => n = d ∨ n = d + 1)
          (fun p l => p = ps ∧ p ≠ 7 ∧ o.mask.getLsbD l = true)) ∧
      (pullPick (s.die w.die).tasks asid types = none → wait = true → exec e s = .next s) ∧
      (pullPick (s.die w.die).tasks asid types = none → wait = false → ∃ t w', exec e s = .next t ∧
        Completed s t id o w w' ∧ (ps ≠ 7 → ∀ l, l < 32 → o.mask.getLsbD l = true → w'.regs.pAt ps l = false) ∧
        Kept w.regs w'.regs (fun _ _ => False) (fun _ => False) (fun p l => p = ps ∧ p ≠ 7 ∧ o.mask.getLsbD l = true) ∧
        ∀ j, t.task w.die j = s.task w.die j)))

/-- ACCALLOC, ACCFREE and OPRFENCE (R235, R244, R264-R266): ACCALLOC on a tile that the team holds, or that is free,
completes with a true predicate, the free one granted; on another team's tile .TRY completes with a false one,
and the blocking form is posted and waits for the tile. ACCFREE gives the tile up, and takes ACC_STATE on one
that the team does not hold. OPRFENCE does not issue while a write that it waits for is pending, of those that issued before the cycle in which it could issue itself. -/
def Obligations.Accumulators : Prop :=
  (∀ (h : Ctl) (try_ : Bool) (ps acc : Nat) (s : State) (c : Ctx), Issues s (.accalloc h try_ ps acc) c →
    let a := c.s.acc c.ck acc
    let answers (ok : Bool) (t : State) : Prop := ∃ w' o, GoesOn c t w' ∧ w'.regs = c.w.regs ∧
      w'.slot c.slot = some (c.p.advance.issued c.h.stall) ∧ (∃ k, t.op k = some o ∧ o.finished = true ∧ o.ctr = c.h.ctr) ∧
      ∀ g, PredOf c g (o.written g) ps (fun _ => []) (fun _ => ok)
    (c.any = false → ∃ t w', exec (.accalloc h try_ ps acc) s = .next t ∧ Done c t w' ∧ KeptAll c.w.regs w'.regs) ∧
    (c.any = true → c.holds acc = true → ∃ t, exec (.accalloc h try_ ps acc) s = .next t ∧ answers true t ∧ t.cores = c.s.cores) ∧
    (c.any = true → c.holds acc = false → a.holder = none → ∃ t, exec (.accalloc h try_ ps acc) s = .next t ∧ answers true t ∧
      (t.acc c.ck acc).holder = some c.w.team ∧ (t.acc c.ck acc).freeing = false ∧ (t.acc c.ck acc).cells = [] ∧
      ∀ n, n ≠ acc → t.acc c.ck n = c.s.acc c.ck n) ∧
    (c.any = true → c.holds acc = false → a.holder ≠ none → try_ = true → ∃ t, exec (.accalloc h try_ ps acc) s = .next t ∧
      answers false t ∧ t.cores = c.s.cores) ∧
    (c.any = true → c.holds acc = false → a.holder ≠ none → try_ = false → (∀ n, (c.s.acc c.ck n).waiters = []) →
      c.wk / 32 = c.w.team →
      ∃ t w' o, exec (.accalloc h try_ ps acc) s = .next t ∧ GoesOn c t w' ∧ w'.regs = c.w.regs ∧
        w'.slot c.slot = some (c.p.advance.issued c.h.stall) ∧ t.op c.s.opSeq = some o ∧ o.finished = false ∧
        t.acc c.ck acc = { a with waiters := [c.s.opSeq] } ∧ ∀ n, n ≠ acc → t.acc c.ck n = c.s.acc c.ck n)) ∧
  (∀ (h : Ctl) (acc : Nat) (s : State) (c : Ctx), Issues s (.accfree h acc) c →
    let a := c.s.acc c.ck acc
    (c.any = false → ∃ t w', exec (.accfree h acc) s = .next t ∧ Done c t w' ∧ KeptAll c.w.regs w'.regs) ∧
    (c.any = true → c.holds acc = false → exec (.accfree h acc) s = .next (c.fault fAccState 0 0 (BitVec.ofNat 64 acc))) ∧
    (c.any = true → c.holds acc = true → (∃ x ∈ c.s.ops, x.2.wave / 32 = c.w.team ∧ x.2.namesAcc acc = true ∧ x.2.finished = false) →
      ∃ t w', exec (.accfree h acc) s = .next t ∧ t.wave c.wk = some w' ∧ Moves c w' ∧ w'.regs = c.w.regs ∧
        t.acc c.ck acc = { a with freeing := true } ∧ t.ops = c.s.ops ∧ ∀ n, n ≠ acc → t.acc c.ck n = c.s.acc c.ck n) ∧
    (c.any = true → c.holds acc = true → (∀ x ∈ c.s.ops, x.2.wave / 32 = c.w.team → x.2.namesAcc acc = true → x.2.finished = true) → a.waiters = [] →
      ∃ t w', exec (.accfree h acc) s = .next t ∧ t.wave c.wk = some w' ∧ Moves c w' ∧ w'.regs = c.w.regs ∧
        (t.acc c.ck acc).holder = none ∧ t.ops = c.s.ops ∧ ∀ n, n ≠ acc → t.acc c.ck n = c.s.acc c.ck n)) ∧
  (∀ (h : Ctl) (s : State) (c : Ctx), Issues s (.oprfence h) c →
    (c.any = false → ∃ t w', exec (.oprfence h) s = .next t ∧ Done c t w' ∧ KeptAll c.w.regs w'.regs) ∧
    (c.any = true → (∃ x ∈ c.s.ops, x.1 < c.p.fence.getD c.s.cycleOp ∧ c.oprWrite x.2 = true) → exec (.oprfence h) s =
      .next ((c.s.modWave c.wk fun w => w.setSlot c.slot ((w.slot c.slot).map fun p =>
        { p with fence := some (p.fence.getD c.s.cycleOp) })).block 11)) ∧
    (c.any = true → (∀ x ∈ c.s.ops, x.1 < c.p.fence.getD c.s.cycleOp → c.oprWrite x.2 = false) → ∃ t w', exec (.oprfence h) s = .next t ∧
      GoesOn c t w' ∧ w'.regs = c.w.regs ∧ w'.slot c.slot = some (c.p.advance.issued c.h.stall) ∧
      w'.oprStamp = c.s.stamp ∧ w'.oprSeen = c.w.seen ∧ t = { c.s with waves := t.waves }))

/-! ## Relaxation -/

/-- What a configuration form makes of the configuration (R320), when it is accepted. -/
def configured (c : Ctx) (i : Instr) (r : RlxCfg) : Option RlxCfg :=
  let g (x : GSrc) : Nat := match x with | .hold => 0 | .prev => 1 | .supplied => 2
  let fresh : RlxCfg := { r with ranges := [], streams := [], area := none, areaPois := false }
  match i with
  | .rlxcfg _ dense src cluster limit t => some { fresh with
      dense := dense, src := g src, cluster := cluster, t := BitVec.ofNat 32 t, tPois := false, limit := BitVec.ofNat 32 limit
      limitPois := false }
  | .rlxcfgReg _ dense src cluster sl st => some { fresh with
      dense := dense, src := g src, cluster := cluster, t := (c.rdS st).val.setWidth 32, tPois := (c.rdS st).pois
      limit := (c.rdS sl).val.setWidth 32, limitPois := (c.rdS sl).pois }
  | .rlxcfgTol _ sa sb => some { r with
      tolabs := (c.rdS sa).val.setWidth 32, tolabsPois := (c.rdS sa).pois, tolrel := (c.rdS sb).val.setWidth 32
      tolrelPois := (c.rdS sb).pois }
  | .rlxst _ r0 r1 r2 r3 =>
      if rlxRangesBad c.hdr.v [r0, r1, r2, r3] then none
      else some { r with ranges := [r0, r1, r2, r3].filter fun x => x ≠ ⟨0xFF, 0⟩ }
  | .rlxin _ d a off stride =>
      let b := c.rdS a
      let t : Stream := ⟨d, if b.pois then b.org.setWidth 64 else b.val + off.signExtend 64, stride, b.pois⟩
      if r.streams.any (fun x => x.reg == d) then some { r with streams := r.streams.map fun x => if x.reg = d then t else x }
      else if r.streams.length < 8 then some { r with streams := r.streams ++ [t] } else none
  | .rlxgs _ true _ _ => some { r with area := none, areaPois := false }
  | .rlxgs _ false a off =>
      let b := c.rdS a
      if b.pois then some { r with area := some (b.org.setWidth 64), areaPois := true }
      else if (b.val + off.signExtend 64).toNat % 64 = 0 then some { r with area := some (b.val + off.signExtend 64), areaPois := false }
      else none
  | _ => none

/-- The configuration forms. -/
def isConfig : Instr → Bool
  | .rlxcfg .. | .rlxcfgReg .. | .rlxcfgTol .. | .rlxst .. | .rlxin .. | .rlxgs .. => true
  | _ => false

/-- The relaxation registers as RLXQ reads them (Table 22-1). -/
def rlxFields (w : Wave) : List Word :=
  let r := w.rlxRegs
  let c := w.rlx
  [BitVec.ofNat 32 (r.code + 16 * r.srcUsed), BitVec.ofNat 32 r.settled, BitVec.ofNat 32 r.passes, r.resid, c.tolabs, c.tolrel,
    BitVec.ofNat 32 (c.streams.length * 2 ^ 17 + c.regs.length * 2 ^ 9 + (if c.area.isSome then 2 ^ 8 else 0)
      + (if c.cluster then 2 ^ 7 else 0) + c.src * 2 ^ 5 + if c.dense then 2 ^ 4 else 0),
    c.t, c.limit, if r.code = 1 ∨ r.code = 2 then 1 else 0]

/-- RLXCFG, RLXCFG.TOL, RLXST, RLXIN, RLXGS and RLXQ (R320, R326): a configuration form with an executing lane changes its
wave's configuration as R320 says, or takes RLX_STATE (RLXGS MISALIGNED); with none it only counts. RLXQ reads
Table 22-1. -/
def Obligations.RelaxConfigure : Prop :=
  (∀ (i : Instr) (s : State) (c : Ctx), isConfig i = true → Issues s i c →
    (c.any = false → ∃ t w', exec i s = .next t ∧ Done c t w' ∧ KeptAll c.w.regs w'.regs) ∧
    (c.any = true → ∀ r, configured c i c.w.rlx = some r → ∃ t w', exec i s = .next t ∧ GoesOn c t w' ∧ w'.regs = c.w.regs ∧
      w'.slot c.slot = some (c.p.advance.issued c.h.stall) ∧ w'.rlx = r ∧ t = { c.s with waves := t.waves }) ∧
    (c.any = true → configured c i c.w.rlx = none →
      (∃ h r0 r1 r2 r3, i = .rlxst h r0 r1 r2 r3 ∧ exec i s = .next (c.fault fRlxState 0 0 (BitVec.ofNat 64 (4 * 2 ^ 57)))) ∨
      (∃ h d a f x, i = .rlxin h d a f x ∧ exec i s = .next (c.fault fRlxState 0 0 (BitVec.ofNat 64 (5 * 2 ^ 57)))) ∨
      (∃ h a f, i = .rlxgs h false a f ∧ exec i s = .next (c.fault fMisaligned 0 ((c.rdS a).val + f.signExtend 64))))) ∧
  (∀ (h : Ctl) (sel : Nat), sel ≤ 9 →
    (∀ n, CompletesWith (.rlxq h sel (.v n)) fun c g g' => LanesOf c g g' n (fun _ => []) fun _ => (rlxFields c.w).getD sel 0) ∧
    (∀ n, n < 64 → CompletesWith (.rlxq h sel (.s n)) fun c g g' =>
      UniformOf c g g' n [] (((rlxFields c.w).getD sel 0).setWidth 64)) ∧
    ∀ k, CompletesWith (.rlxq h sel (.p k)) fun c g g' => PredOf c g g' k (fun _ => []) fun _ => ((rlxFields c.w).getD sel 0).getLsbD 0)

/-- RLXSEED (R321): where no condition of RLX_STATE cause 7 holds it posts a store of the state's words for each executing lane
that has a step, at the step's place in the area, a poisoned value as the canonical NaN; with no such lane it
completes at once. -/
def Obligations.RelaxSeed : Prop :=
  ∀ (h : Ctl) (src j : Nat) (s : State) (c : Ctx), Issues s (.rlxseed h src j) c →
    let r := c.w.rlx
    let n := r.regs.length
    (c.any = false → ∃ t w', exec (.rlxseed h src j) s = .next t ∧ Done c t w' ∧ KeptAll c.w.regs w'.regs) ∧
    (c.any = true → c.seedBad src j = true →
      exec (.rlxseed h src j) s = .next (c.fault fRlxState 0 0 (BitVec.ofNat 64 (7 * 2 ^ 57)))) ∧
    (c.any = true → c.seedBad src j = false →
      ((∀ l, l < 32 → c.x.getLsbD l = true → c.seedStep j l = none ∨ c.doomed.getLsbD l = true) →
        ∃ t w', exec (.rlxseed h src j) s = .next t ∧ t.wave c.wk = some w' ∧ MovesNow c w' ∧ w'.regs = c.w.regs ∧
          Elsewhere c.s t c.wk) ∧
      (∀ g : Nat → Nat → List Seg, (∃ l, l < 32 ∧ c.x.getLsbD l = true ∧ c.seedStep j l ≠ none ∧ c.doomed.getLsbD l = false) →
        (∀ l k, l < 32 → k < n → c.x.getLsbD l = true → c.doomed.getLsbD l = false → ∀ t, c.seedStep j l = some t →
          c.s.aperture c.w l (r.area.getD 0 + BitVec.ofNat 64 (64 + 4 * (n * t)) + BitVec.ofNat 64 (4 * k)) 4
            (if (tget c.w.tx l {}).active then .txStore else .store) = .ok (g l k)) →
        ∃ t w' o, exec (.rlxseed h src j) s = .next t ∧ PostsAccess c t w' o ∧
          ∀ l, l < 32 → (o.todo.getLsbD l = true ↔ c.x.getLsbD l = true ∧ c.seedStep j l ≠ none ∧ c.doomed.getLsbD l = false) ∧
            ∀ t, c.x.getLsbD l = true → c.doomed.getLsbD l = false → c.seedStep j l = some t →
              o.addr l = r.area.getD 0 + BitVec.ofNat 64 (64 + 4 * (n * t)) ∧ o.seg l = (List.range n).flatMap (g l) ∧
              tget o.data l [] = (List.range n).map fun k =>
                if (c.rdV (src + k) l).pois then BitVec.ofNat 32 0x7FC00000 else (c.rdV (src + k) l).word))

/-- RLXBEG (R293-R297, R323): outside the whole wave it takes RLX_STATE; while a participant is not at its own it waits and
changes no register; when its wave is the region's one participant, with an accepted configuration of source
HOLD without streams, pass 1 begins: every step's state registers hold x(0), and the path goes on. -/
def Obligations.RelaxBegin : Prop :=
  ∀ (h : Ctl) (s : State) (c : Ctx), Issues s (.rlxbeg h) c →
    ((c.p.mask ≠ c.w.live ∨ c.x ≠ c.w.live) → exec (.rlxbeg h) s = .next (c.fault fRlxState 0 0 (BitVec.ofNat 64 (2 * 2 ^ 57)))) ∧
    (c.p.mask = c.w.live → c.x = c.w.live → c.guardPois = 0 → c.s.rlxGone c.w = false →
      ((∃ p ∈ c.s.rlxParts c.w, p ≠ c.wk ∧ c.s.begOp p = none) → ∃ t w', exec (.rlxbeg h) s = .next t ∧ t.wave c.wk = some w' ∧
        w'.regs = c.w.regs ∧ (∀ k, w'.ctr k = c.w.ctr k) ∧ w'.slot c.slot = some { c.p with wait := .op c.s.opSeq, blk := none } ∧
        t.regions = c.s.regions ∧ (∃ o, t.op c.s.opSeq = some o ∧ o.instr = .rlxbeg h) ∧ ∀ k, k ≠ c.wk → t.wave k = c.s.wave k) ∧
      (c.s.rlxParts c.w = [c.wk] → c.s.begOp c.wk = none → c.w.parked = [] → c.w.trap.pend = none → c.w.off = false →
        c.w.rlx.bad (c.s.rlxP c.w c.w.rlx.cluster) = none → c.s.rlxOrigin c.w = none → c.s.partOpen [c.wk] = false →
        c.w.rlx.streams = [] → c.w.rlx.src = 0 →
        ∃ t w' r, exec (.rlxbeg h) s = .next t ∧ t.wave c.wk = some w' ∧ w'.region = some c.wk ∧ tfind t.regions c.wk = some r ∧
          r.cfg = c.w.rlx ∧ r.tSteps = c.w.rlx.t.toNat ∧ r.pass = 1 ∧ r.x0 = c.w.rlx.regs.map (fun n => c.s.readV c.w n 0) ∧
          w'.rlxRegs.passes = 0 ∧ w'.rlxRegs.settled = 0 ∧ w'.rlxRegs.resid = 0 ∧
          (∀ k, w'.ctr k = if k = h.ctr ∧ k < 6 then c.w.ctr k + 1 else c.w.ctr k) ∧
          ∀ l, l < 32 → c.p.mask.getLsbD l = true → (c.s.stepAt r c.w 0 l).isSome = true →
            ∀ n ∈ c.w.rlx.regs, w'.regs.vAt n l = c.s.readV c.w n 0 ∧ w'.regs.vBad n l = false))

/-- RLXEND and PASS_END (R288-R290, R299-R305, R310, R324): RLXEND takes RLX_STATE without a region, and waits until every lane
of the evaluation has arrived, with its results noted. PASS_END waits for every participant; a pass that ends
the region gives each participant the result and takes it past its RLXEND, and any other one begins the next
pass. -/
def Obligations.RelaxEnd : Prop :=
  (∀ (h : Ctl) (s : State) (c : Ctx), Issues s (.rlxend h) c →
    (c.w.region = none → exec (.rlxend h) s = .next (c.fault fRlxState 0 0 (BitVec.ofNat 64 (6 * 2 ^ 57)))) ∧
    (∀ rk r q, c.w.region = some rk → tfind c.s.regions rk = some r → r.parts.find? (fun q => q.wave = c.wk) = some q →
      (∀ o ∈ c.s.opsOf c.wk, o.2.inBody = true → ∃ h', o.2.instr = .rlxend h') → c.w.haz = [] → c.guardPois = 0 →
      (∀ l, l < 32 → c.p.mask.getLsbD l = true → ∀ n ∈ r.cfg.regs, (c.rdV n l).pois = false) →
      (q.arrived ||| c.p.mask) &&& c.s.evalMask r c.w q q.eval ≠ c.s.evalMask r c.w q q.eval →
      ∃ t w' r' q', exec (.rlxend h) s = .next t ∧ t.wave c.wk = some w' ∧ w'.regs = c.w.regs ∧
        w'.slot c.slot = some { c.p with wait := .op c.s.opSeq, blk := none } ∧ tfind t.regions rk = some r' ∧
        r'.parts.find? (fun q => q.wave = c.wk) = some q' ∧ q'.arrived = q.arrived ||| c.p.mask ∧ r'.pass = r.pass ∧
        r'.guess = r.guess ∧ ∀ l k, l < 32 → c.p.mask.getLsbD l = true → c.stepOf l = some k →
          (tget r'.evals k {}).arrived = true ∧ (tget r'.evals k {}).y = r.cfg.regs.map fun n => (c.rdV n l).word)) ∧
  (∀ (s : State) (rk : Nat) (r : Region), tfind s.regions rk = some r → r.restart = false →
    (r.parts.all Participant.done = false → exec (.passEnd rk) s = .next s) ∧
    (r.parts.all Participant.done = true → (∀ q ∈ r.parts, ∀ w, s.wave q.wave = some w → w.parked = [] ∧ w.trap.pend = none) →
      (r.parts.map Participant.wave).Nodup →
      (∀ code n, r.passEnd.ends = some (code, n) → r.committed code n = [] → r.cfg.area = none → r.cfg.regs.Nodup →
        (r.final r.passEnd code n).length = r.cfg.regs.length →
        ∃ t, exec (.passEnd rk) s = .next t ∧ tfind t.regions rk = none ∧ t.mem = s.mem ∧
          ∀ q ∈ r.parts, ∀ w, s.wave q.wave = some w → ∃ w', t.wave q.wave = some w' ∧ w'.region = none ∧
            w'.rlxRegs.code = code ∧ w'.rlxRegs.settled = n ∧ w'.rlxRegs.passes = r.pass ∧ w'.stack = q.stack ∧ w'.slot1 = none ∧
            (∀ k, w'.ctr k = if k = q.endCtl.ctr ∧ k < 6 then w.ctr k + 1 else w.ctr k) ∧
            (∀ l k m, l < 32 → q.start.mask.getLsbD l = true → r.cfg.regs[k]? = some m →
              w'.regs.vAt m l = BitVec.ofNat 32 ((r.final r.passEnd code n).getD k 0) ∧ w'.regs.vBad m l = false) ∧
            Kept w.regs w'.regs (fun m l => m ∈ r.cfg.regs ∧ q.start.mask.getLsbD l = true) (fun _ => False) (fun _ _ => False)) ∧
      (r.passEnd.ends = none → ∃ t r', exec (.passEnd rk) s = .next t ∧ tfind t.regions rk = some r' ∧ r'.pass = r.pass + 1 ∧
        (∀ k i, k < r.passEnd.guess.length → i < r.c → r.x0.length = r.c → (∀ g ∈ r.passEnd.guess, g.length = r.c) →
          tget r'.guess (r.c * (k + 1) + i) 0 = BitVec.ofNat 32 ((r.passEnd.guess.getD k []).getD i 0)) ∧
        t.mem = s.mem)))

/-! ## The Gauge unit and the basin -/

/-- GCFG, GPERM, GADD, GTEST and GQ (R332, R337, R353-R358): GPERM posts the permuted rank; GCFG posts the load of a block,
which replaces the wave's context when it is acceptable; GADD and GTEST take GAUGE_STATE in a launch that does
not estimate, else they wait for the status of each lane's rank, which they then write; GQ reads its register of
Table 25-1 when it completes. -/
def Obligations.GaugeForms : Prop :=
  (∀ (h : Ctl) (d : Nat) (a : Src) (s : State) (c : Ctx), Issues s (.gperm h d a) c →
    (c.any = true → ∃ t w' o, exec (.gperm h d a) s = .next t ∧ Posts c t w' o ∧ o.finished = true ∧
      ∀ g, LanesOf c g (o.written g) d (fun l => [c.rd a l]) fun l =>
        let r := (c.rd a l).word.toNat
        let x := c.w.gctx
        if x.n.toNat ≤ r then 0xFFFFFFFF
        else if x.gen = 1 then BitVec.ofNat 32 ((x.a.toNat * r + x.c.toNat) % x.n.toNat)
        else BitVec.ofNat 32 (feistelWalk x.n.toNat (halfWidth x.n.toNat) x.seed.toNat (4 * x.n.toNat + 4) r)) ∧
    (c.any = false → ∃ t w', exec (.gperm h d a) s = .next t ∧ Done c t w' ∧ KeptAll c.w.regs w'.regs)) ∧
  (∀ (h : Ctl) (ps a : Nat) (off : Word) (s : State) (c : Ctx), Issues s (.gcfg h ps a off) c →
    let x := (c.rdS a).val + off.signExtend 64
    let place := c.s.aperture c.w (lowest c.x) x 64 .load
    (c.any = false → ∃ t w', exec (.gcfg h ps a off) s = .next t ∧ Done c t w' ∧ KeptAll c.w.regs w'.regs) ∧
    (c.any = true → ∀ g, place = .ok g → ∃ t w' o, exec (.gcfg h ps a off) s = .next t ∧ PostsAccess c t w' o ∧
      o.todo = laneBit (lowest c.x) ∧ o.addr (lowest c.x) = x ∧ o.seg (lowest c.x) = g ∧ o.mask = c.x) ∧
    (c.any = true → ∀ e, place = .error e → exec (.gcfg h ps a off) s = .next (c.fault e (laneBit (lowest c.x)) x))) ∧
  (∀ (s : State) (id : Nat) (o : Op) (w : Wave) (l : Nat) (again : Bool) (h : Ctl) (ps a : Nat) (off : Word) (g : Place),
    Turn s id o w l again false → o.instr = .gcfg h ps a off → o.todo = laneBit l → o.seg l = [⟨g, 64⟩] → o.writes = [] →
    let x := contextOf (s.bytesAt w.ck g 64)
    ∃ t w' r, exec (performStep again false id l) s = .next t ∧ Performed s t id o (laneBit l) r ∧ t.wave o.wave = some w' ∧
      w'.gctx = x.getD w.gctx ∧ (∀ b, memGet t.mem b = memGet (s.roomFor w.ck g).mem b) ∧
      (ps ≠ 7 → ∀ k, k < 32 → o.mask.getLsbD k = true → r.pAt ps k = x.isSome ∧ r.pBad ps k = false) ∧
      Kept w.regs r (fun _ _ => False) (fun _ => False) (fun p k => p = ps ∧ p ≠ 7 ∧ o.mask.getLsbD k = true)) ∧
  (∀ (i : Instr) (s : State) (c : Ctx), ((∃ h ps a, i = .gadd h ps a) ∨ ∃ h pd, i = .gtest h pd) → Issues s i c →
    (c.any = false → ∃ t w', exec i s = .next t ∧ Done c t w' ∧ KeptAll c.w.regs w'.regs) ∧
    (c.any = true → c.s.estOf c.w = none → exec i s = .next (c.fault fGaugeState)) ∧
    (c.any = true → c.s.estOf c.w ≠ none → ∃ t w' o, exec i s = .next t ∧ Pends c t w' o ∧ w'.regs = c.w.regs ∧
      o.finished = false ∧ (∀ d, d ≠ c.w.die → t.die d = c.s.die d) ∧
      (∀ h ps a l, i = .gadd h ps a → l < 32 → c.x.getLsbD l = true → tget o.data l [] = [(c.rd a l).word] ∧
        let g := (c.s.die c.w.die).gauge
        let r := c.s.rank c.w l
        ((∀ y ∈ c.s.opsOf c.wk, (∃ h p b, y.2.instr = .gadd h p b) → y.2.todo.getLsbD l = false) →
          c.s.gaugeServes c.w = true → g.st = 0 → ¬ g.known r → r ∉ g.taken → r < g.low + 65536 →
          tfind (t.die c.w.die).gauge.window r = some (sample64 (c.rd a l).word))) ∧
      ∀ h pd, i = .gtest h pd → t.dies = c.s.dies)) ∧
  (∀ (s : State) (id : Nat) (o : Op) (w : Wave) (slow : Bool) (k : Nat), Pending s id o w → o.finished = false →
    ((∃ h a, o.instr = .gadd h k a) ∨ ∃ h, o.instr = .gtest h k) →
    let g := (s.die w.die).gauge
    ((∀ l, l < 32 → o.mask.getLsbD l = true → g.known (s.rank w l)) →
      ∃ t w', exec (.variableResultCompletion id slow) s = .next t ∧ Ended s t id o w w' ∧
        (k ≠ 7 → ∀ l, l < 32 → o.mask.getLsbD l = true → (w'.regs.pAt k l = true ↔ g.took (s.rank w l)) ∧ w'.regs.pBad k l = false) ∧
        Kept w.regs w'.regs (fun _ _ => False) (fun _ => False) (fun p l => p = k ∧ p ≠ 7 ∧ o.mask.getLsbD l = true)) ∧
    ((∃ l, l < 32 ∧ o.mask.getLsbD l = true ∧ ¬ g.known (s.rank w l)) →
      ∃ t, exec (.variableResultCompletion id slow) s = .next t ∧ t.waves = s.waves ∧ t.ops = s.ops ∧ t.mem = s.mem)) ∧
  (∀ (h : Ctl) (sel : Nat) (d : Dst) (V ver : Nat), (Instr.gq h sel d).wf V ver = true →
    (∀ (s : State) (c : Ctx), Issues s (.gq h sel d) c →
      (c.any = false → ∃ t w', exec (.gq h sel d) s = .next t ∧ Done c t w' ∧ KeptAll c.w.regs w'.regs) ∧
      (c.any = true → ∃ t w' o, exec (.gq h sel d) s = .next t ∧ Pends c t w' o ∧ w'.regs = c.w.regs ∧ o.finished = false ∧
        o.writes = c.res64 d (fun _ => []) (fun _ => 0) ∧ t.dies = c.s.dies)) ∧
    ∀ (s : State) (id : Nat) (o : Op) (w : Wave) (slow : Bool) (c : Ctx), Standing s id o w → o.instr = .gq h sel d →
      o.finished = false → c.any = true → o.writes = c.res64 d (fun _ => []) (fun _ => 0) →
      let x : DWord := if sel = 10 then BitVec.ofNat 64 (w.gctx.gen * 2 ^ 32 + w.gctx.n.toNat) else if sel = 11 then w.gctx.seed
        else if sel = 12 then BitVec.ofNat 64 (w.gctx.a.toNat * 2 ^ 32 + w.gctx.c.toNat)
        else match s.estOf w with
          | some e => (gaugeFields (s.die w.die).gauge e).getD sel 0
          | none => if sel = 6 then 0x3FFFFFFFF else 0
      ∃ t w', exec (.variableResultCompletion id slow) s = .next t ∧ Ended s t id o w w' ∧
        LaneResult64 c w.regs w'.regs d (fun _ => []) (fun _ => x))

/-- GAUGE_MERGE with no sample that waits for room (R331, R333, R338): the sample of the lowest open rank is merged by the
recurrence in binary64, or a rank that has ended without one is passed over; at a rank where a check is due the
half-width is taken, and the first check that passes fixes the stop; when every rank is closed the merge is
exhausted. -/
def Obligations.GaugeMerge : Prop :=
  ∀ (s : State) (d lk : Nat) (L : Launch) (e : EstBlock), (s.die d).gauge.launch = some lk → s.launch lk = some L →
    L.est = some e → L.aborted = none → (∀ o ∈ s.ops, ∀ h p a, o.2.instr ≠ .gadd h p a) → (s.die d).gauge.st = 0 →
    let g := (s.die d).gauge
    let q (n : Nat) : Nat := fp64.roundFrac .rn false (Frac.ofInt n)
    let n := g.low + 1
    /- the unit once rank n − 1 is closed with count, mean and sum of squares `k`, `m` and `m2` -/
    let closes (u : GaugeUnit) (k m m2 : Nat) : Prop :=
      let due := e.nmin ≤ n ∧ (n - e.nmin) % e.stride = 0 ∧ n ≤ e.n
      let hw := fp64.mul e.z.toNat (fp64.sqrt (fp64.div (fp64.div (BitVec.ofNat 64 m2).toNat
        (fp64.roundFrac .rn false (Frac.ofInt ((k : Int) - 1)))) (q n)))
      let pass := due ∧ 2 ≤ k ∧ (le64 hw e.tol.toNat = true ∨ le64 hw (fp64.mul e.tolrel.toNat (m % 2 ^ 63)) = true)
      u.low = n ∧ u.c = k ∧ u.mean = BitVec.ofNat 64 m ∧ u.m2 = BitVec.ofNat 64 m2 ∧
      (due → u.hw = some (BitVec.ofNat 64 hw)) ∧ (¬ due → u.hw = g.hw) ∧
      (pass → u.st = 1 ∧ u.nstop = n) ∧ (¬ pass → u.st = (if e.n ≤ n then 2 else 0) ∧ u.nstop = g.nstop)
    (∀ x, tfind g.window g.low = some x → ∃ t, exec (.gaugeMerge d) s = .next t ∧ t.mem = s.mem ∧
      (∀ k, k ≠ d → (t.die k).gauge = (s.die k).gauge) ∧ (t.die d).gauge.merged = g.merged ++ [g.low] ∧
      tfind (t.die d).gauge.window g.low = none ∧
      let m' := fp64.add g.mean.toNat (fp64.div (fp64.sub x.toNat g.mean.toNat) (q (g.c + 1)))
      closes (t.die d).gauge (g.c + 1) m'
        (fp64.add g.m2.toNat (fp64.mul (fp64.sub x.toNat g.mean.toNat) (fp64.sub x.toNat m')))) ∧
    (tfind g.window g.low = none → g.low ∈ g.closed → ∃ t, exec (.gaugeMerge d) s = .next t ∧ t.mem = s.mem ∧
      (∀ k, k ≠ d → (t.die k).gauge = (s.die k).gauge) ∧ (t.die d).gauge.merged = g.merged ∧
      closes (t.die d).gauge g.c g.mean.toNat g.m2.toNat) ∧
    (tfind g.window g.low = none → g.low ∉ g.closed → ∃ t, exec (.gaugeMerge d) s = .next t ∧ (t.die d).gauge = g ∧
      t.waves = s.waves ∧ t.mem = s.mem)

/-- BNEW, HDROP, HMOV, HCPY and HQRY (R346-R350, R362, R363, R367): BNEW creates an OPEN tile at the lowest FREE entry and gives
a fill and a see handle to two empty registers, or writes a false predicate when no entry or no storage is left;
HMOV moves a handle, HCPY copies a see handle and counts it; HDROP empties its register and, of a tile of its
own die, seals the tile or takes one from its see count; HQRY reads a handle and the state of its tile. -/
def Obligations.BasinRegisters : Prop :=
  (∀ (h : Ctl) (hf hs ps : Nat) (size : BSize) (s : State) (c : Ctx), Issues s (.bnew h hf hs ps size) c →
    let n := match size with | .imm x => x.toNat | .reg r => (c.rdS r).val.toNat % 2 ^ 32
    let d := c.s.die c.w.die
    let i : Instr := .bnew h hf hs ps size
    (c.any = false → ∃ t w', exec i s = .next t ∧ Done c t w' ∧ KeptAll c.w.regs w'.regs) ∧
    (c.any = true → (n = 0 ∨ n % 64 ≠ 0 ∨ 2 ^ 20 < n) → exec i s = .next (c.fault fBasinSize 0 0 (BitVec.ofNat 64 n))) ∧
    (c.any = true → n ≠ 0 → n % 64 = 0 → n ≤ 2 ^ 20 →
      (hf = hs ∨ c.w.regs.hAt hf ≠ 0 → exec i s = .next (c.fault fBasinReg 0 0 (BitVec.ofNat 64 hf))) ∧
      (hf ≠ hs → c.w.regs.hAt hf = 0 → c.w.regs.hAt hs ≠ 0 → exec i s = .next (c.fault fBasinReg 0 0 (BitVec.ofNat 64 hs))) ∧
      (hf ≠ hs → c.w.regs.hAt hf = 0 → c.w.regs.hAt hs = 0 →
        (∀ k, k < 65536 → (∀ j, j < k → (c.s.tile c.w.die j).st ≠ 0) → (c.s.tile c.w.die k).st = 0 →
          c.s.poolPages + tilePages n ≤ c.s.boot.poolPages →
          (c.s.poolShut = true → exec i s = .next (c.fault fKeyEmpty 0 0)) ∧
          (c.s.poolShut = false → ∃ t w' o, exec i s = .next t ∧ Pends c t w' o ∧ o.finished = true ∧
          let gen := (c.s.tile c.w.die k).gen
          let name (kind : Nat) : HWord := mkHandle kind c.hdr.asid c.w.die gen k n
          w'.regs.hAt hf = name 1 ∧ w'.regs.hAt hs = name 2 ∧
          KeptBut c.w.regs w'.regs (fun r => r = hf ∨ r = hs) (fun _ _ => False) ∧
          t.tile c.w.die k = { st := 1, gen := gen, asid := c.hdr.asid, size := n, sees := 1, fill := .reg c.wk hf } ∧
          (∀ d' j, d' ≠ c.w.die ∨ j ≠ k → t.tile d' j = c.s.tile d' j) ∧
          (t.die c.w.die).poolUsed = d.poolUsed + tilePages n ∧ ∀ g, PredOf c g (o.written g) ps (fun _ => []) fun _ => true)) ∧
        (((∀ j, j < 65536 → (c.s.tile c.w.die j).st ≠ 0) ∨ c.s.boot.poolPages < c.s.poolPages + tilePages n) →
          ∃ t w' o, exec i s = .next t ∧ Posts c t w' o ∧ o.finished = true ∧
            ∀ g, PredOf c g (o.written g) ps (fun _ => []) fun _ => false)))) ∧
  (∀ (h : Ctl) (d a : Nat) (s : State) (c : Ctx), Issues s (.hmov h d a) c →
    (c.any = false ∨ d = a → ∃ t w', exec (.hmov h d a) s = .next t ∧ Done c t w' ∧ KeptAll c.w.regs w'.regs) ∧
    (c.any = true → d ≠ a → c.w.regs.hAt d ≠ 0 → exec (.hmov h d a) s = .next (c.fault fBasinReg 0 0 (BitVec.ofNat 64 d))) ∧
    (c.any = true → d ≠ a → c.w.regs.hAt d = 0 → ∃ t w', exec (.hmov h d a) s = .next t ∧ t.wave c.wk = some w' ∧ Moves c w' ∧
      w'.regs.hAt d = c.w.regs.hAt a ∧ w'.regs.hAt a = 0 ∧
      KeptBut c.w.regs w'.regs (fun r => r = d ∨ r = a) (fun _ _ => False) ∧
      t = { c.s with waves := t.waves, dies := t.dies } ∧ ∀ k j, (t.tile k j).sees = (c.s.tile k j).sees)) ∧
  (∀ (h : Ctl) (d a : Nat) (s : State) (c : Ctx), Issues s (.hcpy h d a) c →
    let x := c.w.regs.hAt a
    let i : Instr := .hcpy h d a
    (c.any = false → ∃ t w', exec i s = .next t ∧ Done c t w' ∧ KeptAll c.w.regs w'.regs) ∧
    (c.any = true → x = 0 → exec i s = .next (c.fault fBasinEmpty 0 0 (handleWord x a))) ∧
    (c.any = true → x ≠ 0 → c.s.handleStale x = true → exec i s = .next (c.fault fBasinStale 0 0 (handleWord x a))) ∧
    (c.any = true → x ≠ 0 → c.s.handleStale x = false →
      (hKind x ≠ 2 → exec i s = .next (c.fault fBasinKind 0 0 (handleWord x a))) ∧
      (hKind x = 2 → c.w.regs.hAt d ≠ 0 → exec i s = .next (c.fault fBasinReg 0 0 (BitVec.ofNat 64 d))) ∧
      (hKind x = 2 → c.w.regs.hAt d = 0 → hLocal x = true → (c.s.tile (hDie x) (hIndex x)).sees < 2 ^ 32 - 1 →
        ∃ t w' o, exec i s = .next t ∧ Pends c t w' o ∧ o.finished = true ∧ o.writes = [] ∧ w'.regs.hAt d = x ∧
          KeptBut c.w.regs w'.regs (fun r => r = d) (fun _ _ => False) ∧
          t.tile (hDie x) (hIndex x) = { c.s.tile (hDie x) (hIndex x) with sees := (c.s.tile (hDie x) (hIndex x)).sees + 1 }))) ∧
  (∀ (h : Ctl) (a : Nat) (s : State) (c : Ctx), Issues s (.hdrop h a) c →
    let x := c.w.regs.hAt a
    let u := c.s.tile (hDie x) (hIndex x)
    let i : Instr := .hdrop h a
    (c.any = false → ∃ t w', exec i s = .next t ∧ Done c t w' ∧ KeptAll c.w.regs w'.regs) ∧
    (c.any = true → x = 0 → ∃ t w' o, exec i s = .next t ∧ Posts c t w' o ∧ o.finished = true ∧ o.writes = []) ∧
    (c.any = true → x ≠ 0 → (∀ o ∈ c.s.ops, ∀ k j, o.2.parkedOn k j = false) →
      ∃ t w' o, exec i s = .next t ∧ GoesOn c t w' ∧ w'.slot c.slot = some (c.p.advance.issued c.h.stall) ∧
        t.op c.s.opSeq = some o ∧ o.record = some x ∧ o.ctr = c.h.ctr ∧ w'.regs.hAt a = 0 ∧
        KeptBut c.w.regs w'.regs (fun r => r = a) (fun _ _ => False) ∧
        (c.w.home x = false → o.finished = false ∧ t.dies = c.s.dies) ∧
        (c.w.home x = true → c.s.stale x = false → hKind x = 1 → u.st = 1 →
          (∀ y ∈ c.s.opsOf c.wk, y.1 < c.s.opSeq → y.2.finished = true ∨ tileWidth y.2.instr = none ∧ y.2.writesMem = false) →
          o.finished = true ∧ (u.sees ≠ 0 → t.tile (hDie x) (hIndex x) = { u with st := 2, fill := .lost }) ∧
          (u.sees = 0 → t.tile (hDie x) (hIndex x) = { gen := (u.gen + 1) % 65536 })) ∧
        (c.w.home x = true → c.s.stale x = false → hKind x = 2 →
          (∀ y ∈ c.s.opsOf c.wk, y.1 < c.s.opSeq → y.2.finished = true ∨ tileWidth y.2.instr = none ∨
            tileObj (y.2.record.getD 0) ≠ tileObj x) → o.finished = true ∧
          (u.st = 1 ∨ 2 ≤ u.sees → t.tile (hDie x) (hIndex x) = { u with sees := u.sees - 1 }) ∧
          (2 ≤ u.st → u.sees = 1 → t.tile (hDie x) (hIndex x) = { gen := (u.gen + 1) % 65536 })))) ∧
  (∀ (h : Ctl) (sel : HSel) (d a : Nat), d < 64 → ∀ (s : State) (c : Ctx), Issues s (.hqry h sel d a) c →
    let x := c.w.regs.hAt a
    let u := c.s.tile (hDie x) (hIndex x)
    (c.any = false → ∃ t w', exec (.hqry h sel d a) s = .next t ∧ Done c t w' ∧ KeptAll c.w.regs w'.regs) ∧
    (c.any = true → ∃ t w' o v, exec (.hqry h sel d a) s = .next t ∧ Posts c t w' o ∧ o.finished = true ∧
      (∀ g, UniformOf c g (o.written g) d [] v) ∧ (sel = .lo → v = BitVec.ofNat 64 x.toNat) ∧
      (sel = .hi → v = BitVec.ofNat 64 (x.toNat / 2 ^ 64)) ∧ (sel = .st → x = 0 ∨ c.s.handleStale x = true → v = 0) ∧
      (sel = .st → x ≠ 0 → c.s.handleStale x = false → hLocal x = true → v = BitVec.ofNat 64 (u.sees * 2 ^ 32 + u.st)) ∧
      (sel = .st → hLocal x = false → ∀ k, 2 ≤ k → k < 32 → v.getLsbD k = false)))

/-- HLD, HST and CARRIED_HANDLE_ACCESS (R347, R352, R361, R364): the checks in their order; a load of a sealed tile of the
wave's die, or through its fill handle, and a store, read and write the tile's bytes at once; a load through a
see handle of an open tile parks its path; an access of a tile of another die is carried to it and applied
there. -/
def Obligations.TileAccess : Prop :=
  (∀ (s : State) (c : Ctx) (i : Instr) (a wd : Nat) (ix : Option Nat) (off : BitVec 16) (store : Bool),
    ((∃ h sg w d, i = .hld h sg w d a ix off ∧ wd = w.bytes ∧ store = false) ∨
      ∃ h w r, i = .hst h w r a ix off ∧ wd = w.bytes ∧ store = true) → Issues s i c →
    let x := c.w.regs.hAt a
    let u := c.s.tile (hDie x) (hIndex x)
    let at_ (l : Nat) : DWord := (match ix with | some n => (c.rdV n l).val | none => 0) + off.signExtend 64
    let known := x ≠ 0 ∧ c.s.handleStale x = false ∧ (store = true → hKind x = 1)
    let bad := maskOf fun l => c.x.getLsbD l && (c.poisonIn l).isSome
    let mis := maskOf fun l => c.x.getLsbD l && decide ((at_ l).toNat % wd ≠ 0)
    let out := maskOf fun l => c.x.getLsbD l && decide (hSize x < (at_ l).toNat + wd)
    let lawful := known ∧ bad = 0 ∧ mis = 0 ∧ out = 0 ∧ (hLocal x = true → c.s.poolShut = false)
    let moved (t : State) (w' : Wave) (o : Op) : Prop := Pends c t w' o ∧ w'.regs = c.w.regs ∧ o.record = some x ∧
      ∀ l, l < 32 → c.x.getLsbD l = true → o.addr l = at_ l
    (c.any = false → ∃ t w', exec i s = .next t ∧ Done c t w' ∧ KeptAll c.w.regs w'.regs) ∧
    (c.any = true → x = 0 → exec i s = .next (c.fault fBasinEmpty 0 0 (handleWord x a))) ∧
    (c.any = true → x ≠ 0 → c.s.handleStale x = true → exec i s = .next (c.fault fBasinStale 0 0 (handleWord x a))) ∧
    (c.any = true → x ≠ 0 → c.s.handleStale x = false → store = true → hKind x ≠ 1 →
      exec i s = .next (c.fault fBasinKind 0 0 (handleWord x a))) ∧
    (c.any = true → known → bad ≠ 0 →
      exec i s = .next (c.fault fPoisonConsumed bad 0 0 (c.originOf ((c.poisonIn (lowest bad)).getD 0)))) ∧
    (c.any = true → known → bad = 0 → mis ≠ 0 → exec i s = .next (c.fault fMisaligned mis (at_ (lowest mis)))) ∧
    (c.any = true → known → bad = 0 → mis = 0 → out ≠ 0 → ∃ e, exec i s = .next (c.fault fBasinBounds out (at_ (lowest out)) e) ∧
      (∃ l, l < 32 ∧ out.getLsbD l = true ∧ e = at_ l) ∧ ∀ l, l < 32 → out.getLsbD l = true → e.toNat ≤ (at_ l).toNat) ∧
    (c.any = true → lawful → hLocal x = false →
      (hKind x ≠ 2 → ∃ t w' o, exec i s = .next t ∧ moved t w' o ∧ o.finished = false ∧ t.dies = c.s.dies) ∧
      (hKind x = 2 → c.w.holdsFill x = true → exec i s = .next (c.fault fBasinSelfpark c.x 0 (x.setWidth 64))) ∧
      (hKind x = 2 → c.w.holdsFill x = false → ∃ t w' o, exec i s = .next t ∧ GoesOn c t w' ∧ w'.regs = c.w.regs ∧
        c.waitsOn w' c.s.opSeq ∧ t.op c.s.opSeq = some o ∧ o.record = some x ∧ t.dies = c.s.dies)) ∧
    (c.any = true → lawful → c.w.home x = true →
      (∀ h w r, i = .hst h w r a ix off → ∃ t w' o, exec i s = .next t ∧ moved t w' o ∧ o.finished = true ∧
        (∀ b, (∀ l, l < 32 → c.x.getLsbD l = true → b < (at_ l).toNat ∨ (at_ l).toNat + wd ≤ b) →
          memGet (t.tile (hDie x) (hIndex x)).bytes b = memGet u.bytes b) ∧
        ∀ l k, l < 32 → c.x.getLsbD l = true → k < wd →
          (∀ j, j < 32 → c.x.getLsbD j = true → l < j → (at_ j).toNat + wd ≤ (at_ l).toNat ∨ (at_ l).toNat + wd ≤ (at_ j).toNat) →
          memGet (t.tile (hDie x) (hIndex x)).bytes ((at_ l).toNat + k) =
            BitVec.ofNat 8 (((c.rdV (r + k / 4) l).word).toNat / 2 ^ (8 * (k % 4)))) ∧
      (∀ h sg w d, i = .hld h sg w d a ix off →
        ((hKind x ≠ 2 ∨ (u.st ≠ 1 ∧ u.st ≠ 3)) → (∀ v, (c.s.teamOf v).bound 3 (tileObj x) = []) → ∃ t w' o, exec i s = .next t ∧ moved t w' o ∧ o.finished = true ∧ t.dies = c.s.dies ∧
          ∀ g, (∀ l k, l < 32 → k < w.regs → c.x.getLsbD l = true → (o.written g).vBad (d + k) l = false ∧
            (o.written g).vAt (d + k) l = loadValue w sg (memRead u.bytes (at_ l).toNat wd) k) ∧
            Kept g (o.written g) (fun n l => d ≤ n ∧ n < d + w.regs ∧ c.x.getLsbD l = true) (fun _ => False) (fun _ _ => False)) ∧
        (hKind x = 2 → u.st = 3 → exec i s = .next (c.fault fBasinAbandoned c.x 0 (x.setWidth 64))) ∧
        (hKind x = 2 → u.st = 1 → c.w.holdsFill x = true → exec i s = .next (c.fault fBasinSelfpark c.x 0 (x.setWidth 64))) ∧
        (hKind x = 2 → u.st = 1 → c.w.holdsFill x = false → ∃ t w' o, exec i s = .next t ∧ GoesOn c t w' ∧ w'.regs = c.w.regs ∧
          c.waitsOn w' c.s.opSeq ∧ t.op c.s.opSeq = some o ∧ o.record = some x ∧ o.parkedOn (hDie x) (hIndex x) = true ∧
          t.dies = c.s.dies))) ∧
    (c.any = true → lawful → hLocal x = true → hDie x ≠ c.w.die → hKind x ≠ 2 ∨ (u.st ≠ 1 ∧ u.st ≠ 3) →
      ∃ t w' o, exec i s = .next t ∧ moved t w' o ∧ o.finished = false ∧ t.dies = c.s.dies)) ∧
  (∀ (s : State) (id how : Nat) (o : Op) (w : Wave) (x : HWord), Pending s id o w → o.finished = false → o.record = some x →
    s.carryHeld id o = false → s.poolShut = false →
    let e := Instr.carriedHandleAccess id how
    let u := s.tile (hDie x) (hIndex x)
    (∀ h wd r a ix f, o.instr = .hst h wd r a ix f → hLocal x = true → s.stale x = false →
      ∃ t w', exec e s = .next t ∧ Ended s t id o w w' ∧ w'.regs = w.regs ∧ t.mem = s.mem ∧
        (∀ d j, d ≠ hDie x ∨ j ≠ hIndex x → t.tile d j = s.tile d j) ∧
        ∀ l, o.mask = laneBit l → l < 32 → wd.bytes ≤ (bytesOf (tget o.data l [])).length →
          (∀ k, k < wd.bytes → memGet (t.tile (hDie x) (hIndex x)).bytes ((o.addr l).toNat + k) = (bytesOf (tget o.data l [])).getD k 0) ∧
          ∀ b, (b < (o.addr l).toNat ∨ (o.addr l).toNat + wd.bytes ≤ b) →
            memGet (t.tile (hDie x) (hIndex x)).bytes b = memGet u.bytes b) ∧
    (∀ h sg wd d a ix f, o.instr = .hld h sg wd d a ix f → hLocal x = true → s.stale x = false → (hKind x ≠ 2 ∨ (u.st ≠ 1 ∧ u.st ≠ 3)) →
      (∀ v, (s.teamOf v).bound 3 (tileObj x) = []) → ∃ t w', exec e s = .next t ∧ Completed s t id o w w' ∧
        (∀ l k, l < 32 → k < wd.regs → o.todo.getLsbD l = true → w'.regs.vBad (d + k) l = false ∧
          w'.regs.vAt (d + k) l = loadValue wd sg (memRead u.bytes (o.addr l).toNat wd.bytes) k) ∧
        Kept w.regs w'.regs (fun n l => d ≤ n ∧ n < d + wd.regs ∧ o.todo.getLsbD l = true) (fun _ => False) (fun _ _ => False)) ∧
    (∀ h sg wd d a ix f, o.instr = .hld h sg wd d a ix f → hLocal x = true → s.stale x = false → hKind x = 2 → u.st = 1 →
      exec e s = .next s))

/-- HSTM, HLDM, HLDM.RING and HXFER with the steps that carry a handle (R348, R349, R351, R352, R365, R366): a handle moves
between a register, a 16-byte slot and a peer; a fill handle leaves the place it is taken from, a see handle is
counted once more; a refused transfer comes back; a port that is declared down stays so. -/
def Obligations.HandleTransfer : Prop :=
  (∀ (i : Instr) (a b : Nat) (off : BitVec 16) (load : Bool) (s : State) (c : Ctx),
    ((∃ h, i = .hstm h b off a ∧ load = false) ∨ (∃ h ps, i = .hldm h a ps b off ∧ load = true) ∨
      ∃ h ps, i = .hldmRing h a ps b off ∧ load = true) → Issues s i c →
    let x := c.w.regs.hAt a
    let va := c.sOff b off
    let l := lowest c.x
    let place := c.s.opPlaces c.w { c.op with todo := laneBit l, u := [0], record := if load then none else some x, addrs := [(l, va)] } l
    (c.any = false → ∃ t w', exec i s = .next t ∧ Done c t w' ∧ KeptAll c.w.regs w'.regs) ∧
    (c.any = true → load = true → x ≠ 0 → exec i s = .next (c.fault fBasinReg 0 0 (BitVec.ofNat 64 a))) ∧
    (c.any = true → (load = true → x = 0) → (load = false → c.s.seeFull x = false) →
      (∀ g, place = .ok g → ∃ t w' o, exec i s = .next t ∧ GoesOn c t w' ∧ w'.regs = c.w.regs ∧ t.op c.s.opSeq = some o ∧
        o.instr = c.i ∧ o.todo = laneBit l ∧ o.mask = c.x ∧ o.addr l = va ∧ o.seg l = g ∧ (load = false → o.record = some x) ∧
        (load = true ∨ hKind x = 1 → (a, c.s.opSeq) ∈ w'.hBusy) ∧ t.mem = c.s.mem ∧ t.dies = c.s.dies ∧
        w'.slot c.slot = some (if o.holding = true then { c.p.issued c.h.stall with wait := .op c.s.opSeq }
          else c.p.advance.issued c.h.stall)) ∧
      ∀ e, place = .error e → c.s.op c.s.opSeq = none → exec i s = .next (c.fault e.1 (laneBit l) e.2))) ∧
  (∀ (s : State) (id : Nat) (o : Op) (w : Wave) (l : Nat) (again : Bool) (pa key : Nat), Turn s id o w l again false →
    o.todo = laneBit l → o.seg l = [⟨.phys pa 0 key, 16⟩] → pa % 16 = 0 → o.writes = [] →
    let line := s.evictEverywhere (pa / 128)
    let x : HWord := BitVec.ofNat 128 (leNat ((List.range 16).map fun k => line.l2Byte key (pa + k)))
    let u (h : HWord) : Tile := s.tile (hDie h) (hIndex h)
    (∀ h b off a y, o.instr = .hstm h b off a → o.record = some y → hKind x = 0 → s.seeFull y = false →
      ∃ t r, exec (performStep again false id l) s = .next t ∧ Performed s t id o (laneBit l) r ∧
        (∀ k, k < 16 → memGet t.mem (pa + k) = BitVec.ofNat 8 (y.toNat / 2 ^ (8 * k))) ∧
        (∀ k, (k < pa ∨ pa + 16 ≤ k) → memGet t.mem k = memGet line.mem k) ∧
        (r.hAt a = if hKind y = 1 then 0 else w.regs.hAt a) ∧ KeptBut w.regs r (fun n => n = a) (fun _ _ => False) ∧
        (hKind y = 2 → hLocal y = true → s.stale y = false → t.tile (hDie y) (hIndex y) = { u y with sees := (u y).sees + 1 }) ∧
        (hKind y = 1 → hLocal y = true → s.stale y = false → t.tile (hDie y) (hIndex y) = { u y with fill := .slot pa })) ∧
    (∀ h a ps b off, o.instr = .hldm h a ps b off → s.slotHurt (o.seg l) x = false → s.handleBad w x = false → s.seeFull x = false →
      ∃ t r, exec (targetStep again id l) s = .next t ∧ Performed s t id o (laneBit l) r ∧
        (ps ≠ 7 → ∀ k, k < 32 → o.mask.getLsbD k = true → r.pAt ps k = (hKind x != 0) ∧ r.pBad ps k = false) ∧
        KeptBut w.regs r (fun n => n = a ∧ hKind x ≠ 0) (fun p k => p = ps ∧ p ≠ 7 ∧ o.mask.getLsbD k = true) ∧
        (hKind x ≠ 0 → r.hAt a = x) ∧
        (∀ k, memGet t.mem k = if hKind x = 1 ∧ pa ≤ k ∧ k < pa + 16 then 0 else memGet line.mem k) ∧
        (hKind x = 2 → hLocal x = true → s.stale x = false → t.tile (hDie x) (hIndex x) = { u x with sees := (u x).sees + 1 }) ∧
        (hKind x = 1 → hLocal x = true → s.stale x = false → t.tile (hDie x) (hIndex x) = { u x with fill := .reg o.wave a }))) ∧
  (∀ (h : Ctl) (ps a port ring : Nat) (s : State) (c : Ctx), Issues s (.hxfer h ps a port ring) c →
    let x := c.w.regs.hAt a
    let i : Instr := .hxfer h ps a port ring
    (c.any = false → ∃ t w', exec i s = .next t ∧ Done c t w' ∧ KeptAll c.w.regs w'.regs) ∧
    (c.any = true → x = 0 → exec i s = .next (c.fault fBasinEmpty 0 0 (handleWord x a))) ∧
    (c.any = true → x ≠ 0 → c.s.handleStale x = true → exec i s = .next (c.fault fBasinStale 0 0 (handleWord x a))) ∧
    (c.any = true → x ≠ 0 → c.s.handleStale x = false → c.s.seeFull x = false → ∃ t w' o, exec i s = .next t ∧ Pends c t w' o ∧
      o.record = some x ∧ o.u = [0, 0] ∧ o.finished = false ∧ (hKind x = 1 → (a, c.s.opSeq) ∈ w'.hBusy) ∧
      KeptBut c.w.regs w'.regs (fun n => n = a) (fun _ _ => False) ∧ (w'.regs.hAt a = if hKind x = 1 then 0 else x) ∧
      (hLocal x = true → t.tile (hDie x) (hIndex x) = (let u := c.s.tile (hDie x) (hIndex x)
        if hKind x = 1 then { u with fill := .flight c.s.opSeq } else { u with sees := u.sees + 1 })))) ∧
  (∀ (s : State) (id : Nat) (o : Op) (w : Wave) (h : Ctl) (ps a port ring : Nat) (x : HWord), Pending s id o w →
    o.instr = .hxfer h ps a port ring → o.record = some x → hKind x = 1 → hLocal x = true → s.stale x = false →
    let u := s.tile (hDie x) (hIndex x)
    (∀ accepted, o.u = [0, 0] → ∃ t, exec (.hxferDelivery (.outbound id accepted)) s = .next t ∧ t.waves = s.waves ∧ t.mem = s.mem ∧
      (accepted = true → port ∉ s.portsDown → t.op id = some { o with u := [0, 1] } ∧
        t.tile (hDie x) (hIndex x) = { u with fill := .away port }) ∧
      (accepted = false ∨ port ∈ s.portsDown → t.op id = some { o with u := [0, 2] } ∧ t.dies = s.dies)) ∧
    (o.u = [0, 0] → exec (.hxferAck id) s = .next s) ∧
    (∀ ok : Bool, o.u = [0, if ok then 1 else 2] → (ok = false → u.st = 1) → ∃ t w', exec (.hxferAck id) s = .next t ∧ Ended s t id o w w' ∧ t.mem = s.mem ∧
      (w'.regs.hAt a = if ok then w.regs.hAt a else x) ∧
      KeptBut w.regs w'.regs (fun n => n = a ∧ ok = false) (fun p k => p = ps ∧ p ≠ 7 ∧ o.mask.getLsbD k = true) ∧
      (ps ≠ 7 → ∀ k, k < 32 → o.mask.getLsbD k = true → w'.regs.pAt ps k = ok ∧ w'.regs.pBad ps k = false))) ∧
  (∀ (s : State) (port : Nat) (e : Instr), e = .peerLinkTrainingFail port ∨ e = .peerAckTimeout port →
    (port ∈ s.portsDown → exec e s = .next s) ∧
    (port ∉ s.portsDown → ∃ t, exec e s = .next t ∧ t.portsDown = s.portsDown ++ [port] ∧ SysEvent.portDown port ∈ t.events ∧
      ∀ d i x u, s.dies = [(d, x)] → x.tiles = [(i, u)] → d < 8 → i < 65536 → u.gen < 65536 → u.asid < 4096 → u.size / 64 < 32768 →
        u.st = 1 → u.fill = .away port → tget u.away port 0 = 0 → 1 ≤ u.sees → (∀ o ∈ s.ops, o.2.parkedOn d i = false) →
        t.tile d i = { u with st := 3, fill := .lost, away := tdel u.away port }))

/-! ## Launch, collective, system and trap forms -/

/-- LAUNCH, STEPMK, DIEQ, TREESET, TREESET.CANON and CRED (R378, R379, R391, R392, R414-R419): LAUNCH holds its path until
its record has been checked, and then gives the queue number or the refusal; STEPMK waits at a boundary that is
still closed, else it reports whether the share is withdrawn; DIEQ reads Table 29-5a; TREESET holds its path until
its table has been read, which becomes the team's topology or takes TOPO; CRED arrives in the wave's next
instance with the leaves of its executing lanes and waits for the others. -/
def Obligations.LaunchForms : Prop :=
  (∀ (h : Ctl) (d a : Nat) (s : State) (c : Ctx), Issues s (.launch h d a) c →
    (c.any = false → ∃ t w', exec (.launch h d a) s = .next t ∧ Done c t w' ∧ KeptAll c.w.regs w'.regs) ∧
    (c.any = true → ∃ t w' o, exec (.launch h d a) s = .next t ∧ GoesOn c t w' ∧ w'.regs = c.w.regs ∧ c.waitsOn w' c.s.opSeq ∧
      t.op c.s.opSeq = some o ∧ o.instr = c.i ∧ o.u = [0, (c.rdS a).val] ∧ o.walked = false ∧ o.finished = false ∧ o.holding = true ∧
      t.mem = c.s.mem)) ∧
  (∀ (s : State) (id : Nat) (o : Op) (w : Wave) (h : Ctl) (d a : Nat) (x : DWord), Pending s id o w → o.instr = .launch h d a →
    o.walked = false → o.finished = false → o.holding = true → id ∉ w.parked → o.u = [0, x] →
    (∀ y ∈ s.opsOf o.wave, y.1 < id → y.2.writesMem = false ∨ y.2.todo = 0) → s.launchDenied w x = false →
    /- the lines that the record is read from are reached through their mapping (R177) -/
    let u := s.recReach w.die (s.hdr w).asid x
    let gives (v : DWord) (t : State) : Prop := ∃ w', t.wave o.wave = some w' ∧ PathReleased w w' id o.slot ∧ w'.regs = w.regs ∧
      t.op id = some { o with writes := [laneConst (.s d) 1 v], finished := true, walked := true, holding := false, owed := false }
    (x.toNat % 128 ≠ 0 → ∃ t, exec (.translationWalk id) s = .next t ∧ gives (BitVec.ofNat 64 (2 ^ 64 - 256 + 1)) t ∧
      t.launches = s.launches) ∧
    (∀ st detail r, u.checkLaunch w.die w.die (s.hdr w).asid x false w.priv = .refused st detail r →
      ∃ t, exec (.translationWalk id) s = .next t ∧ gives (BitVec.ofNat 64 (2 ^ 64 - 256 + st)) t ∧
        ∀ k, k < 2 ^ 72 → t.launch k = s.launch k) ∧
    (u.checkLaunch w.die w.die (s.hdr w).asid x false w.priv = .wait → ∃ t, exec (.translationWalk id) s = .next t ∧
      t.waves = s.waves ∧ t.ops = s.ops ∧ t.launches = s.launches ∧ t.mem = s.mem) ∧
    (∀ l, u.checkLaunch w.die w.die (s.hdr w).asid x false w.priv = .ok l →
      ∃ t hs, exec (.translationWalk id) s = .next t ∧ gives (BitVec.ofNat 64 l.qseq) t ∧ l.qseq = (s.die w.die).qnext ∧ l.st = .queued ∧
        t.launch (launchKey w.die l.qseq) = some { l with order := s.opSeq, seen := hs } ∧
        (∀ k, k ≠ launchKey w.die l.qseq → t.launch k = s.launch k) ∧ (t.die w.die).qnext = (s.die w.die).qnext + 1)) ∧
  (∀ (h : Ctl) (pw : Nat) (s : State) (c : Ctx), Issues s (.stepmk h pw) c → c.w.barDone = none →
    let i : Instr := .stepmk h pw
    let bound := ((c.s.launch c.w.launch).map Launch.boundary).getD 0
    (c.writesLeft = true → exec i s = .next (c.s.block 6)) ∧
    (c.writesLeft = false → bound ≤ c.w.stepN → ∃ t w' o, exec i s = .next t ∧ GoesOn c t w' ∧ w'.regs = c.w.regs ∧
      w'.stepN = c.w.stepN + 1 ∧ c.waitsOn w' c.s.opSeq ∧ t.op c.s.opSeq = some o ∧ o.u = [BitVec.ofNat 64 c.w.stepN] ∧
      o.mask = c.x ∧ t.mem = c.s.mem) ∧
    (c.writesLeft = false → c.w.stepN < bound → ∃ t w', exec i s = .next t ∧ GoesOn c t w' ∧ w'.regs = c.w.regs ∧
      w'.stepN = c.w.stepN + 1 ∧ w'.slot c.slot = some (c.p.advance.issued c.h.stall) ∧ t.mem = c.s.mem ∧
      (c.any = true → ∃ o, t.op c.s.opSeq = some o ∧ o.finished = true ∧
        ∀ g, PredOf c g (o.written g) pw (fun _ => []) fun _ => c.s.withdrawn c.w))) ∧
  (∀ (h : Ctl) (sel : Nat), sel < 8 → ∀ d : Dst, (∀ n, d = .s n → n < 64) → CompletesWith (.dieq h sel d) fun c g g' =>
    LaneResult c g g' d (fun _ => []) fun _ =>
      let share := c.team.cluster / max (c.hdr.g / max c.hdr.dmax 1) 1
      BitVec.ofNat 32 ([share, ((c.s.launch c.w.launch).map Launch.d).getD 0, c.hdr.dmax, c.hdr.dmin, c.hdr.g / max c.hdr.dmax 1,
        share * (c.hdr.g / max c.hdr.dmax 1), c.w.die, ((c.s.launch c.w.launch).map Launch.home).getD 0].getD sel 0)) ∧
  (∀ (h : Ctl) (a : Nat) (off : BitVec 16) (s : State) (c : Ctx), Issues s (.treeset h a off) c →
    (c.any = false → ∃ t w', exec (.treeset h a off) s = .next t ∧ Done c t w' ∧ KeptAll c.w.regs w'.regs) ∧
    (c.any = true → ∃ t w' o, exec (.treeset h a off) s = .next t ∧ GoesOn c t w' ∧ w'.regs = c.w.regs ∧
      c.waitsOn w' c.s.opSeq ∧ t.op c.s.opSeq = some o ∧ o.instr = c.i ∧ o.u = [0, (c.rdS a).val + off.signExtend 64] ∧ o.mask = c.x ∧
      o.walked = false ∧ o.holding = true ∧ t.teams = c.s.teams ∧ t.mem = c.s.mem)) ∧
  (∀ (s : State) (id : Nat) (o : Op) (w : Wave) (h : Ctl) (a : Nat) (off : BitVec 16) (x : DWord), Pending s id o w →
    o.instr = .treeset h a off → o.walked = false → o.finished = false → o.holding = true → id ∉ w.parked → o.u = [0, x] →
    (∀ hd es q, s.readTopo o.wave w (lowest o.mask) x = .ok (hd, es) → s.team w.team = some q →
      (topoCheck (s.stageFor w).threads hd es = none → ∃ t w', exec (.translationWalk id) s = .next t ∧ t.wave o.wave = some w' ∧
        PathReleased w w' id o.slot ∧ w'.regs = w.regs ∧ t.op id = some { o with finished := true, walked := true, holding := false, owed := false } ∧ t.mem = s.mem ∧
        t.team w.team = some { q with topo := some (es.map fun e =>
          { parent := e.toNat / 2 ^ 21, leaf := e.getLsbD 20, thread := e.toNat % 2 ^ 10 }) }) ∧
      (∀ cause node th, topoCheck (s.stageFor w).threads hd es = some (cause, node, th) → w.region = none → w.trap.pend = none →
        ∃ t, exec (.translationWalk id) s = .next t ∧
          TakesFault t o.wave fTopo o.pc (causeWord cause (th * 2 ^ 32 + node)) ∧ t.teams = s.teams))) ∧
  (∀ (h : Ctl) (s : State) (c : Ctx), Issues s (.treesetCanon h) c →
    (c.any = false → ∃ t w', exec (.treesetCanon h) s = .next t ∧ Done c t w' ∧ KeptAll c.w.regs w'.regs) ∧
    (c.any = true → ∀ q, c.s.team c.w.team = some q → ∃ t w', exec (.treesetCanon h) s = .next t ∧ t.wave c.wk = some w' ∧
      MovesNow c w' ∧ w'.regs = c.w.regs ∧ t.team c.w.team = some { q with topo := none } ∧
      t = { c.s with waves := t.waves, teams := t.teams } ∧ ∀ k, k ≠ c.wk → t.wave k = c.s.wave k)) ∧
  (∀ (h : Ctl) (op : COp) (ty : CTy) (d : Dst) (a : Nat) (s : State) (c : Ctx) (q : Team), Issues s (.cred h op ty d a) c →
    c.w.barDone = none → c.s.team c.w.team = some q → q.creds = [] →
    let leaves : Tab Word := (lanes c.x).foldl (fun t l => tput t (32 * c.w.ix + l) (c.rdV a l).word) []
    /- another wave of the team has not arrived -/
    ((∃ i, i < q.waves ∧ i ≠ c.w.ix ∧ i ∉ q.exited ∧ i ∉ q.killed) →
      ∃ t w' o, exec (.cred h op ty d a) s = .next t ∧ GoesOn c t w' ∧ w'.regs = c.w.regs ∧ w'.credN = c.w.credN + 1 ∧
        c.waitsOn w' c.s.opSeq ∧ t.op c.s.opSeq = some o ∧ o.mask = c.x ∧ t.mem = c.s.mem ∧
        t.team c.w.team = some { q with creds := [(c.w.credN, { arrived := [c.w.ix], ops := [(c.s.opSeq, op, ty)], leaves := leaves })] }) ∧
    /- it is the last -/
    ((∀ i, i < q.waves → i = c.w.ix ∨ i ∈ q.exited ∨ i ∈ q.killed) → (∀ n, d = .s n → n < 64) →
      (∀ w ∈ c.s.waves, w.2.team = c.w.team → w.2.off = false) → c.any = true →
      (∀ k, c.w.span.ckpt = some k → k.opsBefore ≤ c.s.opSeq) →
      (∀ y ∈ c.s.opsOf c.wk, y.2.ctr = 7 → y.2.instr.opc ≠ c.i.opc) →
      ∃ t w', exec (.cred h op ty d a) s = .next t ∧ t.wave c.wk = some w' ∧ t.op c.s.opSeq = none ∧ t.team c.w.team = some q ∧
        let root := (match q.topo with
          | none => canonRoot (credCombine op ty) 11 (leaves.map fun (x : Nat × Word) => x.2)
          | some ns => topoRoot (credCombine op ty) ns leaves).getD 0
        match d with
        | .v n => (∀ l, l < 32 → c.x.getLsbD l = true → w'.regs.vAt n l = root ∧ w'.regs.vBad n l = false) ∧
            Kept c.w.regs w'.regs (fun m l => m = n ∧ c.x.getLsbD l = true) (fun _ => False) (fun _ _ => False)
        | .s n => w'.regs.sAt n = root.setWidth 64 ∧ w'.regs.sBad n = false ∧
            Kept c.w.regs w'.regs (fun _ _ => False) (fun m => m = n) (fun _ _ => False)))

/-- SYSR, SYSW, TRAP, ERET, BRK, HALT, TRCON, TRCOFF and CNTRD (R397-R399, R402, R411, R421-R426): a privileged register takes
PRIVILEGED in a wave without privilege; else SYSR posts its value and SYSW writes it; TRAP and BRK.TRAP take their
fault with the executing lanes as its mask; ERET outside a handler takes PRIVILEGED, in it it holds until the wave
has nothing pending, and then restores what its record says; HALT and BRK.HALT halt the launch; TRCON and TRCOFF set
and clear the wave's trace flag. -/
def Obligations.SystemForms : Prop :=
  (∀ (h : Ctl) (d : Dst) (n : Nat) (s : State) (c : Ctx), (∀ k, d = .s k → k < 64) → Issues s (.sysr h d n) c →
    (c.any = false → ∃ t w', exec (.sysr h d n) s = .next t ∧ Done c t w' ∧ KeptAll c.w.regs w'.regs) ∧
    (c.any = true → 0x40 ≤ n → c.w.priv = false → exec (.sysr h d n) s = .next (c.fault fPrivileged 0 0 (causeWord 0 n))) ∧
    (c.any = true → (n < 0x40 ∨ c.w.priv = true) → ∃ t w' o, exec (.sysr h d n) s = .next t ∧ Posts c t w' o ∧ o.finished = true ∧
      ∀ g, match d with
        | .v k => LanesOf c g (o.written g) k (fun _ => []) fun l => (c.sysReg n l).setWidth 32
        | .s k => UniformOf c g (o.written g) k [] (c.sysReg n (lowest c.x)))) ∧
  (∀ (h : Ctl) (n a : Nat) (s : State) (c : Ctx), Issues s (.sysw h n a) c →
    let x := (c.rdS a).val
    let i : Instr := .sysw h n a
    let at_ (t : State) (w' : Wave) : Prop := exec i s = .next t ∧ GoesOn c t w' ∧ w'.regs = c.w.regs ∧
      w'.slot c.slot = some (c.p.advance.issued c.h.stall)
    (c.any = false → ∃ t w', exec i s = .next t ∧ Done c t w' ∧ KeptAll c.w.regs w'.regs) ∧
    (c.any = true → 0x40 ≤ n → c.w.priv = false → exec i s = .next (c.fault fPrivileged 0 0 (causeWord 0 n))) ∧
    /- the writes of one wave act in the order of their issue -/
    (c.any = true → (n < 0x40 ∨ c.w.priv = true) → (∃ y ∈ c.s.opsOf c.wk, y.2.isSysw = true) → ∃ t w' o, at_ t w' ∧
      t.op c.s.opSeq = some o ∧ o.instr = c.i ∧ o.u = [x] ∧ o.finished = false ∧ t.dies = c.s.dies ∧ t.mem = c.s.mem ∧ w'.trap = c.w.trap) ∧
    (c.any = true → n = 0x20 → (∀ y ∈ c.s.opsOf c.wk, y.2.isSysw = false) → ∃ t w', at_ t w' ∧ MovesNow c w' ∧
      w'.trap = { c.w.trap with tvec := x } ∧ t = { c.s with waves := t.waves }) ∧
    (c.any = true → c.w.priv = true → (∀ y ∈ c.s.opsOf c.wk, y.2.isSysw = false) →
      (n = 0x40 → ∃ t w', at_ t w' ∧ (t.die c.w.die).astbase = x &&& 0x000FFFFFFFFF0000) ∧
      (n = 0x41 → ∃ t w', at_ t w' ∧ t.gen (x.toNat % 4096) = c.s.gen (x.toNat % 4096) + 1 ∧ (t.op c.s.opSeq).isSome = true) ∧
      (n = 0x42 → ∃ t w', at_ t w' ∧ (t.die c.w.die).fqbase = x &&& 0x000FFFFFFFFF8001) ∧
      (n = 0x44 → ∃ t w', at_ t w' ∧ (t.die c.w.die).fqtail =
        if Config.faultRing < ((c.s.die c.w.die).fqhead - x.setWidth 16).toNat then (c.s.die c.w.die).fqtail else x.setWidth 16) ∧
      (n = 0x45 → ∃ t w', at_ t w' ∧ (t.die c.w.die).acks = (c.s.die c.w.die).acks ++ [⟨x.setWidth 16, some c.s.opSeq, c.s.now⟩] ∧
        (t.op c.s.opSeq).isSome = true) ∧
      (n = 0x47 → exec i s = .next ((c.finishNow c.s).dbgcmd x)) ∧
      (n = 0x48 → ∃ t w', at_ t w' ∧ (t.die c.w.die).trace.base = x &&& 0x000FFFFFFFFFFFC0) ∧
      (n = 0x4B → ∃ t w', at_ t w' ∧ (t.die c.w.die).trace.ctl = x.setWidth 32 &&& 0x13F) ∧
      (∀ k, k < 16 → n = 0x50 + k → ∃ t w', at_ t w' ∧ (tget (t.die c.w.die).cmps k {}).addr = x) ∧
      (∀ k, k < 16 → n = 0x60 + k → ∃ t w', at_ t w' ∧ (tget (t.die c.w.die).cmps k {}).ctl = x.setWidth 32 &&& 0xFFFFFFF7))) ∧
  (∀ (i : Instr) (fault : Nat) (code : BitVec 16) (s : State) (c : Ctx),
    ((∃ h, i = .trap h code ∧ fault = fSoftware) ∨ ∃ h, i = .brk h .trap code ∧ fault = fBreak) → Issues s i c →
    (c.any = false → ∃ t w', exec i s = .next t ∧ Done c t w' ∧ KeptAll c.w.regs w'.regs) ∧
    (c.any = true → c.w.trap.pend = none → c.w.region = none → ∃ t w' f, exec i s = .next t ∧ t.wave c.wk = some w' ∧
      w' = { c.w with trap := { c.w.trap with pend := some f } } ∧ f.code = fault ∧ f.pc = c.p.pc ∧ f.mask = c.x ∧
      f.extra = code.setWidth 64 ∧ f.ctrs = c.w.c ∧ f.slot = c.slot ∧
      ((c.s.hdr c.w).fact ≠ 2 ∨ c.w.trap.tvec ≠ 0 ∧ c.w.trap.inHandler = false → t = c.s.setWave c.wk w') ∧
      /- under FACT DUMP, with no handler to take it, the launch halts from the next cycle (R369) -/
      ((c.s.hdr c.w).fact = 2 → (c.w.trap.tvec = 0 ∨ c.w.trap.inHandler = true) → ∀ L, c.s.launch c.w.launch = some L → L.halt = none →
        L.st ≠ .done → t.launch c.w.launch = some
          { L with halt := some { since := c.s.now + 1, dump := some (c.wk, f) }, faultCode := f.code }))) ∧
  (∀ (h : Ctl) (code : BitVec 16) (act : BrkAct) (s : State) (c : Ctx), Issues s (.brk h act code) c →
    (c.any = false → ∃ t w', exec (.brk h act code) s = .next t ∧ Done c t w' ∧ KeptAll c.w.regs w'.regs) ∧
    (c.any = true → act = .halt → ∀ L, c.s.launch c.w.launch = some L → L.halt = none → L.st ≠ .done →
      ∃ t w', exec (.brk h act code) s = .next t ∧ t.wave c.wk = some w' ∧ w'.slot c.slot = some { c.p with oneStep := false } ∧
        w'.regs = c.w.regs ∧ t.launch c.w.launch = some { L with halt := some { since := c.s.now + 1 } }) ∧
    (c.any = true → act = .stop → c.w.trace = false → ∃ t w', exec (.brk h act code) s = .next t ∧ t = c.s.setWave c.wk w' ∧
      w' = c.w.setSlot c.slot (some { c.p with stopped := true, oneStep := false, arr := false }))) ∧
  (∀ (h : Ctl) (s : State) (c : Ctx), Issues s (.eret h) c →
    (c.w.trap.inHandler = false → exec (.eret h) s = .next (c.fault fPrivileged 0 0 (causeWord 1 0))) ∧
    (c.w.trap.inHandler = true → c.s.opsOf c.wk ≠ [] → exec (.eret h) s = .next (c.s.block 1)) ∧
    (c.w.trap.inHandler = true → c.s.opsOf c.wk = [] → (∀ k, k < 6 → c.w.ctr k = 0) → c.w.trace = false → ∀ bs f,
      let u := c.s.modWave c.wk fun w =>
        { w.waitedAll (fun k => c.s.free 64 (2 ^ 43 + 2 ^ 42 + k)) with issuedNow := true, fresh := false }
      let num (k n : Nat) : Nat := leNat ((bs.drop k).take n)
      c.s.hwLoad c.w 0x2400 0x190 = .ok bs → bs.length = 0x190 → c.w.trap.handled = some f →
      /- one path at depth 0, without a loop, that is to run its instruction again -/
      num 4 1 = 0 → num 0x64 4 = 0 → ∀ p, pathOf ((bs.drop 0x30).take 16) = some p → pathOf ((bs.drop 0x40).take 16) = none →
      pcForm p.pc = true → p.mask ≠ 0 → p.mask &&& ~~~ c.w.lanesLeft = 0 → p.depth = 0 → p.jw = false → num 0x50 4 = 0 →
      ∃ t w', exec (.eret h) s = .next t ∧ t.wave c.wk = some w' ∧ t.mem = u.mem ∧
        w'.slot0 = some { p with arr := false, rep := none, loop := none, stopped := f.stops.getD 0 false } ∧ w'.slot1 = none ∧ w'.done = BitVec.ofNat 32 (num 0x54 4) ∧
        w'.stack = [] ∧ w'.c = [] ∧ w'.due = [] ∧
        w'.trap = { c.w.trap with inHandler := false, pend := none, handled := none, faulted := none, going := false, broken := false
                                  own := 0 })) ∧
  (∀ (h : Ctl) (s : State) (c : Ctx), Issues s (.halt h) c →
    (c.any = false → ∃ t w', exec (.halt h) s = .next t ∧ Done c t w' ∧ KeptAll c.w.regs w'.regs) ∧
    (c.any = true → ∀ L, c.s.launch c.w.launch = some L → L.halt = none → L.st ≠ .done →
      ∃ t w', exec (.halt h) s = .next t ∧ t.wave c.wk = some w' ∧ MovesNow c w' ∧ w'.regs = c.w.regs ∧
        t.launch c.w.launch = some { L with halt := some { since := c.s.now + 1 } } ∧ t.events = c.s.events ++ [.halted c.w.launch] ∧ t.mem = c.s.mem)) ∧
  (∀ (on : Bool) (h : Ctl) (s : State) (c : Ctx) (i : Instr), i = (if on then .trcon h else .trcoff h) → Issues s i c →
    (c.any = false → ∃ t w', exec i s = .next t ∧ Done c t w' ∧ KeptAll c.w.regs w'.regs) ∧
    (c.any = true → ∃ t w', exec i s = .next t ∧ GoesOn c t w' ∧ w'.regs = c.w.regs ∧ w'.trace = on ∧
      w'.slot c.slot = some (c.p.advance.issued c.h.stall))) ∧
  (∀ (h : Ctl) (n : Nat) (d : Dst), (∀ k, d = .s k → k < 64) → CompletesWith (.cntrd h n d) fun c g g' =>
    let v := if n < 16 then tget c.w.stalls n 0 else min (c.s.core c.ck).slow 0xFFFFFFFF
    match d with
    | .v k => LanesOf c g g' k (fun _ => []) fun _ => BitVec.ofNat 32 v
    | .s k => UniformOf c g g' k [] (BitVec.ofNat 64 v))

/-- TRAP_DELIVERY (R396, R397), where no launch is aborted and the wave is not traced: a wave with a pending fault whose counters
are zero enters its handler at sys.tvec with its remaining lanes and one path, the record at offset 0x2400 of its
block written; with no handler the launch's fault action applies: TRAP stops the wave with its record written and
sends an event, ABORT aborts the launch with status 12. -/
def Obligations.TrapDelivery : Prop :=
  ∀ (s : State) (wk : Nat) (w : Wave) (f : FaultRec), s.wave wk = some w → w.trap.pend = some f → w.trace = false →
    (∀ l ∈ s.launches, l.2.aborted = none) →
    let v := w.settle s.now
    (w.trap.tvec ≠ 0 → w.trap.inHandler = false → (∀ k, k < 6 → v.ctr k = 0) → w.parked = [] → w.region = none → s.halted v = false →
      ∀ u, (s.setWave wk v).hwWrite wk f.slot f.pc f.mask 0x2400 ((s.setWave wk v).trapRecord v f) = .done u → u.targetBad v w.trap.tvec w.trap.tvec = none →
      ∃ t w', exec (.trapDelivery wk) s = .next t ∧ t.wave wk = some w' ∧
        w'.slot0 = some { pc := w.trap.tvec, mask := w.lanesLeft } ∧ w'.slot1 = none ∧ w'.stack = w.stack ∧ w'.regs = w.regs ∧
        w'.trap = { w.trap with inHandler := true, pend := none, handled := some f, floor := w.stack.length } ∧
        (∀ k, k ≠ wk → t.wave k = s.wave k) ∧ t.mem = u.mem ∧ t.cores = u.cores) ∧
    (w.trap.tvec = 0 ∧ w.trap.inHandler = false → (s.hdr w).fact = 0 → (∀ k, k < 6 → v.ctr k = 0) → w.parked = [] → w.region = none →
      s.halted v = false → w.trap.faulted = none →
      ∀ u, (s.setWave wk v).hwWrite wk f.slot f.pc f.mask 0x2400 ((s.setWave wk v).trapRecord v f) = .done u →
      ∃ t w', exec (.trapDelivery wk) s = .next t ∧ t.wave wk = some w' ∧ w'.trap.faulted = some true ∧ w'.trap.pend = none ∧
        w'.trap.handled = some f ∧ w'.slot0 = w.slot0 ∧ w'.slot1 = w.slot1 ∧ w'.regs = w.regs ∧ .faulted wk true ∈ t.events) ∧
    ((w.trap.tvec = 0 ∨ w.trap.inHandler = true) → w.region = none → (s.hdr w).fact = 1 → ∀ L, s.launch w.launch = some L →
      ∃ t L', exec (.trapDelivery wk) s = .next t ∧ t.launch w.launch = some L' ∧ L'.aborted = some 12 ∧ L'.faultCode = f.code) ∧
    /- it waits for the wave's counters, and while the launch is halted -/
    (w.trap.tvec ≠ 0 → w.trap.inHandler = false → ((∃ k, k < 6 ∧ v.ctr k ≠ 0) ∨ s.halted v = true) → ∃ t, exec (.trapDelivery wk) s = .next t ∧
      t.waves = s.waves ∧ t.mem = s.mem)

/-! ## Steps without an encoding -/

/-- Steps of a wave (R41, R43, R56, R59, R60, R111, R120, R154, R215, R393): a hold or a SLEEP that has run out ends; the
counter decrements that are due are made; a wave passed over 256 times is overdue; a missing line arrives; the
walk of an access gives its lanes their places and lets its path go on; a request that the gate has held too long
ends the replay with cause 3; a wave without paths whose counters are zero retires; a pre-emption takes off a wave
that stands in an open span, and is deferred outside one. -/
def Obligations.WaveSteps : Prop :=
  (∀ (s : State) (wk k : Nat) (w : Wave) (p : Path), s.wave wk = some w → w.slot k = some p →
    (p.hold = some 0 → exec (.stallCountExpiry wk k) s = .next (s.setWave wk (w.setSlot k (some { p with hold := none })))) ∧
    (p.hold ≠ some 0 → ∃ t, exec (.stallCountExpiry wk k) s = .next t ∧ t.wave wk = some w) ∧
    (p.wait = .sleep 0 → exec (.sleepExpiry wk k) s = .next (s.setWave wk (w.setSlot k (some { p with wait := .none })))) ∧
    (p.wait ≠ .sleep 0 → ∃ t, exec (.sleepExpiry wk k) s = .next t ∧ t.wave wk = some w) ∧
    (p.miss = true → s.codeHeld w p.pc = false → ∀ pa key, s.codePa w p.pc = some (pa, key) → ∃ t, exec (.icacheMissFill wk k) s = .next t ∧
      t.wave wk = some (w.setSlot k (some { p with miss := false })) ∧
      tget ((tfind t.icache (polderOf w)).getD []) (pa / 128) [] = (s.reach key (128 * (pa / 128))).l2Read key (128 * (pa / 128)) 128 ∧
      t.mem = s.mem) ∧
    (p.miss = false ∨ s.codeHeld w p.pc = true → exec (.icacheMissFill wk k) s = .next s)) ∧
  (∀ (s : State) (wk : Nat) (w : Wave), s.wave wk = some w →
    (∃ w', exec (.counterDecrement wk) s = .next (s.setWave wk w') ∧ w'.due = w.due.filter (fun d => s.now < d.2) ∧
      (∀ k, k < 6 → w'.ctr k = w.ctr k - (w.due.filter fun d => decide (d.2 ≤ s.now) && d.1 == k).length) ∧
      w' = { w with c := w'.c, due := w'.due }) ∧
    (256 ≤ w.passed → exec (.overdueWave wk) s = .next (s.setWave wk { w with overdue := true })) ∧
    (w.passed < 256 → ∃ t, exec (.overdueWave wk) s = .next t ∧ t.wave wk = some w)) ∧
  (∀ (s : State) (id : Nat) (o : Op) (w : Wave), s.op id = some o → s.wave o.wave = some w → o.isMem = true → o.isRing = false →
    o.isHldm = false → o.inBody = false → o.walked = false → o.finished = false → id ∉ w.parked →
    let ls := (lanes o.todo).filter fun l => !o.ready l
    let u := ls.foldl (fun s l => s.cacheSegs w (o.seg l)) s
    (∀ l ∈ ls, s.laneFault w o l = none) →
    ∃ t w' o', exec (.translationWalk id) s = .next t ∧ t.wave o.wave = some w' ∧ w'.regs = w.regs ∧ t.op id = some o' ∧
      o'.walked = true ∧ o'.todo = o.todo ∧ (o.holding = true → PathReleased w w' id o.slot) ∧ t.mem = s.mem ∧
      ∀ l g, l ∈ ls → u.translateSegs w (o.acc l) (o.seg l) = .ok g → o'.seg l = g) ∧
  (∀ (s : State) (id l t₀ : Nat) (o : Op) (L : Launch), s.op id = some o → tfind o.gated l = some t₀ → s.launch o.launch = some L →
    L.rr.cause = none →
    (t₀ + Config.gateTimeout ≤ s.now → s.gateShut o l = true → s.logHeld o.launch = false → ∃ t L', exec (.gateTimeout id l) s = .next t ∧ t.launch o.launch = some L' ∧
      L'.rr.cause = some 3 ∧ L'.halt = some { (L.halt.getD {}) with diverge := true } ∧ t.waves = s.waves) ∧
    (s.now < t₀ + Config.gateTimeout ∨ s.gateShut o l = false → exec (.gateTimeout id l) s = .next s)) ∧
  (∀ (s : State) (wk : Nat) (w : Wave) (q : Team), s.wave wk = some w → s.team w.team = some q → s.halted w = false → w.trap.broken = false →
    w.slot0 = none → w.slot1 = none → w.stack = [] → w.parked = [] → w.trap.pend = none → (∀ k, k < 6 → (w.settle s.now).ctr k = 0) →
    q.exited.length + q.killed.length + 1 ≠ q.waves →
    (∀ b ∈ s.enrolledIn w.team w.ix, s.barHeld wk (w.settle s.now) (s.barLines (w.settle s.now) b) = false) →
    (∀ off bs c, s.recWrite (w.settle s.now) off bs = .error c → c < fNotResident) →
    ∃ t q', exec (.waveRetire wk) s = .next t ∧ t.wave wk = none ∧ t.team w.team = some q' ∧ q'.exited = q.exited ++ [w.ix]) ∧
  (∀ (s : State) (wk : Nat) (w : Wave), s.wave wk = some w →
    ((w.slot0 ≠ none ∨ w.slot1 ≠ none) → exec (.waveRetire wk) s = .next s) ∧
    (s.halted w = true → exec (.waveRetire wk) s = .next s) ∧
    /- a record that a handler rewrote against R24 to R30: the wave's behaviour is undefined from there on (R399) -/
    (s.halted w = false → w.trap.broken = true → w.slot0 = none → w.slot1 = none → exec (.waveRetire wk) s = .fault .pathStateBroken) ∧
    (w.preempt = none ∨ s.stillHalted w = true → exec (.preemption wk) s = .next s) ∧
    (w.preempt ≠ none → s.stillHalted w = false → w.off = false → w.trap.pend = none → w.trap.inHandler = false → w.trap.faulted = none → w.region = none →
      (w.span.ckpt ≠ none → w.span.isOpen = true → ∃ t w', exec (.preemption wk) s = .next t ∧ t.wave wk = some w' ∧
        w'.off = true ∧ w'.preempt = none ∧ w'.due = [] ∧ w'.span = w.span ∧ t.mem = s.mem ∧ ∀ k, k ≠ wk → t.wave k = s.wave k) ∧
      (w.span.ckpt = none → s.switchWait w = false → exec (.preemption wk) s = .next s)))

/-- Steps of the fault queue, of the registers of a die, and of the debugger (R156, R174, R178, R215, R370-R375, R389, R401,
R403, R406). -/
def Obligations.SystemSteps : Prop :=
  /- the fault queue -/
  (∀ (s : State) (d : Nat) (e : FqEntry), (s.die d).fq = [e] → e.seq = none →
    ((s.die d).fqRoom = true → ∃ t, exec (.faultEntryDeferredWrite d) s = .next t ∧ (t.die d).fqhead = (s.die d).fqhead + 1 ∧
      (t.die d).fq = [{ e with seq := some (s.die d).fqhead }] ∧ t.events = s.events ++ [.fault d (s.die d).fqhead] ∧
      t.waves = s.waves) ∧
    ((s.die d).fqRoom = false → exec (.faultEntryDeferredWrite d) s = .next s)) ∧
  (∀ (s : State) (d : Nat) (q : BitVec 16),
    (∃ t, exec (.fqackWrite d q) s = .next t ∧ (t.die d).acks = (s.die d).acks ++ [⟨q, none, s.now⟩] ∧ t = { s with dies := t.dies } ∧
      ∀ k, k ≠ d → t.die k = s.die k) ∧
    (∃ t, exec (.fqtailWrite d q) s = .next t ∧ (∀ k, k ≠ d → t.die k = s.die k) ∧
      (t.die d).fqtail = if Config.faultRing < ((s.die d).fqhead - q).toNat then (s.die d).fqtail else q) ∧
    ((s.die d).acks = [] → exec (.faultCompletionApply d) s = .next s) ∧
    (∀ a rest, (s.die d).acks = a :: rest → s.now ≤ a.at_ → exec (.faultCompletionApply d) s = .next s) ∧
    (∀ a rest id o w, (s.die d).acks = a :: rest → a.at_ < s.now → a.op = some id → (s.die d).fq = [] → Standing s id o w → o.writes = [] →
      ∃ t w', exec (.faultCompletionApply d) s = .next t ∧ Ended s t id o w w' ∧ (t.die d).acks = rest) ∧
    (∀ a rest e id o w, (s.die d).acks = a :: rest → a.at_ < s.now → a.op = none → a.seq = q → (s.die d).fq = [e] → e.seq = some q →
      e.op = some id → s.op id = some o → o.wave = e.wave → s.wave e.wave = some w → w.span.stale = false → o.inBody = false → (∀ h m, o.instr ≠ .pgreq h m) → ∃ t w', exec (.faultCompletionApply d) s = .next t ∧
        (t.die d).acks = rest ∧ (t.die d).fq = [] ∧ t.wave e.wave = some w' ∧ w' = { w with parked := w.parked.filter (· ≠ id) } ∧
        t.op id = some { o with walked := false }) ∧
    (∀ a rest e id o w h m, (s.die d).acks = a :: rest → a.at_ < s.now → a.op = none → a.seq = q → (s.die d).fq = [e] →
      e.seq = some q → e.op = some id → s.op id = some o →
      o.instr = .pgreq h m → s.wave e.wave = some w → w.span.stale = false → ∃ t w', exec (.faultCompletionApply d) s = .next t ∧ t.op id = none ∧
        t.wave e.wave = some w' ∧ w'.due = if o.ctr < 6 then w.due ++ [(o.ctr, s.now + 1)] else w.due)) ∧
  /- generations -/
  (∀ (s : State) (asid : Nat),
    (∃ t, exec (.asgenWrite asid) s = .next t ∧ t.gen asid = s.gen asid + 1 ∧ (∀ k, k ≠ asid → t.gen k = s.gen k) ∧
      t.waves = s.waves) ∧
    (∀ a, s.asgen = [a] → a.asid = asid → a.op = none → a.wrapped = false → a.regions = [] → a.txs = [] →
      ((∃ x ∈ a.ops, ∃ o, s.op x.1 = some o ∧ o.todo &&& x.2 ≠ 0) → exec (.asgenDrainComplete asid) s = .next s) ∧
      ((∀ x ∈ a.ops, ∀ o, s.op x.1 = some o → o.todo &&& x.2 = 0) → exec (.asgenDrainComplete asid) s = .next { s with asgen := [] }))) ∧
  /- registers of a die -/
  (∀ (s : State) (d n : Nat) (x : DWord), ∃ t, exec (.systemRegisterWrite d n x) s = .next t ∧ t.waves = s.waves ∧
    (n = 0x40 → (t.die d).astbase = x &&& 0x000FFFFFFFFF0000) ∧ (n = 0x42 → (t.die d).fqbase = x &&& 0x000FFFFFFFFF8001) ∧
    (n = 0x48 → (t.die d).trace.base = x &&& 0x000FFFFFFFFFFFC0) ∧ (n = 0x4B → (t.die d).trace.ctl = x.setWidth 32 &&& 0x13F) ∧
    (∀ k, k < 16 → n = 0x50 + k → (tget (t.die d).cmps k {}).addr = x) ∧
    (∀ k, k < 16 → n = 0x60 + k → (tget (t.die d).cmps k {}).ctl = x.setWidth 32 &&& 0xFFFFFFF7)) ∧
  (∀ (s : State) (d core base tk : Nat) (q : Team), s.teams.find? (fun t => t.2.die == d && t.2.core == core &&
      t.2.base == some (256 * base) && !t.2.freed) = some (tk, q) →
    ∃ t, exec (.repack d core base) s = .next t ∧ tk ∈ (t.die d).repacking ∧ (∀ wk w, s.wave wk = some w → ∃ w', t.wave wk = some w' ∧
      w' = if w.team = tk ∧ w.off = false then { w with preempt := some .repack } else w) ∧ t.mem = s.mem) ∧
  (∀ (s : State) (d : Nat),
    ((s.die d).trace.sinceSync < 4096 → exec (.tracePeriodicSync d) s = .next s) ∧
    (4096 ≤ (s.die d).trace.sinceSync → ∃ t, exec (.tracePeriodicSync d) s = .next t ∧ (t.die d).trace.sinceSync = 0 ∧
      t.waves = s.waves)) ∧
  /- halts, their dumps, and the debugger -/
  (∀ (s : State) (lk : Nat) (L : Launch), s.launch lk = some L →
    (L.halt = none → L.st ≠ .done → ∃ t, exec (.debugHalt lk) s = .next t ∧ t.launch lk = some { L with halt := some { since := s.now } } ∧
      t = { s with launches := t.launches }) ∧
    (∀ h, L.halt = some h → h.diverge = false → h.dump = none → ∃ t, exec (.debugResume lk) s = .next t ∧
      t.launch lk = some { L with halt := none } ∧ t = { s with launches := t.launches }) ∧
    (L.st ≠ .done → L.aborted = none → ∃ t L', exec (.debugKill lk) s = .next t ∧ t.launch lk = some L' ∧ L'.aborted = some 13) ∧
    (∀ h, L.halt = some h → h.complete = false → (∀ o ∈ s.ops, o.2.launch ≠ lk) →
      (∀ w ∈ s.waves, w.2.launch = lk → ∀ x ∈ w.2.due, x.2 ≤ s.now) → ∃ t, exec (.haltComplete lk) s = .next t ∧
        t.launch lk = some { L with halt := some { h with complete := true } } ∧ t.mem = s.mem) ∧
    (∀ h, L.halt = some h → h.complete = true → exec (.haltComplete lk) s = .next s) ∧
    ((∀ h, L.halt = some h → h.complete = false) → exec (.debugDump lk) s = .next s) ∧
    (∀ h, L.halt = some h → h.complete = true →
      (∀ u, s.dump lk L none = .wrote u → exec (.debugDump lk) s = .next u) ∧
      (s.dump lk L none = .failed → exec (.debugDump lk) s = .next s) ∧
      (s.dump lk L none = .held → exec (.debugDump lk) s = .next { s with again := s.again ++ [.ev (.debugDump lk)] })) ∧
    (∀ h wk f, L.halt = some h → h.complete = true → h.dump = some (wk, f) → L.aborted = none →
      (s.dump lk L (some (wk, f)) ≠ .held → ∃ t L', exec (.dumpWrite lk) s = .next t ∧
        t.launch lk = some L' ∧ L'.aborted = some 10 ∧ L'.faultCode = f.code) ∧
      (s.dump lk L (some (wk, f)) = .held → exec (.dumpWrite lk) s = .next s)) ∧
    (∀ h, L.halt = some h → h.complete = true → h.dump = none → h.diverge = true → L.aborted = none →
      (L.hdr.fact = 2 → s.dump lk L none ≠ .held) → ∃ t L', exec (.replayDivergeEnd lk) s = .next t ∧
      t.launch lk = some L' ∧ L'.aborted = some 9)) ∧
  (∀ (s : State) (d core ws path wk k : Nat) (w : Wave) (p : Path), s.waveAt d core ws = some (wk, w) → s.wave wk = some w →
    w.slotAt path = some k → w.slot k = some p → w.trace = false →
    (p.stopped = false → ∃ t, exec (.debugStop d core ws path) s = .next t ∧
      t.wave wk = some (w.setSlot k (some { p with stopped := true, oneStep := false, arr := false })) ∧ t.mem = s.mem) ∧
    (p.stopped = true → exec (.debugStop d core ws path) s = .next s) ∧
    (w.trap.faulted = none → p.stopped = true → ∃ t, exec (.debugGo d core ws path) s = .next t ∧
      t.wave wk = some (w.setSlot k (some { p with stopped := false, oneStep := false, arr := false })) ∧ t.mem = s.mem) ∧
    (w.trap.faulted = none → p.stopped = false → exec (.debugGo d core ws path) s = .next s) ∧
    (w.trap.faulted = some false → exec (.debugGo d core ws path) s = .next s) ∧
    (p.stopped = true → ∃ t, exec (.debugStep d core ws path) s = .next t ∧
      t.wave wk = some (w.setSlot k (some { p with oneStep := true, arr := false })) ∧ t.mem = s.mem) ∧
    (p.stopped = false → s.halted w = false → exec (.debugStep d core ws path) s = .next s))

/-- Steps of the scheduler and of the end of a launch (R81, R86, R329, R380-R392, R400). -/
def Obligations.SchedulerSteps : Prop :=
  (∀ (s : State) (lk : Nat) (L : Launch), s.launch lk = some L →
    (L.st = .queued → L.aborted = none → s.eligible L = true → ∃ t, exec (.launchEligible lk) s = .next t ∧
      t.launch lk = some { L with st := .eligible } ∧ t = { s with launches := t.launches }) ∧
    (s.eligible L = false → exec (.launchEligible lk) s = .next s) ∧
    (∀ b d i, b.launch = lk → b.dieList = [d] → d < Config.dies → L.st = .eligible → s.eligible L = true → s.bindsFirst lk L = true →
      s.bindOk b L = true → L.hdr.dmin ≤ 1 → 1 ≤ L.hdr.dmax → L.est = none → L.depTasks = [] → (s.die d).freeSlot = some i →
      ∃ t, exec (.bindRecordWrite b) s = .next t ∧ t.launch lk = some { L with st := .running, dieList := [d], d := 1 } ∧
        tfind (t.die d).slots i = some { valid := true, det := L.hdr.det, prio := L.hdr.prio, dielo := d, diehi := d, wpc := (BindArgs.on b d).wpc, qidx := L.qseq % 1024, stagger := (BindArgs.on b d).stagger, clfirst := 0, cllast := L.hdr.perShare - 1, cores := (BindArgs.on b d).cores, launch := lk, next := 0 } ∧
        (∀ k, k ≠ i → tfind (t.die d).slots k = tfind (s.die d).slots k) ∧ t.mem = s.mem) ∧
    /- R382: VALID is cleared, and the launch's clusters that are left are dispatched no further -/
    (∀ b d, b.launch = lk → b.dieList = [d] → b.wpc = 0 → L.st = .running → ∃ t, exec (.bindRecordWrite b) s = .next t ∧
      (∀ k r, tfind (t.die d).slots k = some r → r.launch = lk → r.valid = false) ∧ t.launches = s.launches ∧ t.mem = s.mem) ∧
    (∀ d, L.honoured = true → L.st = .running → L.dieList = [d] → s.otherTeams d lk = false → (s.die d).oppPend = none →
      (s.die d).opp ≠ L.hdr.opp → ∃ t, exec (.oppChange lk) s = .next t ∧ (t.die d).oppPend = some L.hdr.opp ∧
        t = { s with dies := t.dies }) ∧
    (L.honoured = false → exec (.oppChange lk) s = .next s) ∧
    /- the end of a launch -/
    (L.st ≠ .done → L.tkdone = false → L.refused = none → s.launchOver lk L = true → L.est = none → L.hdr.rrmode = 0 → L.depTasks = [] →
      L.hdr.cring = 0 → ∃ t L', exec (.launchComplete lk) s = .next t ∧ t.launch lk = some L' ∧ L'.st = .done ∧ L'.owed = false ∧
        (∀ o ∈ t.ops, o.2.launch ≠ lk) ∧ (∀ x ∈ t.teams, x.2.launch ≠ lk) ∧ ∀ d b, b ∈ (t.die d).slots → b.2.launch ≠ lk) ∧
    (s.launchOver lk L = false → L.tasks = [] → L.owes = [] → exec (.launchComplete lk) s = .next s) ∧
    /- a team record that a killed wave owes is written before the launch ends (R410) -/
    (∀ r u, L.st ≠ .done → L.tkdone = false → L.refused = none → L.owes = [r] → (∀ e ∈ (s.die r.die).fq, e.op ≠ some r.entry) →
      s.asidWrite r.die L.hdr.asid r.addr r.bytes = .ok u → u.launch lk = some L → ∃ t, exec (.launchComplete lk) s = .next t ∧
        t.launch lk = some { L with owes := [] } ∧ t.mem = u.mem) ∧
    (L.owed = true → L.refused = none → L.hdr.cring ≠ 0 →
      (∀ u, s.ringPush L.home L.hdr.asid L.hdr.cring L.completion = some u → ∃ t L', exec (.completionRingRetry lk) s = .next t ∧
        t.launch lk = some L' ∧ L'.st = .done ∧ L'.owed = false ∧ t.mem = u.mem) ∧
      (s.ringPush L.home L.hdr.asid L.hdr.cring L.completion = none → ∃ t, exec (.completionRingRetry lk) s = .next t ∧
        t.launch lk = some L ∧ t.mem = s.mem)) ∧
    (L.owed = false → exec (.completionRingRetry lk) s = .next s) ∧
    /- a step boundary -/
    (∀ d, L.st = .running → L.aborted = none → L.halt = none → L.dieList.length = L.d → L.hdr.dmin ≤ d → d ≤ L.hdr.dmax → d ≤ L.d →
      L.allDispatched = true → s.atBoundary lk L = true → (∃ w ∈ s.waves, w.2.launch = lk ∧ w.2.stepN = L.boundary + 1) →
      (∀ x ∈ s.ops, ∀ y ∈ s.ops, x.2.wave = y.2.wave → x.2.launch = y.2.launch) → ∃ t L', exec (.stepBoundary lk d) s = .next t ∧ t.launch lk = some L' ∧ L'.boundary = L.boundary + 1 ∧ L'.d = d ∧
        L'.dieList = L.dieList.take d ∧ (∀ k, d ≤ k → k < L.d → k ∈ L'.withdrawn) ∧
        ∀ id o h p, s.op id = some o → o.launch = lk → o.instr = .stepmk h p → t.op id = none) ∧
    (s.atBoundary lk L = false → ∀ d, exec (.stepBoundary lk d) s = .next s) ∧
    /- a context switch of a cluster that is off, and its restoration -/
    (∀ c, let ts := s.clusterTeams lk c
      ts ≠ [] → (∀ x ∈ ts, x.2.out = false ∧ x.2.freed = false ∧ x.2.begun = true ∧ x.1 ∉ (s.die x.2.die).repacking ∧
        x.1 ∉ (s.die x.2.die).replaced) → (∃ w ∈ s.waves, w.2.launch = lk ∧ ∃ x ∈ ts, x.1 = w.2.team) →
      (∀ w ∈ s.waves, w.2.launch = lk → w.2.off = true) → (∀ o ∈ s.ops, ∀ x ∈ ts, x.1 ≠ o.2.wave / 32) →
      ∃ t, exec (.contextSwitch lk c) s = .next t ∧ ∀ x ∈ ts, ∃ y, t.team x.1 = some y ∧ y.out = true ∧ y.base = none ∧ y.gran = []) ∧
    (∀ c core tk q i b u, s.clusterTeams lk c = [(tk, q)] → q.out = true → L.aborted = none → core < Config.coresPerDie →
      (s.die q.die).slots = [(i, b)] → b.launch = lk → L.hdr.share b.cllast = L.hdr.share c → b.cores.getLsbD core = true →
      s.restoreTeam L b tk q core = some u → exec (.contextRestore lk c [core]) s = .next u)) ∧
  /- dispatch -/
  (∀ (s : State) (d k : Nat) (b : BindRec) (L : Launch), (s.die d).repacking = [] → (s.die d).replaced = [] →
    (s.die d).slots = [(k, b)] → b.valid = true → b.prio < 4 → s.launch b.launch = some L →
    (s.mayDispatch d b L = false → ∃ t, exec (.dispatchStep d) s = .next t ∧ t.waves = s.waves ∧ t.teams = s.teams ∧
      t.launches = s.launches ∧ tfind (t.die d).slots k = some { b with fragSince := none }) ∧
    (s.mayDispatch d b L = true → ∀ p xs, (b.polders.findSome? fun p => (s.attempt true d b L.hdr p).map fun xs => (p, xs)) = some (p, xs) →
      ∃ t, exec (.dispatchStep d) s = .next t ∧ t.launch b.launch = some { L with dispatched := L.dispatched ++ [b.next] } ∧
        (∃ b', tfind (t.die d).slots k = some b' ∧ b'.next = b.next + 1 ∧ b'.last = some p) ∧
        ∀ x ∈ xs, ∃ q, t.team (teamKey b.launch b.next x.1) = some q ∧ q.launch = b.launch ∧ q.cluster = b.next ∧ q.die = d ∧
          q.lti = x.1 ∧ q.core = x.2.1 ∧ q.base = some (32 * x.2.2.base) ∧ q.begun = false ∧ q.waves =
            wavesOf (L.hdr.stages.getD (stageOf L.hdr x.1) ⟨0, 0, 1, 0⟩).threads) ∧
    (∀ t₀ p, b.fragSince = some t₀ → b.fragSent = false → t₀ + 4096 ≤ s.now → s.fragPolder d b L.hdr = some p →
      ∃ t, exec (.fragmentationEvent d k) s = .next t ∧ t.events = s.events ++ [.fragmentation d k b.next p] ∧
        tfind (t.die d).slots k = some { b with fragSent := true } ∧ t.waves = s.waves) ∧
    (b.fragSent = true → exec (.fragmentationEvent d k) s = .next s)) ∧
  (∀ (s : State) (ck g : Nat) (x : Gran), tfind (s.core ck).drains g = some x →
    ∃ t, exec (.granuleDrainComplete ck g) s = .next t ∧ tfind (t.core ck).grans g = (if x = .cache then none else some x) ∧
      tfind (t.core ck).drains g = none ∧
      (∀ k, k ≠ g → tfind (t.core ck).grans k = tfind (s.core ck).grans k ∧ tfind (t.core ck).drains k = tfind (s.core ck).drains k) ∧
      ∀ k, k ≠ ck → t.core k = s.core k) ∧
  (∀ (s : State) (tk : Nat) (q : Team) (i : Nat) (b : BindRec), s.team tk = some q → s.waitSlot tk q = some (i, b) → q.begun = false →
    b.waiting.find? (fun x => s.waves.any fun w => w.2.team == x) = some tk →
    (∀ u ∈ s.teams, u.2.launch = q.launch → u.2.cluster = q.cluster → s.draining u.1 u.2 = false) →
    (∀ x, b.lastFirst = some x → x + b.stagger ≤ s.now) → (∀ L, s.launch q.launch = some L → L.halt = none ∧ L.aborted = none) →
    ∃ t, exec (.teamFirstIssue tk) s = .next t ∧ t.team tk = some { q with begun := true } ∧ t.waves = s.waves) ∧
  (∀ (s : State) (ck : Nat),
    ((s.core ck).owner = none → (∃ w ∈ s.wavesOn ck, (s.hdr w.2).det = true) → ∃ t, exec (.deterministicFirstOwner ck) s = .next t ∧
      t.core ck = { s.core ck with owner := s.pickOwner ck } ∧ ∀ k, k ≠ ck → t.core k = s.core k) ∧
    ((s.core ck).owner ≠ none → exec (.deterministicFirstOwner ck) s = .next s)) ∧
  (∀ (s : State) (d : Nat),
    (∀ p, (s.die d).oppPend = some p → ∃ t, exec (.operatingPointStable d) s = .next t ∧ (t.die d).opp = p ∧ (t.die d).oppPend = none ∧
      t = { s with dies := t.dies }) ∧
    ((s.die d).oppPend = none → exec (.operatingPointStable d) s = .next s))

/-- Steps of the host's side (R282-R286, R443, R446-R457, Table 24-5): starts, requests, keys, pools, the Breach alarm, the
host port, the release of an address space and the removal of power. -/
def Obligations.HostSteps : Prop :=
  (∀ (s : State) (x : StartArgs) (warm : Bool), (if warm then s.boot.st ≠ 1 ∧ s.boot.wfail ≠ 3 else s.boot.st ≠ 1) →
    let e : Instr := if warm then .startWarm x else .startCold x
    /- the images and the retained block are those that stand at the addresses of the start registers -/
    (∀ fw cfg c, s.cleared.startFails x warm = none → s.cleared.imageAt s.boot.fwimg.toNat s.world.firmware = some fw →
      s.cleared.configAt = some (cfg, c) → ∃ t, exec e s = .next t ∧ t.waves = [] ∧ t.launches = [] ∧ t.ops = [] ∧ t.cores = [] ∧
      t.boot = { s.boot with st := 2, stage := 0x90, mode := if warm then 2 else 1, wfail := 0, derivOff := (warm && s.boot.derivOff), stopped := false, fwDigest := Config.sha512 fw, cfgDigest := Config.sha512 cfg, policy := c.policy, poolBase := c.poolBase, poolPages := c.poolPages, poolSlot := c.poolSlot, peers := c.peers } ∧
      (∀ d, d < Config.dies → t.die d = { rings := c.rings.getD d (0, 0, 0), priv := c.privRing.getD d false }) ∧
      (t.keyOf 0).loaded = true ∧ (t.keyOf c.poolSlot).loaded = true ∧
      t.world.retained = s.world.retained ++ (if warm then [] else [Config.retainedBlock s.freeSeq]) ∧ (warm = true → t.mem = s.mem)) ∧
    (∀ stage, s.cleared.startFails x warm = some stage → ∃ t, exec e s = .next t ∧ t.waves = [] ∧ t.launches = [] ∧
      t.boot.st = 3 ∧ t.boot.stage = stage ∧ (∀ k, (t.keyOf k).loaded = false) ∧ t.mem = s.mem ∧
      t.boot.wfail = if warm then min 3 (s.boot.wfail + 1) else s.boot.wfail)) ∧
  (∀ (s : State) (x : StartArgs), (s.boot.st = 1 → exec (.startCold x) s = .next s) ∧
    (s.boot.wfail = 3 → exec (.startWarm x) s = .next s)) ∧
  /- request rings -/
  (∀ (s : State) (d ring : Nat), (s.die d).replies = [] →
    (s.running = false → exec (.requestRingPoll d ring) s = .next s) ∧
    (s.running = true → s.keyOwed d = false → (∀ p ∈ s.again, pickDie p ≠ some d) →
      let pa := if ring = 0 then (s.die d).rings.1 else (s.die d).rings.2.1
      (s.hostRing pa = none → exec (.requestRingPoll d ring) s = .next s) ∧
      ∀ b, s.hostRing pa = some b → (b.tail = b.head → exec (.requestRingPoll d ring) s = .next s) ∧
        let x := leNat (s.hostRead (b.elem b.head).toNat 16)
        (s.hostHeld pa 32 = true ∨ s.hostHeld (b.elem b.head).toNat 16 = true → exec (.requestRingPoll d ring) s = .next s) ∧
        (b.tail ≠ b.head → s.hostHeld pa 32 = false → s.hostHeld (b.elem b.head).toNat 16 = false → field x 32 8 = 0 → ∃ t, exec (.requestRingPoll d ring) s = .next t ∧
          t.agenda = .ev (requestStep (requestOf d ring x)) :: s.agenda ∧ t.waves = s.waves ∧
          ∀ k, k < 8 → memGet t.mem (pa + 8 + k) = (leBytes 8 ((b.head + 1) % 2 ^ 64)).getD k 0))) ∧
  (∀ (s : State) (r : Request), s.running = true → (s.die r.die).replies = [] →
    (s.hostRing (s.die r.die).rings.2.2 = none → ∃ t, exec (.badop r) s = .next t ∧ t.waves = s.waves ∧ t.mem = s.mem ∧
      (t.die r.die).replies = [BitVec.ofNat 128 (r.tag.toNat * 2 ^ 48 + 1 * 2 ^ 8 + r.op % 256)]) ∧
    (∀ l, s.checkLaunch r.die r.target r.asid r.addr (r.ring == 0 && (s.die r.die).priv) (r.ring == 0 && (s.die r.die).priv) = .ok l →
      ∃ t, exec (.start r) s = .next t ∧ t.launch (launchKey r.target l.qseq) = some { l with order := s.opSeq } ∧ t.waves = s.waves) ∧
    (∀ st n x, s.checkLaunch r.die r.target r.asid r.addr (r.ring == 0 && (s.die r.die).priv) (r.ring == 0 && (s.die r.die).priv) =
      .refused st n x → ∃ t, exec (.start r) s = .next t ∧ t.waves = s.waves ∧ ∀ k, k < 2 ^ 72 → t.launch k = s.launch k) ∧
    (∀ va x, s.checkLaunch r.die r.target r.asid r.addr (r.ring == 0 && (s.die r.die).priv) (r.ring == 0 && (s.die r.die).priv) =
      .park va x → ∃ t, exec (.start r) s = .next t ∧ t.waves = s.waves ∧ ∀ k, k < 2 ^ 72 → t.launch k = s.launch k) ∧
    (s.checkLaunch r.die r.target r.asid r.addr (r.ring == 0 && (s.die r.die).priv) (r.ring == 0 && (s.die r.die).priv) = .wait →
      exec (.start r) s = .next (s.later r)) ∧
    (r.ring ≠ 0 → (∃ t, exec (.keyload r) s = .next t ∧ t.keys = s.keys ∧ t.waves = s.waves) ∧
      ∃ t, exec (.poolreg r) s = .next t ∧ (t.die r.die).pool = (s.die r.die).pool ∧ t.waves = s.waves) ∧
    (r.ring = 0 → ∀ bs, s.fwRead r.die r.asid r.addr 192 = .ok bs → bs.length = 192 → ∀ slot, slot ≠ 0 → slot ≠ s.boot.poolSlot → slot < 256 →
      leNat (bs.take 4) = slot → leNat ((bs.drop 4).take 4) = 0 → leNat ((bs.drop 0xB5).take 11) = 0 →
      Config.onCurve ((bs.drop 8).take 133) = true → s.boot.derivOff = false →
      (Config.unwrapKey ((bs.drop 8).take 133) ((bs.drop 0x8D).take 40)).isSome = true →
      ∃ t, exec (.keyload r) s = .next t ∧ (t.keyOf slot).pend = some (s.keyWait slot r.die (Machine.reply r rOk 0)) ∧
        (t.keyOf slot).gen = (s.keyOf slot).gen ∧ t.mem = s.mem) ∧
    (r.ring = 0 → ∀ bs, s.fwRead r.die r.asid r.addr 64 = .ok bs →
      let b := poolBlk (leNat bs)
      r.addr.toNat % 64 = 0 → field (leNat bs) 255 64 = 0 → b.row % 128 = 0 → 128 ≤ b.row → b.row ≤ 65536 → b.low < b.high →
      s.asidHeld r.die r.asid b.ring 32 = false →
      let u := (s.asidReach r.die r.asid r.addr 64).asidReach r.die r.asid b.ring 32
      ∀ f, u.freeRing r.die r.asid b.ring = some f → f.size = 4 → b.high ≤ f.cap →
      ∃ t, exec (.poolreg r) s = .next t ∧ (t.die r.die).pool = some { asid := r.asid, block := r.addr } ∧ t.waves = s.waves) ∧
    (∀ bs image, s.fwRead r.die r.asid r.addr 16 = .ok bs →
      (s.asidReach r.die r.asid r.addr 16).fwRead r.die r.asid (BitVec.ofNat 64 (leNat (bs.take 8))) (leNat (bs.drop 8)) = .ok image →
      ∃ t, exec (.measure r) s = .next t ∧ t.waves = s.waves ∧ tget t.kmeas r.asid {} =
        { k := Config.sha512 (Config.digestBytes (tget s.kmeas r.asid {}).k ++ Config.digestBytes (Config.sha512 image))
          count := (tget s.kmeas r.asid {}).count + 1 }) ∧
    (∀ nonce, s.fwRead r.die r.asid r.addr 64 = .ok nonce → ∀ u, (let k := tget s.kmeas r.asid {}
        (s.asidReach r.die r.asid r.addr 64).asidWrite r.die r.asid (r.addr + Config.reportOffset)
          (Config.report nonce s.boot.fwDigest s.boot.cfgDigest k.k k.count s.boot.mode)) = .ok u →
      u.hostRing (u.die r.die).rings.2.2 = none → (u.die r.die).replies = [] →
      ∃ t, exec (.attest r) s = .next t ∧ t.mem = u.mem ∧ t.waves = u.waves)) ∧
  (∀ (s : State) (slot : Nat) (p : KeyPend), (s.keyOf slot).pend = some p → p.replies = [] →
    ((∃ x ∈ p.ops, ∃ o, s.op x.1 = some o ∧ o.todo &&& x.2 ≠ 0) ∨ s.heldLeft p.regions p.txs = true →
      exec (.keySlotSwitch slot) s = .next s) ∧
    ((∀ x ∈ p.ops, ∀ o, s.op x.1 = some o → o.todo &&& x.2 = 0) → s.heldLeft p.regions p.txs = false → ∃ t, exec (.keySlotSwitch slot) s = .next t ∧
      t.keyOf slot = { loaded := true, gen := (s.keyOf slot).gen + 1 } ∧ (∀ k, k ≠ slot → t.keyOf k = s.keyOf k) ∧ t.waves = s.waves)) ∧
  /- pools -/
  (∀ (s : State) (d : Nat),
    (s.poolAt d = none → exec (.poolLevelEval d) s = .next s ∧ exec (.swapOut d) s = .next s ∧ exec (.swapIn d) s = .next s) ∧
    (s.poolHeld d = true → exec (.poolLevelEval d) s = .next s ∧ exec (.swapOut d) s = .next s ∧ exec (.swapIn d) s = .next s) ∧
    ∀ pool p q, s.poolAt d = some (pool, p) → pool.busy = none → (s.die d).pool = some pool → s.poolHeld d = false →
      (s.poolLevel p ≠ 1 → ∃ t, exec (.poolLevelEval d) s = .next t ∧ (t.die d).pool = some { pool with cursor := 0 } ∧ t.mem = s.mem) ∧
      (s.poolLevel p = 1 → (s.seqOrder p)[pool.cursor]? = some q → q.st = 0 → ∃ t, exec (.poolLevelEval d) s = .next t ∧
        (t.die d).pool = some { pool with cursor := pool.cursor + 1, busy := some (q.ix, 2) }) ∧
      (s.poolLevel p ≠ 2 → exec (.swapOut d) s = .next s) ∧
      (s.poolLevel p = 2 → (s.seqOrder p).find? (fun q => q.st == 0) = some q → ∃ t, exec (.swapOut d) s = .next t ∧
        (t.die d).pool = some { pool with busy := some (q.ix, 3) }) ∧
      (((s.seqOrder p).reverse).find? (fun q => q.st == 4) = none → exec (.swapIn d) s = .next s) ∧
      ∀ xs, ((s.seqOrder p).reverse).find? (fun q => q.st == 4) = some q → s.mapped p q 0 q.len = some xs →
        p.blk.high + xs.length ≤ s.poolFree p → ∃ t, exec (.swapIn d) s = .next t ∧
          (t.die d).pool = some { pool with busy := some (q.ix, 5) }) ∧
  /- the alarm, the port, an address space and power -/
  (∀ (s : State) (n : Nat),
    (s.boot.policy = 0 → exec (.breachAlarm n) s = .next (s.event (.breach n))) ∧
    (s.boot.policy = 1 → ∃ t, exec (.breachAlarm n) s = .next t ∧ (∀ k, (t.keyOf k).loaded = false ∧ (t.keyOf k).pend = none) ∧
      t.boot.derivOff = true) ∧
    (2 ≤ s.boot.policy → ∃ t, exec (.breachAlarm n) s = .next t ∧ (∀ k, (t.keyOf k).loaded = false) ∧ t.waves = [] ∧ t.launches = [] ∧
      t.boot.st = 3 ∧ t.boot.stage = 0xF0 ∧ t.boot.stopped = true) ∧
    ((n = 16 ∨ n = 8) → n < s.boot.hostLanes → exec (.hostLaneFail n) s = .next { s with boot := { s.boot with hostLanes := n } }) ∧
    (¬ ((n = 16 ∨ n = 8) ∧ n < s.boot.hostLanes) → exec (.hostLaneFail n) s = .next s)) ∧
  (∀ (s : State) (a : Nat) (b : Byte),
    (isHostMem a = true → s.pinnedAny (a / 128) = true →
      exec (.hostCoherence a b) s = .next { s with again := s.again ++ [.poke a b] }) ∧
    (isHostMem a = true → s.pinnedAny (a / 128) = false → ∃ t, exec (.hostCoherence a b) s = .next t ∧ memGet t.mem a = b ∧ t.waves = s.waves ∧
      ∀ k, k ≠ a → memGet t.mem k = memGet (s.evictEverywhere (a / 128)).mem k) ∧
    (isHostMem a = false → exec (.hostCoherence a b) s = .next s)) ∧
  (∀ (s : State) (asid d i : Nat) (x : Die) (u : Tile), s.dies = [(d, x)] → x.tiles = [(i, u)] → u.st ≠ 0 →
    (∀ o ∈ s.ops, o.2.parkedOn d i = false) →
    (u.asid = asid → ∃ t, exec (.addressSpaceRelease asid) s = .next t ∧ t.tile d i = { gen := (u.gen + 1) % 65536 } ∧
      (t.die d).poolUsed = x.poolUsed - (u.size + 4095) / 4096 ∧ t.waves = s.waves ∧
      ∀ y ∈ t.tensors, y.1 % 2 ^ 24 / 4096 ≠ asid) ∧
    (u.asid ≠ asid → exec (.addressSpaceRelease asid) s = .next (s.asidTensors asid))) ∧
  (∀ s : State, ∃ t, exec .powerRemoval s = .next t ∧ t.waves = [] ∧ t.launches = [] ∧ t.dies = State.reset.dies ∧ t.keys = [] ∧
    t.boot = State.reset.boot ∧ ∀ a, memGet t.mem a = if isHostMem a then memGet s.mem a else 0)

/-! ## The machine as a whole -/

/-- p7 reads true and without poison in every lane, a result written to it changes no register, and a compare that names p7
writes its other destination alone (R14). -/
def Obligations.PredicateSeven : Prop :=
  (∀ (c : Ctx) (l : Nat), (c.rdP 7 l).val = 1 ∧ (c.rdP 7 l).pois = false) ∧
  (∀ (c : Ctx) (f : Nat → Rd) (g : Regs), (c.toP 7 f).apply g = g) ∧
  (∀ (i : Instr) (pd pe : Nat) (a b : Src) (yes no : Word → Word → Bool), compareForm i = some (pd, pe, a, b, yes, no) →
    (pd = 7 → CompletesWith i fun c g g' =>
      PredOf c g g' pe (fun l => [c.rd a l, c.rd b l]) (fun l => no (c.rd a l).word (c.rd b l).word)) ∧
    (pe = 7 → CompletesWith i fun c g g' =>
      PredOf c g g' pd (fun l => [c.rd a l, c.rd b l]) (fun l => yes (c.rd a l).word (c.rd b l).word)))

/-- A word whose CTR field, bits 23-21, holds 6 poisons; what GUARD, STALL, YLD and WAIT hold (bits 20-10 and 29-24) decides
of no word whether it is an instruction (R53). -/
def Obligations.CounterSix : Prop :=
  (∀ (V ver : Nat) (w : BitVec 96), w.toNat / 2 ^ 21 % 8 = 6 → ∃ h ds, decode V ver w = .poison h ds) ∧
  (∀ (V ver : Nat) (w w' : BitVec 96),
    (∀ k, k < 96 → ¬ (10 ≤ k ∧ k < 21) → ¬ (24 ≤ k ∧ k < 30) → w.getLsbD k = w'.getLsbD k) →
    (∃ i, decode V ver w = .instr i) → ∃ j, decode V ver w' = .instr j)

/-- Every well-formed form of a line of version `ver` under V vector registers is encoded in a word that decodes to it, with
every operand at every value (R52, R71-R77). -/
def Obligations.RoundTrip : Prop :=
  ∀ (V ver : Nat) (i : Instr), V ≤ 256 → i.wf V ver = true → ∃ w, encode i = some w ∧ decode V ver w = .instr i

/-- Words of the spec (Table 5-8 and the alterations below it): the compare and the load decode to their instructions; with
FMT 0b11 the compare poisons v17; with Q6 set the load is LD.NF.U16; with Q7 set it poisons v2. -/
def Obligations.DecodeWords : Prop :=
  decode 32 2 0x4000_0004_0200_C004_40E0_9C58 =
    .instr (.isetp ⟨false, 7, 2, false, 7, 0⟩ .lt .s32 1 2 (.v 0) (.imm 16)) ∧
  decode 32 1 0x8001_4008_0002_0100_8020_1D80 =
    .instr (.ld ⟨false, 7, 0, false, 1, 0⟩ .default false .w16 2 ⟨1, 4, 8, 32⟩) ∧
  decode 32 2 0xC000_0004_0200_C004_40E0_9C58 = .poison ⟨false, 7, 2, false, 7, 0⟩ [.v 17] ∧
  decode 32 2 (0x8001_4008_0002_0100_8020_1D80 ||| 1#96 <<< (78 + 6)) =
    .instr (.ldNf ⟨false, 7, 0, false, 1, 0⟩ .default false .w16 2 0 ⟨1, 4, 8, 32⟩) ∧
  decode 32 2 (0x8001_4008_0002_0100_8020_1D80 ||| 1#96 <<< (78 + 7)) = .poison ⟨false, 7, 0, false, 1, 0⟩ [.v 2]

/-- The conditions under which the path in slot `k` of wave `wk` issues from the line that holds its program counter: it is in
no wait state and its stall count has run out, neither the wave nor its quarter has issued in this cycle, it has the turn, its
line is cached, or is that of a loop's body (R116), and well formed, and no comparator matches (R34, R42-R51, R56, R402). What R51 and
R177 make undefined of the line is free. -/
structure Ready (s : State) (wk k : Nat) (w : Wave) (p : Path) (l : Line) : Prop where
  wave : s.wave wk = some w
  path : w.slot k = some p
  runs : s.pathRuns w k true = true
  once : w.issuedNow = false
  quarter : w.quarter ∉ (s.core (coreKey w.die w.core)).quarters
  turn : s.myTurn wk w k = true
  held : s.codeHeld w p.pc = false
  line : ∃ pa key bs, s.codePa w p.pc = some (pa, key) ∧
    (s.cachedLine w pa = some bs ∨ p.loop.isSome = true ∧ s.cachedLine w pa = none ∧ bs = s.l2Read key pa 64) ∧
    l = decodeLine (if s.codeMixed pa key = true then (List.range 64).map fun k => s.free 8 (2 ^ 66 + pa + k) else s.codeBytes w pa bs)
  parity : l.parityOk = true
  format : l.formatOk = true
  brk : ∀ x ∈ (s.die w.die).cmps, x.2.hits (s.hdr w).asid p = false

/-- The state in which a path issues: its arrival is over and it is the issuing path. -/
def atIssue (s : State) (wk k : Nat) (p : Path) : State :=
  { s.modWave wk (fun w => w.setSlot k (some { p with arr := false })) with cur := some (wk, k) }

/-- A STEP RUNS THE DECODED INSTRUCTION. Unless a handler has given the wave paths that break R24 to R30 (R399), when the head of the agenda is the issue of a path that is ready, and its word decodes
to `i`, the step is `exec i`, followed by the bookkeeping of the issue and of free values; a poisoning word is issued as
R66 has it. A step without an encoding at the head of the agenda is `exec` of it, but for one that would change something of a launch whose
halt is complete, which has no effect (R371). With an empty agenda a step only
begins a round (log entry 1). -/
def Obligations.StepRunsDecoded : Prop :=
  (∀ (s : State) (wk k : Nat) (rest : List Pick) (w : Wave) (p : Path) (l : Line), s.pairDue = none →
    s.agenda = .issue wk k :: rest → Ready { s with agenda := rest } wk k w p l →
    let u := atIssue { s with agenda := rest } wk k p
    (w.trap.broken = true → step s = .fault .pathStateBroken) ∧
    (∀ i, w.trap.broken = false → decode (s.hdr w).v l.ver (l.words.getD (p.pc.toNat % 8) 0) = .instr i →
      step s = onNext (exec i u) fun t => (u.settleIssue wk k i t).bump) ∧
    (∀ h ds, w.trap.broken = false → decode (s.hdr w).v l.ver (l.words.getD (p.pc.toNat % 8) 0) = .poison h ds →
      step s = onNext (issuePoison h ds u) fun t => (u.settleIssue wk k (.nop h) t).bump)) ∧
  (∀ (s : State) (i : Instr) (rest : List Pick), s.pairDue = none → s.agenda = .ev i :: rest → i.ctl = none →
    (({ s with agenda := rest } : State).evFrozen i = false → step s = onNext (exec i { s with agenda := rest, cur := none }) State.bump) ∧
    (({ s with agenda := rest } : State).evFrozen i = true → step s = .next (({ s with agenda := rest } : State).bump))) ∧
  (∀ s : State, s.pairDue = none → s.agenda = [] → step s = .next { s with agenda := s.again ++ s.round, again := [] })

/-- The path of a form that does not issue stays as it was but for the stall reason `r` of this cycle; nothing else
changes (R34, R35). -/
def Holds (i : Instr) (s : State) (c : Ctx) (r : Nat) : Prop :=
  ∃ t, exec i s = .next t ∧ t = { s with waves := t.waves } ∧ (∀ k, k ≠ c.wk → t.wave k = s.wave k) ∧
    t.wave c.wk = (s.wave c.wk).map fun w => w.setSlot c.slot ((w.slot c.slot).map fun p => { p with blk := some r })

/-- WHAT STANDS IN THE WAY OF AN ISSUE, in order: a counter of the wait mask above zero (R16), a handle register with a write
pending (R360), a counter at 63 (R60), the checking scoreboard (R65), a form forbidden in a relaxation body (R311) or
in a transaction (R193), and a poisoned input of a consumer, which a load is in the lanes of a transaction (R69); RLXBEG, RLXEND, HLD
and HST look at poison themselves, and an atomic that consumes it leaves its done mask clear. Where none does, the form issues. A poisoning word takes no fault (R78): once its wait mask and its counter let it issue it leaves its address as the origin of a poison tag in every destination of each executing
lane, goes on under its stall count and counts, and changes nothing else. -/
def Obligations.IssueGate : Prop :=
  (∀ (s : State) (i : Instr) (c : Ctx), s.ctx i = some c →
    let waits : Prop := ∃ k, k < 6 ∧ c.h.wait.testBit k = true ∧ c.w.ctr k ≠ 0
    let busy : Prop := ∃ n, RegRef.h n ∈ i.writes ++ i.reads ∧ ∃ b ∈ c.w.hBusy, b.1 = n
    let full : Prop := c.h.ctr < 6 ∧ 63 ≤ c.w.ctr c.h.ctr
    let stops : Prop := c.hdr.scb = true ∧ ∃ z, c.shortStall = some z
    let body : Prop := c.w.region.isSome = true ∧ ∃ z, rlxCause i = some z
    let tx : Prop := i.txForbidden = true ∧ ∃ l, l < 32 ∧ c.x.getLsbD l = true ∧ (tget c.w.tx l {}).active = true
    let eats (l : Nat) : Bool := c.x.getLsbD l && (match i with
      | .rlxbeg _ | .rlxend _ | .hld .. | .hst .. => false
      | .ld .. | .ldNf .. => (tget c.w.tx l {}).active && !(tget c.w.tx l {}).doomed
      | i => i.consumes)
    let bad := maskOf fun l => eats l && (c.poisonIn l).isSome
    (waits → Holds i s c (c.s.waitReason c.wk c.h.wait)) ∧
    (¬ waits → busy → Holds i s c 13) ∧
    (¬ waits → ¬ busy → full → Holds i s c 1) ∧
    (¬ waits → ¬ busy → ¬ full →
      (∀ cause pc, c.hdr.scb = true → c.shortStall = some (cause, pc) →
        exec i s = .next (c.fault fStallShort 0 0 (causeWord cause pc.toNat))) ∧
      (¬ stops → ∀ cause, c.w.region.isSome = true → rlxCause i = some cause →
        exec i s = .next (c.fault fRlxForbidden c.p.mask 0 (c.rlxWord cause (c.lowStep c.p.mask)))) ∧
      (¬ stops → ¬ body → tx → ∃ t w', exec i s = .next t ∧ t.wave c.wk = some w' ∧ w'.regs = c.w.regs ∧ t.mem = s.mem ∧
        (∀ k, k ≠ c.wk → t.wave k = s.wave k) ∧
        ∀ l, l < 32 → c.x.getLsbD l = true → (tget c.w.tx l {}).active = true → (tget w'.tx l {}).doomed = true) ∧
      (¬ stops → ¬ body → ¬ tx → bad ≠ 0 →
        exec i s = .next ((c.unmarked fPoisonConsumed).fault fPoisonConsumed bad 0 0 (c.originOf ((c.poisonIn (lowest bad)).getD 0)))) ∧
      (¬ stops → ¬ body → ¬ tx → bad = 0 → Issues s i c))) ∧
  (∀ (s : State) (c : Ctx) (V ver : Nat) (word : BitVec 96) (h : Ctl) (ds : List OneReg), V ≤ 256 →
    decode V ver word = .poison h ds → s.ctx (.nop h) = some c → (∀ k, k < 6 → c.h.wait.testBit k = true → c.w.ctr k = 0) →
    (c.h.ctr < 6 → c.w.ctr c.h.ctr < 63) →
    ∃ t w', issuePoison h ds s = .next t ∧ Done c t w' ∧
      (∀ d ∈ ds, match d with
        | .v n => ∀ l, l < 32 → c.x.getLsbD l = true → w'.regs.vAt n l = c.p.pc.setWidth 32 ∧ w'.regs.vBad n l = true
        | .s n => c.any = true → w'.regs.sAt n = (c.p.pc.setWidth 32).setWidth 64 ∧ w'.regs.sBad n = true
        | .p k => ∀ l, l < 32 → c.x.getLsbD l = true → w'.regs.pBad k l = true) ∧
      Kept c.w.regs w'.regs (fun n l => .v n ∈ ds ∧ c.x.getLsbD l = true) (fun n => .s n ∈ ds ∧ c.any = true)
        (fun k l => .p k ∈ ds ∧ c.x.getLsbD l = true))

/-- Every step keeps the canonical form of memory: addresses strictly rising, and no byte listed that equals what an unlisted
address reads as. -/
def Obligations.MemoryStaysCanonical : Prop :=
  ∀ s t : State, s.mem.wf = true → step s = .next t → t.mem.wf = true

/-- THE MACHINE AT RESET: the start registers hold zero and STATE is off (Table 31-1); no key slot holds a key; no wave, team,
launch or operation exists; every die's fault queue, translation, trace and comparator registers are zero (Tables 11-9
and 28-4), its tasks and tiles FREE, its Gauge unit as Table 25-1 has it; every granule is in CACHE (R82); generation
numbers and measurements are zero. Memory lists nothing and reads 0 (a choice of the model, log entry 2), and every
lane of the host port is in use (log entry 3). -/
def Obligations.ResetState : Prop :=
  let s := State.reset
  s.mem.wf = true ∧ (∀ a, memGet s.mem a = 0) ∧
  s.boot.st = 0 ∧ s.boot.stage = 0 ∧ s.boot.wfail = 0 ∧ s.boot.fwimg = 0 ∧ s.boot.cfgimg = 0 ∧ s.boot.retain = 0 ∧
  s.boot.hostLanes = 32 ∧ (∀ k, (s.keyOf k).loaded = false) ∧
  (∀ k, s.wave k = none ∧ s.team k = none ∧ s.launch k = none ∧ s.op k = none) ∧ s.cur = none ∧ s.agenda = [] ∧
  (∀ d, (s.die d).astbase = 0 ∧ (s.die d).fqbase = 0 ∧ (s.die d).fqhead = 0 ∧ (s.die d).fqtail = 0 ∧ (s.die d).fq = [] ∧
    (s.die d).tlb = [] ∧ (s.die d).trace.base = 0 ∧ (s.die d).trace.head = 0 ∧ (s.die d).trace.tail = 0 ∧
    (s.die d).trace.ctl = 0 ∧ (∀ n, (tget (s.die d).cmps n {}).addr = 0 ∧ (tget (s.die d).cmps n {}).ctl = 0) ∧
    (∀ n, (tget (s.die d).slots n {}).valid = false) ∧ (∀ n, (tget (s.die d).tasks n {}).st = 0) ∧
    (∀ n, (s.tile d n).st = 0 ∧ (s.tile d n).gen = 0) ∧ (s.die d).gauge = {}) ∧
  (∀ k g, tget (s.core k).grans g .cache = .cache ∧ (s.core k).owner = none ∧ (s.core k).slow = 0) ∧
  (∀ a, tget s.gens a 0 = 0) ∧ (∀ a, tget s.kmeas a {} = { k := 0, count := 0 })
end

