-- ==== Sys2Proof/Laws/Basin.lean ====
section
/-! SUPPORT. The fields of a handle of this module (Table 25-3): what `mkHandle` puts into a field, the field gives back. -/

namespace Sys2Proof.Machine

/-- The parts of a handle that fit their fields. -/
structure HandleFits (kind asid die gen index size : Nat) : Prop where
  kind : kind < 4
  asid : asid < 4096
  die : die < 8
  gen : gen < 65536
  index : index < 65536
  size : size / 64 < 32768

variable {kind asid die gen index size : Nat}

theorem mkHandle_toNat (f : HandleFits kind asid die gen index size) :
    (mkHandle kind asid die gen index size).toNat =
      kind * 2 ^ 126 + asid * 2 ^ 112 + Config.moduleId.toNat * 2 ^ 64 + die * 2 ^ 61 + gen * 2 ^ 32 + index * 2 ^ 16 + size / 64 := by
  have hm := Config.moduleId.isLt
  obtain ⟨h1, h2, h3, h4, h5, h6⟩ := f
  simp only [mkHandle, BitVec.toNat_ofNat]
  omega

theorem hKind_mkHandle (f : HandleFits kind asid die gen index size) : hKind (mkHandle kind asid die gen index size) = kind := by
  have hm := Config.moduleId.isLt
  simp only [hKind, field, mkHandle_toNat f]
  obtain ⟨h1, h2, h3, h4, h5, h6⟩ := f
  omega

theorem hAsid_mkHandle (f : HandleFits kind asid die gen index size) : hAsid (mkHandle kind asid die gen index size) = asid := by
  have hm := Config.moduleId.isLt
  simp only [hAsid, field, mkHandle_toNat f]
  obtain ⟨h1, h2, h3, h4, h5, h6⟩ := f
  omega

theorem hDie_mkHandle (f : HandleFits kind asid die gen index size) : hDie (mkHandle kind asid die gen index size) = die := by
  simp only [hDie, field, mkHandle_toNat f]
  obtain ⟨h1, h2, h3, h4, h5, h6⟩ := f
  omega

theorem hGen_mkHandle (f : HandleFits kind asid die gen index size) : hGen (mkHandle kind asid die gen index size) = gen := by
  simp only [hGen, field, mkHandle_toNat f]
  obtain ⟨h1, h2, h3, h4, h5, h6⟩ := f
  omega

theorem hIndex_mkHandle (f : HandleFits kind asid die gen index size) : hIndex (mkHandle kind asid die gen index size) = index := by
  simp only [hIndex, field, mkHandle_toNat f]
  obtain ⟨h1, h2, h3, h4, h5, h6⟩ := f
  omega

theorem hSize_mkHandle (f : HandleFits kind asid die gen index size) (h : size % 64 = 0) :
    hSize (mkHandle kind asid die gen index size) = size := by
  simp only [hSize, field, mkHandle_toNat f]
  obtain ⟨h1, h2, h3, h4, h5, h6⟩ := f
  omega

theorem hLocal_mkHandle (f : HandleFits kind asid die gen index size) : hLocal (mkHandle kind asid die gen index size) = true := by
  have hm := Config.moduleId.isLt
  have h : field (mkHandle kind asid die gen index size).toNat 111 64 = Config.moduleId.toNat := by
    simp only [field, mkHandle_toNat f]
    obtain ⟨h1, h2, h3, h4, h5, h6⟩ := f
    omega
  simp only [hLocal, hModule, h, BitVec.ofNat_toNat, BitVec.setWidth_eq, beq_self_eq_true]

/-- A handle of a kind is none of the empty ones. -/
theorem mkHandle_ne_zero (f : HandleFits kind asid die gen index size) (h : kind ≠ 0) : mkHandle kind asid die gen index size ≠ 0 := by
  intro h0
  have := hKind_mkHandle f
  rw [h0] at this
  exact h (by rw [← this]; rfl)

end Sys2Proof.Machine
end

