-- ==== Sys2Proof/Laws/Tab.lean ====
section
/-! SUPPORT. The laws of sparse files and of lane masks: read after write, the keys that a write keeps, and the
canonical form. -/

namespace Sys2Proof.Machine

@[simp] theorem tfind_nil {β : Type} (i : Nat) : tfind ([] : Tab β) i = none := rfl

theorem tfind_tput {β : Type} (t : Tab β) (i j : Nat) (x : β) :
    tfind (tput t i x) j = if j = i then some x else tfind t j := by
  induction t with
  | nil => simp [tput, tfind]
  | cons a t ih =>
    obtain ⟨k, y⟩ := a
    simp only [tput]
    split
    · simp [tfind]
    · split
      · subst_vars; by_cases h : j = k <;> simp [tfind, h]
      · by_cases h : j = k
        · subst h; simp [tfind]; omega
        · simp [tfind, h, ih]

theorem tfind_tdel {β : Type} (t : Tab β) (i j : Nat) :
    tfind (tdel t i) j = if j = i then none else tfind t j := by
  induction t with
  | nil => simp [tdel, tfind]
  | cons a t ih =>
    obtain ⟨k, y⟩ := a
    simp only [tdel]
    split
    · subst_vars
      by_cases h : j = k
      · subst h; simpa using ih
      · simpa [tfind, h] using ih
    · by_cases h : j = k
      · subst h; simp [tfind]; omega
      · simp [tfind, h, ih]

theorem tfind_tmod {β : Type} (t : Tab β) (i j : Nat) (f : β → β) :
    tfind (tmod t i f) j = if j = i then (tfind t i).map f else tfind t j := by
  unfold tmod
  split
  · rename_i h; by_cases hj : j = i <;> simp [hj, h]
  · rename_i h; by_cases hj : j = i <;> simp [hj, h, tfind_tput]

theorem tput_tput {β : Type} (t : Tab β) (i : Nat) (x y : β) : tput (tput t i x) i y = tput t i y := by
  induction t with
  | nil => simp [tput]
  | cons a t ih =>
    obtain ⟨k, z⟩ := a
    simp only [tput]
    split
    · simp [tput]
    · split
      · simp [tput]
      · rename_i h1 h2; simp [tput, h1, h2, ih]

theorem tmod_tmod {β : Type} (t : Tab β) (i : Nat) (f g : β → β) :
    tmod (tmod t i f) i g = tmod t i fun x => g (f x) := by
  unfold tmod
  cases h : tfind t i with
  | none => simp [h]
  | some x => simp [tfind_tput, tput_tput]

theorem tget_tput {β : Type} (t : Tab β) (i j : Nat) (x d : β) :
    tget (tput t i x) j d = if j = i then x else tget t j d := by
  by_cases h : j = i <;> simp [tget, tfind_tput, h]

/-- A write of any value, the default included, is read back; every other key keeps its value. -/
theorem tget_tset {β : Type} [DecidableEq β] (t : Tab β) (i j : Nat) (x d : β) :
    tget (tset t i x d) j d = if j = i then x else tget t j d := by
  unfold tset
  split
  · rename_i h; by_cases hj : j = i <;> simp [tget, tfind_tdel, hj, h]
  · exact tget_tput t i j x d

/-! ## Memory -/

theorem memGet_memSet (m : Memory) (a b : Nat) (x : Byte) :
    memGet (memSet m a x) b = if b = a then x else memGet m b := tget_tset m a b x 0

/-- Bytes outside a run of written bytes keep their values. -/
theorem memGet_memWrite_out (bs : List Byte) (m : Memory) (a b : Nat) (h : b < a ∨ a + bs.length ≤ b) :
    memGet (memWrite m a bs) b = memGet m b := by
  induction bs generalizing m a with
  | nil => rfl
  | cons x bs ih =>
    simp only [memWrite, List.length_cons] at *
    rw [ih _ _ (by omega), memGet_memSet, if_neg (by omega)]

/-- Bytes inside a run of written bytes hold what was written. -/
theorem memGet_memWrite_in (bs : List Byte) (m : Memory) (a k : Nat) (h : k < bs.length) :
    memGet (memWrite m a bs) (a + k) = bs[k] := by
  induction bs generalizing m a k with
  | nil => simp at h
  | cons x bs ih =>
    cases k with
    | zero => rw [memWrite, memGet_memWrite_out _ _ _ _ (by omega), memGet_memSet]; simp
    | succ k =>
      simp only [List.length_cons] at h
      have := ih (memSet m a x) (a + 1) k (by omega)
      rw [memWrite, show a + (k + 1) = a + 1 + k by omega, this]; simp

/-! ## The canonical form -/

theorem tsorted_cons {β : Type} (k : Nat) (y : β) (t : Tab β) :
    tsorted ((k, y) :: t) = (t.all (fun c => k < c.1) && tsorted t) := by
  induction t generalizing k y with
  | nil => simp [tsorted]
  | cons a t ih =>
    obtain ⟨j, z⟩ := a
    rw [tsorted, ih j z, List.all_cons]
    by_cases h : k < j
    · have hall : t.all (fun c => decide (j < c.1)) = true → t.all (fun c => decide (k < c.1)) = true := by
        simp only [List.all_eq_true, decide_eq_true_eq]
        exact fun hx c hc => Nat.lt_trans h (hx c hc)
      cases hj : t.all (fun c => decide (j < c.1))
      · simp
      · simp [h, hall hj]
    · simp [h]

theorem tput_all {β : Type} (p : Nat × β → Bool) (t : Tab β) (i : Nat) (x : β) (h : t.all p = true) (hx : p (i, x) = true) :
    (tput t i x).all p = true := by
  induction t with
  | nil => simp [tput, hx]
  | cons a t ih =>
    obtain ⟨k, y⟩ := a
    simp only [List.all_cons, Bool.and_eq_true] at h
    simp only [tput]
    split
    · simp [hx, h.1, h.2]
    · split
      · simp [hx, h.2]
      · simp [h.1, ih h.2]

theorem tdel_all {β : Type} (p : Nat × β → Bool) (t : Tab β) (i : Nat) (h : t.all p = true) : (tdel t i).all p = true := by
  induction t with
  | nil => rfl
  | cons a t ih =>
    obtain ⟨k, y⟩ := a
    simp only [List.all_cons, Bool.and_eq_true] at h
    simp only [tdel]
    split
    · exact ih h.2
    · simp [h.1, ih h.2]

theorem tsorted_tput {β : Type} (t : Tab β) (i : Nat) (x : β) (h : tsorted t = true) : tsorted (tput t i x) = true := by
  induction t with
  | nil => rfl
  | cons a t ih =>
    obtain ⟨k, y⟩ := a
    have h' := h
    rw [tsorted_cons, Bool.and_eq_true] at h'
    simp only [tput]
    split
    · rename_i hk
      rw [tsorted_cons, Bool.and_eq_true]
      refine ⟨?_, h⟩
      simp only [List.all_cons, Bool.and_eq_true, decide_eq_true_eq, List.all_eq_true] at h' ⊢
      exact ⟨hk, fun c hc => Nat.lt_trans hk (h'.1 c hc)⟩
    · split
      · subst_vars; rw [tsorted_cons, Bool.and_eq_true]; exact h'
      · rw [tsorted_cons, Bool.and_eq_true]
        refine ⟨tput_all _ _ _ _ h'.1 ?_, ih h'.2⟩
        simp; omega

theorem tsorted_tdel {β : Type} (t : Tab β) (i : Nat) (h : tsorted t = true) : tsorted (tdel t i) = true := by
  induction t with
  | nil => rfl
  | cons a t ih =>
    obtain ⟨k, y⟩ := a
    rw [tsorted_cons, Bool.and_eq_true] at h
    simp only [tdel]
    split
    · exact ih h.2
    · rw [tsorted_cons, Bool.and_eq_true]; exact ⟨tdel_all _ _ _ h.1, ih h.2⟩

/-- A byte write keeps the canonical form. -/
theorem memSet_wf (m : Memory) (a : Nat) (b : Byte) (h : m.wf = true) : (memSet m a b).wf = true := by
  simp only [Memory.wf, Bool.and_eq_true] at *
  unfold memSet tset
  split
  · exact ⟨tsorted_tdel _ _ h.1, tdel_all _ _ _ h.2⟩
  · exact ⟨tsorted_tput _ _ _ h.1, tput_all _ _ _ _ h.2 (by simpa)⟩

/-- So does a write of several bytes. -/
theorem memWrite_wf (bs : List Byte) (m : Memory) (a : Nat) (h : m.wf = true) : (memWrite m a bs).wf = true := by
  induction bs generalizing m a with
  | nil => exact h
  | cons x bs ih => exact ih _ _ (memSet_wf m a x h)

theorem filter_sorted {β : Type} (p : Nat × β → Bool) (t : Tab β) (h : tsorted t = true) : tsorted (t.filter p) = true := by
  induction t with
  | nil => rfl
  | cons a t ih =>
    obtain ⟨k, y⟩ := a
    rw [tsorted_cons, Bool.and_eq_true] at h
    rw [List.filter_cons]
    split
    · rw [tsorted_cons, Bool.and_eq_true]
      refine ⟨?_, ih h.2⟩
      simp only [List.all_eq_true] at h ⊢
      exact fun c hc => h.1 c (List.mem_of_mem_filter hc)
    · exact ih h.2

/-- Dropping bytes keeps the canonical form. -/
theorem filter_wf (p : Nat × Byte → Bool) (m : Memory) (h : m.wf = true) : Memory.wf (m.filter p) = true := by
  simp only [Memory.wf, Bool.and_eq_true] at *
  refine ⟨filter_sorted p m h.1, ?_⟩
  simp only [List.all_eq_true] at h ⊢
  exact fun c hc => h.2 c (List.mem_of_mem_filter hc)

theorem memClear_wf (m : Memory) (a n : Nat) (h : m.wf = true) : Memory.wf (memClear m a n) = true := filter_wf _ m h

/-- A key below every listed one is not listed. -/
theorem tfind_eq_none {β : Type} (k : Nat) (t : Tab β) (h : t.all (fun c => decide (k < c.1)) = true) (j : Nat) (hj : j ≤ k) :
    tfind t j = none := by
  induction t with
  | nil => rfl
  | cons a t ih =>
    obtain ⟨i, y⟩ := a
    simp only [List.all_cons, Bool.and_eq_true, decide_eq_true_eq] at h
    rw [tfind, if_neg (by omega), ih (by simpa using h.2)]

/-! ## Lane masks -/

theorem sum_bits (f : Nat → Bool) (n : Nat) :
    ((List.range n).map fun l => (f l).toNat * 2 ^ l).sum < 2 ^ n ∧
    ∀ l, (((List.range n).map fun l => (f l).toNat * 2 ^ l).sum).testBit l = (decide (l < n) && f l) := by
  induction n with
  | zero => simp
  | succ n ih =>
    obtain ⟨hb, ht⟩ := ih
    rw [List.range_succ, List.map_append, List.sum_append]
    simp only [List.map_cons, List.map_nil, List.sum_cons, List.sum_nil, Nat.add_zero]
    cases hf : f n
    · simp only [Bool.toNat_false, Nat.zero_mul, Nat.add_zero]
      refine ⟨by rw [Nat.pow_succ]; omega, fun l => ?_⟩
      rw [ht]
      by_cases h : l = n
      · subst h; simp [hf]
      · have : decide (l < n) = decide (l < n + 1) := by simp; omega
        rw [this]
    · simp only [Bool.toNat_true, Nat.one_mul]
      refine ⟨by rw [Nat.pow_succ]; omega, fun l => ?_⟩
      rw [Nat.add_comm]
      by_cases h : l = n
      · subst h; rw [Nat.testBit_two_pow_add_eq, ht]; simp [hf]
      · by_cases h2 : l < n
        · rw [Nat.testBit_two_pow_add_gt h2, ht]; simp [h2]; omega
        · have h3 : n + 1 ≤ l := by omega
          rw [Nat.testBit_lt_two_pow]
          · simp; omega
          · calc _ < 2 ^ (n + 1) := by rw [Nat.pow_succ]; omega
              _ ≤ 2 ^ l := Nat.pow_le_pow_right (by omega) h3

/-- The lanes of `maskOf f` are those that meet `f`. -/
@[simp] theorem getLsbD_maskOf (f : Nat → Bool) (l : Nat) : (maskOf f).getLsbD l = (decide (l < 32) && f l) := by
  have h := sum_bits f 32
  rw [maskOf, BitVec.getLsbD_ofNat, h.2]
  by_cases hl : l < 32 <;> simp [hl]

@[simp] theorem mem_lanes (m : Mask) (l : Nat) : l ∈ lanes m ↔ l < 32 ∧ m.getLsbD l = true := by
  simp [lanes]

theorem tfind_map (ls : List Nat) {β : Type} (f : Nat → β) (l : Nat) :
    tfind (ls.map fun l => (l, f l)) l = if l ∈ ls then some (f l) else none := by
  induction ls with
  | nil => rfl
  | cons a ls ih =>
    rw [List.map_cons, tfind]
    by_cases h : l = a
    · subst h; simp
    · rw [if_neg h, ih]; simp [h]

end Sys2Proof.Machine
end

