-- ==== Sys2Proof/Laws/State.lean ====
section
/-! SUPPORT. What each update of one entry leaves: one lemma for each field that it does not change, and the entry
that it does. -/

namespace Sys2Proof.Machine

@[simp] theorem State.setWave_now (s : State) (k : Nat) (w : Wave) : (s.setWave k w).now = s.now := rfl
@[simp] theorem State.setWave_agenda (s : State) (k : Nat) (w : Wave) : (s.setWave k w).agenda = s.agenda := rfl
@[simp] theorem State.setWave_again (s : State) (k : Nat) (w : Wave) : (s.setWave k w).again = s.again := rfl
@[simp] theorem State.setWave_cur (s : State) (k : Nat) (w : Wave) : (s.setWave k w).cur = s.cur := rfl
@[simp] theorem State.setWave_freeSeq (s : State) (k : Nat) (w : Wave) : (s.setWave k w).freeSeq = s.freeSeq := rfl
@[simp] theorem State.setWave_opSeq (s : State) (k : Nat) (w : Wave) : (s.setWave k w).opSeq = s.opSeq := rfl
@[simp] theorem State.setWave_cycleOp (s : State) (k : Nat) (w : Wave) : (s.setWave k w).cycleOp = s.cycleOp := rfl
@[simp] theorem State.setWave_stamp (s : State) (k : Nat) (w : Wave) : (s.setWave k w).stamp = s.stamp := rfl
@[simp] theorem State.setWave_mem (s : State) (k : Nat) (w : Wave) : (s.setWave k w).mem = s.mem := rfl
@[simp] theorem State.setWave_lineKey (s : State) (k : Nat) (w : Wave) : (s.setWave k w).lineKey = s.lineKey := rfl
@[simp] theorem State.setWave_soiled (s : State) (k : Nat) (w : Wave) : (s.setWave k w).soiled = s.soiled := rfl
@[simp] theorem State.setWave_keys (s : State) (k : Nat) (w : Wave) : (s.setWave k w).keys = s.keys := rfl
@[simp] theorem State.setWave_pins (s : State) (k : Nat) (w : Wave) : (s.setWave k w).pins = s.pins := rfl
@[simp] theorem State.setWave_rels (s : State) (k : Nat) (w : Wave) : (s.setWave k w).rels = s.rels := rfl
@[simp] theorem State.setWave_syncs (s : State) (k : Nat) (w : Wave) : (s.setWave k w).syncs = s.syncs := rfl
@[simp] theorem State.setWave_fences (s : State) (k : Nat) (w : Wave) : (s.setWave k w).fences = s.fences := rfl
@[simp] theorem State.setWave_cmdLog (s : State) (k : Nat) (w : Wave) : (s.setWave k w).cmdLog = s.cmdLog := rfl
@[simp] theorem State.setWave_memBy (s : State) (k : Nat) (w : Wave) : (s.setWave k w).memBy = s.memBy := rfl
@[simp] theorem State.setWave_hslots (s : State) (k : Nat) (w : Wave) : (s.setWave k w).hslots = s.hslots := rfl
@[simp] theorem State.setWave_seqHeld (s : State) (k : Nat) (w : Wave) : (s.setWave k w).seqHeld = s.seqHeld := rfl
@[simp] theorem State.setWave_ops (s : State) (k : Nat) (w : Wave) : (s.setWave k w).ops = s.ops := rfl
@[simp] theorem State.setWave_waves (s : State) (k : Nat) (w : Wave) : (s.setWave k w).waves = tput s.waves k w := rfl
@[simp] theorem State.setWave_teams (s : State) (k : Nat) (w : Wave) : (s.setWave k w).teams = s.teams := rfl
@[simp] theorem State.setWave_launches (s : State) (k : Nat) (w : Wave) : (s.setWave k w).launches = s.launches := rfl
@[simp] theorem State.setWave_dies (s : State) (k : Nat) (w : Wave) : (s.setWave k w).dies = s.dies := rfl
@[simp] theorem State.setWave_cores (s : State) (k : Nat) (w : Wave) : (s.setWave k w).cores = s.cores := rfl
@[simp] theorem State.setWave_icache (s : State) (k : Nat) (w : Wave) : (s.setWave k w).icache = s.icache := rfl
@[simp] theorem State.setWave_ifetch (s : State) (k : Nat) (w : Wave) : (s.setWave k w).ifetch = s.ifetch := rfl
@[simp] theorem State.setWave_regions (s : State) (k : Nat) (w : Wave) : (s.setWave k w).regions = s.regions := rfl
@[simp] theorem State.setWave_gens (s : State) (k : Nat) (w : Wave) : (s.setWave k w).gens = s.gens := rfl
@[simp] theorem State.setWave_asgen (s : State) (k : Nat) (w : Wave) : (s.setWave k w).asgen = s.asgen := rfl
@[simp] theorem State.setWave_tensors (s : State) (k : Nat) (w : Wave) : (s.setWave k w).tensors = s.tensors := rfl
@[simp] theorem State.setWave_touched (s : State) (k : Nat) (w : Wave) : (s.setWave k w).touched = s.touched := rfl
@[simp] theorem State.setWave_kmeas (s : State) (k : Nat) (w : Wave) : (s.setWave k w).kmeas = s.kmeas := rfl
@[simp] theorem State.setWave_boot (s : State) (k : Nat) (w : Wave) : (s.setWave k w).boot = s.boot := rfl
@[simp] theorem State.setWave_world (s : State) (k : Nat) (w : Wave) : (s.setWave k w).world = s.world := rfl
@[simp] theorem State.setWave_portsDown (s : State) (k : Nat) (w : Wave) : (s.setWave k w).portsDown = s.portsDown := rfl
@[simp] theorem State.setWave_inRings (s : State) (k : Nat) (w : Wave) : (s.setWave k w).inRings = s.inRings := rfl
@[simp] theorem State.setWave_events (s : State) (k : Nat) (w : Wave) : (s.setWave k w).events = s.events := rfl
@[simp] theorem State.setWave_defects (s : State) (k : Nat) (w : Wave) : (s.setWave k w).defects = s.defects := rfl
@[simp] theorem State.setWave_breaks (s : State) (k : Nat) (w : Wave) : (s.setWave k w).breaks = s.breaks := rfl
@[simp] theorem State.setWave_peerSeq (s : State) (k : Nat) (w : Wave) : (s.setWave k w).peerSeq = s.peerSeq := rfl

@[simp] theorem State.modWave_now (s : State) (k : Nat) (f : Wave → Wave) : (s.modWave k f).now = s.now := rfl
@[simp] theorem State.modWave_agenda (s : State) (k : Nat) (f : Wave → Wave) : (s.modWave k f).agenda = s.agenda := rfl
@[simp] theorem State.modWave_again (s : State) (k : Nat) (f : Wave → Wave) : (s.modWave k f).again = s.again := rfl
@[simp] theorem State.modWave_cur (s : State) (k : Nat) (f : Wave → Wave) : (s.modWave k f).cur = s.cur := rfl
@[simp] theorem State.modWave_freeSeq (s : State) (k : Nat) (f : Wave → Wave) : (s.modWave k f).freeSeq = s.freeSeq := rfl
@[simp] theorem State.modWave_opSeq (s : State) (k : Nat) (f : Wave → Wave) : (s.modWave k f).opSeq = s.opSeq := rfl
@[simp] theorem State.modWave_cycleOp (s : State) (k : Nat) (f : Wave → Wave) : (s.modWave k f).cycleOp = s.cycleOp := rfl
@[simp] theorem State.modWave_stamp (s : State) (k : Nat) (f : Wave → Wave) : (s.modWave k f).stamp = s.stamp := rfl
@[simp] theorem State.modWave_mem (s : State) (k : Nat) (f : Wave → Wave) : (s.modWave k f).mem = s.mem := rfl
@[simp] theorem State.modWave_lineKey (s : State) (k : Nat) (f : Wave → Wave) : (s.modWave k f).lineKey = s.lineKey := rfl
@[simp] theorem State.modWave_soiled (s : State) (k : Nat) (f : Wave → Wave) : (s.modWave k f).soiled = s.soiled := rfl
@[simp] theorem State.modWave_keys (s : State) (k : Nat) (f : Wave → Wave) : (s.modWave k f).keys = s.keys := rfl
@[simp] theorem State.modWave_pins (s : State) (k : Nat) (f : Wave → Wave) : (s.modWave k f).pins = s.pins := rfl
@[simp] theorem State.modWave_rels (s : State) (k : Nat) (f : Wave → Wave) : (s.modWave k f).rels = s.rels := rfl
@[simp] theorem State.modWave_syncs (s : State) (k : Nat) (f : Wave → Wave) : (s.modWave k f).syncs = s.syncs := rfl
@[simp] theorem State.modWave_fences (s : State) (k : Nat) (f : Wave → Wave) : (s.modWave k f).fences = s.fences := rfl
@[simp] theorem State.modWave_cmdLog (s : State) (k : Nat) (f : Wave → Wave) : (s.modWave k f).cmdLog = s.cmdLog := rfl
@[simp] theorem State.modWave_memBy (s : State) (k : Nat) (f : Wave → Wave) : (s.modWave k f).memBy = s.memBy := rfl
@[simp] theorem State.modWave_hslots (s : State) (k : Nat) (f : Wave → Wave) : (s.modWave k f).hslots = s.hslots := rfl
@[simp] theorem State.modWave_seqHeld (s : State) (k : Nat) (f : Wave → Wave) : (s.modWave k f).seqHeld = s.seqHeld := rfl
@[simp] theorem State.modWave_ops (s : State) (k : Nat) (f : Wave → Wave) : (s.modWave k f).ops = s.ops := rfl
@[simp] theorem State.modWave_waves (s : State) (k : Nat) (f : Wave → Wave) : (s.modWave k f).waves = tmod s.waves k f := rfl
@[simp] theorem State.modWave_teams (s : State) (k : Nat) (f : Wave → Wave) : (s.modWave k f).teams = s.teams := rfl
@[simp] theorem State.modWave_launches (s : State) (k : Nat) (f : Wave → Wave) : (s.modWave k f).launches = s.launches := rfl
@[simp] theorem State.modWave_dies (s : State) (k : Nat) (f : Wave → Wave) : (s.modWave k f).dies = s.dies := rfl
@[simp] theorem State.modWave_cores (s : State) (k : Nat) (f : Wave → Wave) : (s.modWave k f).cores = s.cores := rfl
@[simp] theorem State.modWave_icache (s : State) (k : Nat) (f : Wave → Wave) : (s.modWave k f).icache = s.icache := rfl
@[simp] theorem State.modWave_ifetch (s : State) (k : Nat) (f : Wave → Wave) : (s.modWave k f).ifetch = s.ifetch := rfl
@[simp] theorem State.modWave_regions (s : State) (k : Nat) (f : Wave → Wave) : (s.modWave k f).regions = s.regions := rfl
@[simp] theorem State.modWave_gens (s : State) (k : Nat) (f : Wave → Wave) : (s.modWave k f).gens = s.gens := rfl
@[simp] theorem State.modWave_asgen (s : State) (k : Nat) (f : Wave → Wave) : (s.modWave k f).asgen = s.asgen := rfl
@[simp] theorem State.modWave_tensors (s : State) (k : Nat) (f : Wave → Wave) : (s.modWave k f).tensors = s.tensors := rfl
@[simp] theorem State.modWave_touched (s : State) (k : Nat) (f : Wave → Wave) : (s.modWave k f).touched = s.touched := rfl
@[simp] theorem State.modWave_kmeas (s : State) (k : Nat) (f : Wave → Wave) : (s.modWave k f).kmeas = s.kmeas := rfl
@[simp] theorem State.modWave_boot (s : State) (k : Nat) (f : Wave → Wave) : (s.modWave k f).boot = s.boot := rfl
@[simp] theorem State.modWave_world (s : State) (k : Nat) (f : Wave → Wave) : (s.modWave k f).world = s.world := rfl
@[simp] theorem State.modWave_portsDown (s : State) (k : Nat) (f : Wave → Wave) : (s.modWave k f).portsDown = s.portsDown := rfl
@[simp] theorem State.modWave_inRings (s : State) (k : Nat) (f : Wave → Wave) : (s.modWave k f).inRings = s.inRings := rfl
@[simp] theorem State.modWave_events (s : State) (k : Nat) (f : Wave → Wave) : (s.modWave k f).events = s.events := rfl
@[simp] theorem State.modWave_defects (s : State) (k : Nat) (f : Wave → Wave) : (s.modWave k f).defects = s.defects := rfl
@[simp] theorem State.modWave_breaks (s : State) (k : Nat) (f : Wave → Wave) : (s.modWave k f).breaks = s.breaks := rfl
@[simp] theorem State.modWave_peerSeq (s : State) (k : Nat) (f : Wave → Wave) : (s.modWave k f).peerSeq = s.peerSeq := rfl

@[simp] theorem State.modDie_now (s : State) (k : Nat) (f : Die → Die) : (s.modDie k f).now = s.now := rfl
@[simp] theorem State.modDie_agenda (s : State) (k : Nat) (f : Die → Die) : (s.modDie k f).agenda = s.agenda := rfl
@[simp] theorem State.modDie_again (s : State) (k : Nat) (f : Die → Die) : (s.modDie k f).again = s.again := rfl
@[simp] theorem State.modDie_cur (s : State) (k : Nat) (f : Die → Die) : (s.modDie k f).cur = s.cur := rfl
@[simp] theorem State.modDie_freeSeq (s : State) (k : Nat) (f : Die → Die) : (s.modDie k f).freeSeq = s.freeSeq := rfl
@[simp] theorem State.modDie_opSeq (s : State) (k : Nat) (f : Die → Die) : (s.modDie k f).opSeq = s.opSeq := rfl
@[simp] theorem State.modDie_cycleOp (s : State) (k : Nat) (f : Die → Die) : (s.modDie k f).cycleOp = s.cycleOp := rfl
@[simp] theorem State.modDie_stamp (s : State) (k : Nat) (f : Die → Die) : (s.modDie k f).stamp = s.stamp := rfl
@[simp] theorem State.modDie_mem (s : State) (k : Nat) (f : Die → Die) : (s.modDie k f).mem = s.mem := rfl
@[simp] theorem State.modDie_lineKey (s : State) (k : Nat) (f : Die → Die) : (s.modDie k f).lineKey = s.lineKey := rfl
@[simp] theorem State.modDie_soiled (s : State) (k : Nat) (f : Die → Die) : (s.modDie k f).soiled = s.soiled := rfl
@[simp] theorem State.modDie_keys (s : State) (k : Nat) (f : Die → Die) : (s.modDie k f).keys = s.keys := rfl
@[simp] theorem State.modDie_pins (s : State) (k : Nat) (f : Die → Die) : (s.modDie k f).pins = s.pins := rfl
@[simp] theorem State.modDie_rels (s : State) (k : Nat) (f : Die → Die) : (s.modDie k f).rels = s.rels := rfl
@[simp] theorem State.modDie_syncs (s : State) (k : Nat) (f : Die → Die) : (s.modDie k f).syncs = s.syncs := rfl
@[simp] theorem State.modDie_fences (s : State) (k : Nat) (f : Die → Die) : (s.modDie k f).fences = s.fences := rfl
@[simp] theorem State.modDie_cmdLog (s : State) (k : Nat) (f : Die → Die) : (s.modDie k f).cmdLog = s.cmdLog := rfl
@[simp] theorem State.modDie_memBy (s : State) (k : Nat) (f : Die → Die) : (s.modDie k f).memBy = s.memBy := rfl
@[simp] theorem State.modDie_hslots (s : State) (k : Nat) (f : Die → Die) : (s.modDie k f).hslots = s.hslots := rfl
@[simp] theorem State.modDie_seqHeld (s : State) (k : Nat) (f : Die → Die) : (s.modDie k f).seqHeld = s.seqHeld := rfl
@[simp] theorem State.modDie_ops (s : State) (k : Nat) (f : Die → Die) : (s.modDie k f).ops = s.ops := rfl
@[simp] theorem State.modDie_waves (s : State) (k : Nat) (f : Die → Die) : (s.modDie k f).waves = s.waves := rfl
@[simp] theorem State.modDie_teams (s : State) (k : Nat) (f : Die → Die) : (s.modDie k f).teams = s.teams := rfl
@[simp] theorem State.modDie_launches (s : State) (k : Nat) (f : Die → Die) : (s.modDie k f).launches = s.launches := rfl
@[simp] theorem State.modDie_dies (s : State) (k : Nat) (f : Die → Die) : (s.modDie k f).dies = tput s.dies k (f (s.die k)) := rfl
@[simp] theorem State.modDie_cores (s : State) (k : Nat) (f : Die → Die) : (s.modDie k f).cores = s.cores := rfl
@[simp] theorem State.modDie_icache (s : State) (k : Nat) (f : Die → Die) : (s.modDie k f).icache = s.icache := rfl
@[simp] theorem State.modDie_ifetch (s : State) (k : Nat) (f : Die → Die) : (s.modDie k f).ifetch = s.ifetch := rfl
@[simp] theorem State.modDie_regions (s : State) (k : Nat) (f : Die → Die) : (s.modDie k f).regions = s.regions := rfl
@[simp] theorem State.modDie_gens (s : State) (k : Nat) (f : Die → Die) : (s.modDie k f).gens = s.gens := rfl
@[simp] theorem State.modDie_asgen (s : State) (k : Nat) (f : Die → Die) : (s.modDie k f).asgen = s.asgen := rfl
@[simp] theorem State.modDie_tensors (s : State) (k : Nat) (f : Die → Die) : (s.modDie k f).tensors = s.tensors := rfl
@[simp] theorem State.modDie_touched (s : State) (k : Nat) (f : Die → Die) : (s.modDie k f).touched = s.touched := rfl
@[simp] theorem State.modDie_kmeas (s : State) (k : Nat) (f : Die → Die) : (s.modDie k f).kmeas = s.kmeas := rfl
@[simp] theorem State.modDie_boot (s : State) (k : Nat) (f : Die → Die) : (s.modDie k f).boot = s.boot := rfl
@[simp] theorem State.modDie_world (s : State) (k : Nat) (f : Die → Die) : (s.modDie k f).world = s.world := rfl
@[simp] theorem State.modDie_portsDown (s : State) (k : Nat) (f : Die → Die) : (s.modDie k f).portsDown = s.portsDown := rfl
@[simp] theorem State.modDie_inRings (s : State) (k : Nat) (f : Die → Die) : (s.modDie k f).inRings = s.inRings := rfl
@[simp] theorem State.modDie_events (s : State) (k : Nat) (f : Die → Die) : (s.modDie k f).events = s.events := rfl
@[simp] theorem State.modDie_defects (s : State) (k : Nat) (f : Die → Die) : (s.modDie k f).defects = s.defects := rfl
@[simp] theorem State.modDie_breaks (s : State) (k : Nat) (f : Die → Die) : (s.modDie k f).breaks = s.breaks := rfl
@[simp] theorem State.modDie_peerSeq (s : State) (k : Nat) (f : Die → Die) : (s.modDie k f).peerSeq = s.peerSeq := rfl

@[simp] theorem State.modCore_now (s : State) (k : Nat) (f : Core → Core) : (s.modCore k f).now = s.now := rfl
@[simp] theorem State.modCore_agenda (s : State) (k : Nat) (f : Core → Core) : (s.modCore k f).agenda = s.agenda := rfl
@[simp] theorem State.modCore_again (s : State) (k : Nat) (f : Core → Core) : (s.modCore k f).again = s.again := rfl
@[simp] theorem State.modCore_cur (s : State) (k : Nat) (f : Core → Core) : (s.modCore k f).cur = s.cur := rfl
@[simp] theorem State.modCore_freeSeq (s : State) (k : Nat) (f : Core → Core) : (s.modCore k f).freeSeq = s.freeSeq := rfl
@[simp] theorem State.modCore_opSeq (s : State) (k : Nat) (f : Core → Core) : (s.modCore k f).opSeq = s.opSeq := rfl
@[simp] theorem State.modCore_cycleOp (s : State) (k : Nat) (f : Core → Core) : (s.modCore k f).cycleOp = s.cycleOp := rfl
@[simp] theorem State.modCore_stamp (s : State) (k : Nat) (f : Core → Core) : (s.modCore k f).stamp = s.stamp := rfl
@[simp] theorem State.modCore_mem (s : State) (k : Nat) (f : Core → Core) : (s.modCore k f).mem = s.mem := rfl
@[simp] theorem State.modCore_lineKey (s : State) (k : Nat) (f : Core → Core) : (s.modCore k f).lineKey = s.lineKey := rfl
@[simp] theorem State.modCore_soiled (s : State) (k : Nat) (f : Core → Core) : (s.modCore k f).soiled = s.soiled := rfl
@[simp] theorem State.modCore_keys (s : State) (k : Nat) (f : Core → Core) : (s.modCore k f).keys = s.keys := rfl
@[simp] theorem State.modCore_pins (s : State) (k : Nat) (f : Core → Core) : (s.modCore k f).pins = s.pins := rfl
@[simp] theorem State.modCore_rels (s : State) (k : Nat) (f : Core → Core) : (s.modCore k f).rels = s.rels := rfl
@[simp] theorem State.modCore_syncs (s : State) (k : Nat) (f : Core → Core) : (s.modCore k f).syncs = s.syncs := rfl
@[simp] theorem State.modCore_fences (s : State) (k : Nat) (f : Core → Core) : (s.modCore k f).fences = s.fences := rfl
@[simp] theorem State.modCore_cmdLog (s : State) (k : Nat) (f : Core → Core) : (s.modCore k f).cmdLog = s.cmdLog := rfl
@[simp] theorem State.modCore_memBy (s : State) (k : Nat) (f : Core → Core) : (s.modCore k f).memBy = s.memBy := rfl
@[simp] theorem State.modCore_hslots (s : State) (k : Nat) (f : Core → Core) : (s.modCore k f).hslots = s.hslots := rfl
@[simp] theorem State.modCore_seqHeld (s : State) (k : Nat) (f : Core → Core) : (s.modCore k f).seqHeld = s.seqHeld := rfl
@[simp] theorem State.modCore_ops (s : State) (k : Nat) (f : Core → Core) : (s.modCore k f).ops = s.ops := rfl
@[simp] theorem State.modCore_waves (s : State) (k : Nat) (f : Core → Core) : (s.modCore k f).waves = s.waves := rfl
@[simp] theorem State.modCore_teams (s : State) (k : Nat) (f : Core → Core) : (s.modCore k f).teams = s.teams := rfl
@[simp] theorem State.modCore_launches (s : State) (k : Nat) (f : Core → Core) : (s.modCore k f).launches = s.launches := rfl
@[simp] theorem State.modCore_dies (s : State) (k : Nat) (f : Core → Core) : (s.modCore k f).dies = s.dies := rfl
@[simp] theorem State.modCore_cores (s : State) (k : Nat) (f : Core → Core) : (s.modCore k f).cores = tput s.cores k (f (s.core k)) := rfl
@[simp] theorem State.modCore_icache (s : State) (k : Nat) (f : Core → Core) : (s.modCore k f).icache = s.icache := rfl
@[simp] theorem State.modCore_ifetch (s : State) (k : Nat) (f : Core → Core) : (s.modCore k f).ifetch = s.ifetch := rfl
@[simp] theorem State.modCore_regions (s : State) (k : Nat) (f : Core → Core) : (s.modCore k f).regions = s.regions := rfl
@[simp] theorem State.modCore_gens (s : State) (k : Nat) (f : Core → Core) : (s.modCore k f).gens = s.gens := rfl
@[simp] theorem State.modCore_asgen (s : State) (k : Nat) (f : Core → Core) : (s.modCore k f).asgen = s.asgen := rfl
@[simp] theorem State.modCore_tensors (s : State) (k : Nat) (f : Core → Core) : (s.modCore k f).tensors = s.tensors := rfl
@[simp] theorem State.modCore_touched (s : State) (k : Nat) (f : Core → Core) : (s.modCore k f).touched = s.touched := rfl
@[simp] theorem State.modCore_kmeas (s : State) (k : Nat) (f : Core → Core) : (s.modCore k f).kmeas = s.kmeas := rfl
@[simp] theorem State.modCore_boot (s : State) (k : Nat) (f : Core → Core) : (s.modCore k f).boot = s.boot := rfl
@[simp] theorem State.modCore_world (s : State) (k : Nat) (f : Core → Core) : (s.modCore k f).world = s.world := rfl
@[simp] theorem State.modCore_portsDown (s : State) (k : Nat) (f : Core → Core) : (s.modCore k f).portsDown = s.portsDown := rfl
@[simp] theorem State.modCore_inRings (s : State) (k : Nat) (f : Core → Core) : (s.modCore k f).inRings = s.inRings := rfl
@[simp] theorem State.modCore_events (s : State) (k : Nat) (f : Core → Core) : (s.modCore k f).events = s.events := rfl
@[simp] theorem State.modCore_defects (s : State) (k : Nat) (f : Core → Core) : (s.modCore k f).defects = s.defects := rfl
@[simp] theorem State.modCore_breaks (s : State) (k : Nat) (f : Core → Core) : (s.modCore k f).breaks = s.breaks := rfl
@[simp] theorem State.modCore_peerSeq (s : State) (k : Nat) (f : Core → Core) : (s.modCore k f).peerSeq = s.peerSeq := rfl

@[simp] theorem State.modTeam_now (s : State) (k : Nat) (f : Team → Team) : (s.modTeam k f).now = s.now := rfl
@[simp] theorem State.modTeam_agenda (s : State) (k : Nat) (f : Team → Team) : (s.modTeam k f).agenda = s.agenda := rfl
@[simp] theorem State.modTeam_again (s : State) (k : Nat) (f : Team → Team) : (s.modTeam k f).again = s.again := rfl
@[simp] theorem State.modTeam_cur (s : State) (k : Nat) (f : Team → Team) : (s.modTeam k f).cur = s.cur := rfl
@[simp] theorem State.modTeam_freeSeq (s : State) (k : Nat) (f : Team → Team) : (s.modTeam k f).freeSeq = s.freeSeq := rfl
@[simp] theorem State.modTeam_opSeq (s : State) (k : Nat) (f : Team → Team) : (s.modTeam k f).opSeq = s.opSeq := rfl
@[simp] theorem State.modTeam_cycleOp (s : State) (k : Nat) (f : Team → Team) : (s.modTeam k f).cycleOp = s.cycleOp := rfl
@[simp] theorem State.modTeam_stamp (s : State) (k : Nat) (f : Team → Team) : (s.modTeam k f).stamp = s.stamp := rfl
@[simp] theorem State.modTeam_mem (s : State) (k : Nat) (f : Team → Team) : (s.modTeam k f).mem = s.mem := rfl
@[simp] theorem State.modTeam_lineKey (s : State) (k : Nat) (f : Team → Team) : (s.modTeam k f).lineKey = s.lineKey := rfl
@[simp] theorem State.modTeam_soiled (s : State) (k : Nat) (f : Team → Team) : (s.modTeam k f).soiled = s.soiled := rfl
@[simp] theorem State.modTeam_keys (s : State) (k : Nat) (f : Team → Team) : (s.modTeam k f).keys = s.keys := rfl
@[simp] theorem State.modTeam_pins (s : State) (k : Nat) (f : Team → Team) : (s.modTeam k f).pins = s.pins := rfl
@[simp] theorem State.modTeam_rels (s : State) (k : Nat) (f : Team → Team) : (s.modTeam k f).rels = s.rels := rfl
@[simp] theorem State.modTeam_syncs (s : State) (k : Nat) (f : Team → Team) : (s.modTeam k f).syncs = s.syncs := rfl
@[simp] theorem State.modTeam_fences (s : State) (k : Nat) (f : Team → Team) : (s.modTeam k f).fences = s.fences := rfl
@[simp] theorem State.modTeam_cmdLog (s : State) (k : Nat) (f : Team → Team) : (s.modTeam k f).cmdLog = s.cmdLog := rfl
@[simp] theorem State.modTeam_memBy (s : State) (k : Nat) (f : Team → Team) : (s.modTeam k f).memBy = s.memBy := rfl
@[simp] theorem State.modTeam_hslots (s : State) (k : Nat) (f : Team → Team) : (s.modTeam k f).hslots = s.hslots := rfl
@[simp] theorem State.modTeam_seqHeld (s : State) (k : Nat) (f : Team → Team) : (s.modTeam k f).seqHeld = s.seqHeld := rfl
@[simp] theorem State.modTeam_ops (s : State) (k : Nat) (f : Team → Team) : (s.modTeam k f).ops = s.ops := rfl
@[simp] theorem State.modTeam_waves (s : State) (k : Nat) (f : Team → Team) : (s.modTeam k f).waves = s.waves := rfl
@[simp] theorem State.modTeam_teams (s : State) (k : Nat) (f : Team → Team) : (s.modTeam k f).teams = tmod s.teams k f := rfl
@[simp] theorem State.modTeam_launches (s : State) (k : Nat) (f : Team → Team) : (s.modTeam k f).launches = s.launches := rfl
@[simp] theorem State.modTeam_dies (s : State) (k : Nat) (f : Team → Team) : (s.modTeam k f).dies = s.dies := rfl
@[simp] theorem State.modTeam_cores (s : State) (k : Nat) (f : Team → Team) : (s.modTeam k f).cores = s.cores := rfl
@[simp] theorem State.modTeam_icache (s : State) (k : Nat) (f : Team → Team) : (s.modTeam k f).icache = s.icache := rfl
@[simp] theorem State.modTeam_ifetch (s : State) (k : Nat) (f : Team → Team) : (s.modTeam k f).ifetch = s.ifetch := rfl
@[simp] theorem State.modTeam_regions (s : State) (k : Nat) (f : Team → Team) : (s.modTeam k f).regions = s.regions := rfl
@[simp] theorem State.modTeam_gens (s : State) (k : Nat) (f : Team → Team) : (s.modTeam k f).gens = s.gens := rfl
@[simp] theorem State.modTeam_asgen (s : State) (k : Nat) (f : Team → Team) : (s.modTeam k f).asgen = s.asgen := rfl
@[simp] theorem State.modTeam_tensors (s : State) (k : Nat) (f : Team → Team) : (s.modTeam k f).tensors = s.tensors := rfl
@[simp] theorem State.modTeam_touched (s : State) (k : Nat) (f : Team → Team) : (s.modTeam k f).touched = s.touched := rfl
@[simp] theorem State.modTeam_kmeas (s : State) (k : Nat) (f : Team → Team) : (s.modTeam k f).kmeas = s.kmeas := rfl
@[simp] theorem State.modTeam_boot (s : State) (k : Nat) (f : Team → Team) : (s.modTeam k f).boot = s.boot := rfl
@[simp] theorem State.modTeam_world (s : State) (k : Nat) (f : Team → Team) : (s.modTeam k f).world = s.world := rfl
@[simp] theorem State.modTeam_portsDown (s : State) (k : Nat) (f : Team → Team) : (s.modTeam k f).portsDown = s.portsDown := rfl
@[simp] theorem State.modTeam_inRings (s : State) (k : Nat) (f : Team → Team) : (s.modTeam k f).inRings = s.inRings := rfl
@[simp] theorem State.modTeam_events (s : State) (k : Nat) (f : Team → Team) : (s.modTeam k f).events = s.events := rfl
@[simp] theorem State.modTeam_defects (s : State) (k : Nat) (f : Team → Team) : (s.modTeam k f).defects = s.defects := rfl
@[simp] theorem State.modTeam_breaks (s : State) (k : Nat) (f : Team → Team) : (s.modTeam k f).breaks = s.breaks := rfl
@[simp] theorem State.modTeam_peerSeq (s : State) (k : Nat) (f : Team → Team) : (s.modTeam k f).peerSeq = s.peerSeq := rfl

@[simp] theorem State.modLaunch_now (s : State) (k : Nat) (f : Launch → Launch) : (s.modLaunch k f).now = s.now := rfl
@[simp] theorem State.modLaunch_agenda (s : State) (k : Nat) (f : Launch → Launch) : (s.modLaunch k f).agenda = s.agenda := rfl
@[simp] theorem State.modLaunch_again (s : State) (k : Nat) (f : Launch → Launch) : (s.modLaunch k f).again = s.again := rfl
@[simp] theorem State.modLaunch_cur (s : State) (k : Nat) (f : Launch → Launch) : (s.modLaunch k f).cur = s.cur := rfl
@[simp] theorem State.modLaunch_freeSeq (s : State) (k : Nat) (f : Launch → Launch) : (s.modLaunch k f).freeSeq = s.freeSeq := rfl
@[simp] theorem State.modLaunch_opSeq (s : State) (k : Nat) (f : Launch → Launch) : (s.modLaunch k f).opSeq = s.opSeq := rfl
@[simp] theorem State.modLaunch_cycleOp (s : State) (k : Nat) (f : Launch → Launch) : (s.modLaunch k f).cycleOp = s.cycleOp := rfl
@[simp] theorem State.modLaunch_stamp (s : State) (k : Nat) (f : Launch → Launch) : (s.modLaunch k f).stamp = s.stamp := rfl
@[simp] theorem State.modLaunch_mem (s : State) (k : Nat) (f : Launch → Launch) : (s.modLaunch k f).mem = s.mem := rfl
@[simp] theorem State.modLaunch_lineKey (s : State) (k : Nat) (f : Launch → Launch) : (s.modLaunch k f).lineKey = s.lineKey := rfl
@[simp] theorem State.modLaunch_soiled (s : State) (k : Nat) (f : Launch → Launch) : (s.modLaunch k f).soiled = s.soiled := rfl
@[simp] theorem State.modLaunch_keys (s : State) (k : Nat) (f : Launch → Launch) : (s.modLaunch k f).keys = s.keys := rfl
@[simp] theorem State.modLaunch_pins (s : State) (k : Nat) (f : Launch → Launch) : (s.modLaunch k f).pins = s.pins := rfl
@[simp] theorem State.modLaunch_rels (s : State) (k : Nat) (f : Launch → Launch) : (s.modLaunch k f).rels = s.rels := rfl
@[simp] theorem State.modLaunch_syncs (s : State) (k : Nat) (f : Launch → Launch) : (s.modLaunch k f).syncs = s.syncs := rfl
@[simp] theorem State.modLaunch_fences (s : State) (k : Nat) (f : Launch → Launch) : (s.modLaunch k f).fences = s.fences := rfl
@[simp] theorem State.modLaunch_cmdLog (s : State) (k : Nat) (f : Launch → Launch) : (s.modLaunch k f).cmdLog = s.cmdLog := rfl
@[simp] theorem State.modLaunch_memBy (s : State) (k : Nat) (f : Launch → Launch) : (s.modLaunch k f).memBy = s.memBy := rfl
@[simp] theorem State.modLaunch_hslots (s : State) (k : Nat) (f : Launch → Launch) : (s.modLaunch k f).hslots = s.hslots := rfl
@[simp] theorem State.modLaunch_seqHeld (s : State) (k : Nat) (f : Launch → Launch) : (s.modLaunch k f).seqHeld = s.seqHeld := rfl
@[simp] theorem State.modLaunch_ops (s : State) (k : Nat) (f : Launch → Launch) : (s.modLaunch k f).ops = s.ops := rfl
@[simp] theorem State.modLaunch_waves (s : State) (k : Nat) (f : Launch → Launch) : (s.modLaunch k f).waves = s.waves := rfl
@[simp] theorem State.modLaunch_teams (s : State) (k : Nat) (f : Launch → Launch) : (s.modLaunch k f).teams = s.teams := rfl
@[simp] theorem State.modLaunch_launches (s : State) (k : Nat) (f : Launch → Launch) : (s.modLaunch k f).launches = tmod s.launches k f := rfl
@[simp] theorem State.modLaunch_dies (s : State) (k : Nat) (f : Launch → Launch) : (s.modLaunch k f).dies = s.dies := rfl
@[simp] theorem State.modLaunch_cores (s : State) (k : Nat) (f : Launch → Launch) : (s.modLaunch k f).cores = s.cores := rfl
@[simp] theorem State.modLaunch_icache (s : State) (k : Nat) (f : Launch → Launch) : (s.modLaunch k f).icache = s.icache := rfl
@[simp] theorem State.modLaunch_ifetch (s : State) (k : Nat) (f : Launch → Launch) : (s.modLaunch k f).ifetch = s.ifetch := rfl
@[simp] theorem State.modLaunch_regions (s : State) (k : Nat) (f : Launch → Launch) : (s.modLaunch k f).regions = s.regions := rfl
@[simp] theorem State.modLaunch_gens (s : State) (k : Nat) (f : Launch → Launch) : (s.modLaunch k f).gens = s.gens := rfl
@[simp] theorem State.modLaunch_asgen (s : State) (k : Nat) (f : Launch → Launch) : (s.modLaunch k f).asgen = s.asgen := rfl
@[simp] theorem State.modLaunch_tensors (s : State) (k : Nat) (f : Launch → Launch) : (s.modLaunch k f).tensors = s.tensors := rfl
@[simp] theorem State.modLaunch_touched (s : State) (k : Nat) (f : Launch → Launch) : (s.modLaunch k f).touched = s.touched := rfl
@[simp] theorem State.modLaunch_kmeas (s : State) (k : Nat) (f : Launch → Launch) : (s.modLaunch k f).kmeas = s.kmeas := rfl
@[simp] theorem State.modLaunch_boot (s : State) (k : Nat) (f : Launch → Launch) : (s.modLaunch k f).boot = s.boot := rfl
@[simp] theorem State.modLaunch_world (s : State) (k : Nat) (f : Launch → Launch) : (s.modLaunch k f).world = s.world := rfl
@[simp] theorem State.modLaunch_portsDown (s : State) (k : Nat) (f : Launch → Launch) : (s.modLaunch k f).portsDown = s.portsDown := rfl
@[simp] theorem State.modLaunch_inRings (s : State) (k : Nat) (f : Launch → Launch) : (s.modLaunch k f).inRings = s.inRings := rfl
@[simp] theorem State.modLaunch_events (s : State) (k : Nat) (f : Launch → Launch) : (s.modLaunch k f).events = s.events := rfl
@[simp] theorem State.modLaunch_defects (s : State) (k : Nat) (f : Launch → Launch) : (s.modLaunch k f).defects = s.defects := rfl
@[simp] theorem State.modLaunch_breaks (s : State) (k : Nat) (f : Launch → Launch) : (s.modLaunch k f).breaks = s.breaks := rfl
@[simp] theorem State.modLaunch_peerSeq (s : State) (k : Nat) (f : Launch → Launch) : (s.modLaunch k f).peerSeq = s.peerSeq := rfl

@[simp] theorem State.modOp_now (s : State) (k : Nat) (f : Op → Op) : (s.modOp k f).now = s.now := rfl
@[simp] theorem State.modOp_agenda (s : State) (k : Nat) (f : Op → Op) : (s.modOp k f).agenda = s.agenda := rfl
@[simp] theorem State.modOp_again (s : State) (k : Nat) (f : Op → Op) : (s.modOp k f).again = s.again := rfl
@[simp] theorem State.modOp_cur (s : State) (k : Nat) (f : Op → Op) : (s.modOp k f).cur = s.cur := rfl
@[simp] theorem State.modOp_freeSeq (s : State) (k : Nat) (f : Op → Op) : (s.modOp k f).freeSeq = s.freeSeq := rfl
@[simp] theorem State.modOp_opSeq (s : State) (k : Nat) (f : Op → Op) : (s.modOp k f).opSeq = s.opSeq := rfl
@[simp] theorem State.modOp_cycleOp (s : State) (k : Nat) (f : Op → Op) : (s.modOp k f).cycleOp = s.cycleOp := rfl
@[simp] theorem State.modOp_stamp (s : State) (k : Nat) (f : Op → Op) : (s.modOp k f).stamp = s.stamp := rfl
@[simp] theorem State.modOp_mem (s : State) (k : Nat) (f : Op → Op) : (s.modOp k f).mem = s.mem := rfl
@[simp] theorem State.modOp_lineKey (s : State) (k : Nat) (f : Op → Op) : (s.modOp k f).lineKey = s.lineKey := rfl
@[simp] theorem State.modOp_soiled (s : State) (k : Nat) (f : Op → Op) : (s.modOp k f).soiled = s.soiled := rfl
@[simp] theorem State.modOp_keys (s : State) (k : Nat) (f : Op → Op) : (s.modOp k f).keys = s.keys := rfl
@[simp] theorem State.modOp_pins (s : State) (k : Nat) (f : Op → Op) : (s.modOp k f).pins = s.pins := rfl
@[simp] theorem State.modOp_rels (s : State) (k : Nat) (f : Op → Op) : (s.modOp k f).rels = s.rels := rfl
@[simp] theorem State.modOp_syncs (s : State) (k : Nat) (f : Op → Op) : (s.modOp k f).syncs = s.syncs := rfl
@[simp] theorem State.modOp_fences (s : State) (k : Nat) (f : Op → Op) : (s.modOp k f).fences = s.fences := rfl
@[simp] theorem State.modOp_cmdLog (s : State) (k : Nat) (f : Op → Op) : (s.modOp k f).cmdLog = s.cmdLog := rfl
@[simp] theorem State.modOp_memBy (s : State) (k : Nat) (f : Op → Op) : (s.modOp k f).memBy = s.memBy := rfl
@[simp] theorem State.modOp_hslots (s : State) (k : Nat) (f : Op → Op) : (s.modOp k f).hslots = s.hslots := rfl
@[simp] theorem State.modOp_seqHeld (s : State) (k : Nat) (f : Op → Op) : (s.modOp k f).seqHeld = s.seqHeld := rfl
@[simp] theorem State.modOp_ops (s : State) (k : Nat) (f : Op → Op) : (s.modOp k f).ops = tmod s.ops k f := rfl
@[simp] theorem State.modOp_waves (s : State) (k : Nat) (f : Op → Op) : (s.modOp k f).waves = s.waves := rfl
@[simp] theorem State.modOp_teams (s : State) (k : Nat) (f : Op → Op) : (s.modOp k f).teams = s.teams := rfl
@[simp] theorem State.modOp_launches (s : State) (k : Nat) (f : Op → Op) : (s.modOp k f).launches = s.launches := rfl
@[simp] theorem State.modOp_dies (s : State) (k : Nat) (f : Op → Op) : (s.modOp k f).dies = s.dies := rfl
@[simp] theorem State.modOp_cores (s : State) (k : Nat) (f : Op → Op) : (s.modOp k f).cores = s.cores := rfl
@[simp] theorem State.modOp_icache (s : State) (k : Nat) (f : Op → Op) : (s.modOp k f).icache = s.icache := rfl
@[simp] theorem State.modOp_ifetch (s : State) (k : Nat) (f : Op → Op) : (s.modOp k f).ifetch = s.ifetch := rfl
@[simp] theorem State.modOp_regions (s : State) (k : Nat) (f : Op → Op) : (s.modOp k f).regions = s.regions := rfl
@[simp] theorem State.modOp_gens (s : State) (k : Nat) (f : Op → Op) : (s.modOp k f).gens = s.gens := rfl
@[simp] theorem State.modOp_asgen (s : State) (k : Nat) (f : Op → Op) : (s.modOp k f).asgen = s.asgen := rfl
@[simp] theorem State.modOp_tensors (s : State) (k : Nat) (f : Op → Op) : (s.modOp k f).tensors = s.tensors := rfl
@[simp] theorem State.modOp_touched (s : State) (k : Nat) (f : Op → Op) : (s.modOp k f).touched = s.touched := rfl
@[simp] theorem State.modOp_kmeas (s : State) (k : Nat) (f : Op → Op) : (s.modOp k f).kmeas = s.kmeas := rfl
@[simp] theorem State.modOp_boot (s : State) (k : Nat) (f : Op → Op) : (s.modOp k f).boot = s.boot := rfl
@[simp] theorem State.modOp_world (s : State) (k : Nat) (f : Op → Op) : (s.modOp k f).world = s.world := rfl
@[simp] theorem State.modOp_portsDown (s : State) (k : Nat) (f : Op → Op) : (s.modOp k f).portsDown = s.portsDown := rfl
@[simp] theorem State.modOp_inRings (s : State) (k : Nat) (f : Op → Op) : (s.modOp k f).inRings = s.inRings := rfl
@[simp] theorem State.modOp_events (s : State) (k : Nat) (f : Op → Op) : (s.modOp k f).events = s.events := rfl
@[simp] theorem State.modOp_defects (s : State) (k : Nat) (f : Op → Op) : (s.modOp k f).defects = s.defects := rfl
@[simp] theorem State.modOp_breaks (s : State) (k : Nat) (f : Op → Op) : (s.modOp k f).breaks = s.breaks := rfl
@[simp] theorem State.modOp_peerSeq (s : State) (k : Nat) (f : Op → Op) : (s.modOp k f).peerSeq = s.peerSeq := rfl

@[simp] theorem State.delOp_now (s : State) (k : Nat) : (s.delOp k).now = s.now := rfl
@[simp] theorem State.delOp_agenda (s : State) (k : Nat) : (s.delOp k).agenda = s.agenda := rfl
@[simp] theorem State.delOp_again (s : State) (k : Nat) : (s.delOp k).again = s.again := rfl
@[simp] theorem State.delOp_cur (s : State) (k : Nat) : (s.delOp k).cur = s.cur := rfl
@[simp] theorem State.delOp_freeSeq (s : State) (k : Nat) : (s.delOp k).freeSeq = s.freeSeq := rfl
@[simp] theorem State.delOp_opSeq (s : State) (k : Nat) : (s.delOp k).opSeq = s.opSeq := rfl
@[simp] theorem State.delOp_cycleOp (s : State) (k : Nat) : (s.delOp k).cycleOp = s.cycleOp := rfl
@[simp] theorem State.delOp_stamp (s : State) (k : Nat) : (s.delOp k).stamp = s.stamp := rfl
@[simp] theorem State.delOp_mem (s : State) (k : Nat) : (s.delOp k).mem = s.mem := rfl
@[simp] theorem State.delOp_lineKey (s : State) (k : Nat) : (s.delOp k).lineKey = s.lineKey := rfl
@[simp] theorem State.delOp_soiled (s : State) (k : Nat) : (s.delOp k).soiled = s.soiled := rfl
@[simp] theorem State.delOp_keys (s : State) (k : Nat) : (s.delOp k).keys = s.keys := rfl
@[simp] theorem State.delOp_pins (s : State) (k : Nat) : (s.delOp k).pins = s.pins := rfl
@[simp] theorem State.delOp_rels (s : State) (k : Nat) : (s.delOp k).rels = s.rels := rfl
@[simp] theorem State.delOp_syncs (s : State) (k : Nat) : (s.delOp k).syncs = s.syncs := rfl
@[simp] theorem State.delOp_fences (s : State) (k : Nat) : (s.delOp k).fences = s.fences := rfl
@[simp] theorem State.delOp_cmdLog (s : State) (k : Nat) : (s.delOp k).cmdLog = s.cmdLog := rfl
@[simp] theorem State.delOp_memBy (s : State) (k : Nat) : (s.delOp k).memBy = s.memBy := rfl
@[simp] theorem State.delOp_hslots (s : State) (k : Nat) : (s.delOp k).hslots = s.hslots := rfl
@[simp] theorem State.delOp_seqHeld (s : State) (k : Nat) : (s.delOp k).seqHeld = s.seqHeld := rfl
@[simp] theorem State.delOp_ops (s : State) (k : Nat) : (s.delOp k).ops = tdel s.ops k := rfl
@[simp] theorem State.delOp_waves (s : State) (k : Nat) : (s.delOp k).waves = s.waves := rfl
@[simp] theorem State.delOp_teams (s : State) (k : Nat) : (s.delOp k).teams = s.teams := rfl
@[simp] theorem State.delOp_launches (s : State) (k : Nat) : (s.delOp k).launches = s.launches := rfl
@[simp] theorem State.delOp_dies (s : State) (k : Nat) : (s.delOp k).dies = s.dies := rfl
@[simp] theorem State.delOp_cores (s : State) (k : Nat) : (s.delOp k).cores = s.cores := rfl
@[simp] theorem State.delOp_icache (s : State) (k : Nat) : (s.delOp k).icache = s.icache := rfl
@[simp] theorem State.delOp_ifetch (s : State) (k : Nat) : (s.delOp k).ifetch = s.ifetch := rfl
@[simp] theorem State.delOp_regions (s : State) (k : Nat) : (s.delOp k).regions = s.regions := rfl
@[simp] theorem State.delOp_gens (s : State) (k : Nat) : (s.delOp k).gens = s.gens := rfl
@[simp] theorem State.delOp_asgen (s : State) (k : Nat) : (s.delOp k).asgen = s.asgen := rfl
@[simp] theorem State.delOp_tensors (s : State) (k : Nat) : (s.delOp k).tensors = s.tensors := rfl
@[simp] theorem State.delOp_touched (s : State) (k : Nat) : (s.delOp k).touched = s.touched := rfl
@[simp] theorem State.delOp_kmeas (s : State) (k : Nat) : (s.delOp k).kmeas = s.kmeas := rfl
@[simp] theorem State.delOp_boot (s : State) (k : Nat) : (s.delOp k).boot = s.boot := rfl
@[simp] theorem State.delOp_world (s : State) (k : Nat) : (s.delOp k).world = s.world := rfl
@[simp] theorem State.delOp_portsDown (s : State) (k : Nat) : (s.delOp k).portsDown = s.portsDown := rfl
@[simp] theorem State.delOp_inRings (s : State) (k : Nat) : (s.delOp k).inRings = s.inRings := rfl
@[simp] theorem State.delOp_events (s : State) (k : Nat) : (s.delOp k).events = s.events := rfl
@[simp] theorem State.delOp_defects (s : State) (k : Nat) : (s.delOp k).defects = s.defects := rfl
@[simp] theorem State.delOp_breaks (s : State) (k : Nat) : (s.delOp k).breaks = s.breaks := rfl
@[simp] theorem State.delOp_peerSeq (s : State) (k : Nat) : (s.delOp k).peerSeq = s.peerSeq := rfl

@[simp] theorem State.event_now (s : State) (e : SysEvent) : (s.event e).now = s.now := rfl
@[simp] theorem State.event_agenda (s : State) (e : SysEvent) : (s.event e).agenda = s.agenda := rfl
@[simp] theorem State.event_again (s : State) (e : SysEvent) : (s.event e).again = s.again := rfl
@[simp] theorem State.event_cur (s : State) (e : SysEvent) : (s.event e).cur = s.cur := rfl
@[simp] theorem State.event_freeSeq (s : State) (e : SysEvent) : (s.event e).freeSeq = s.freeSeq := rfl
@[simp] theorem State.event_opSeq (s : State) (e : SysEvent) : (s.event e).opSeq = s.opSeq := rfl
@[simp] theorem State.event_cycleOp (s : State) (e : SysEvent) : (s.event e).cycleOp = s.cycleOp := rfl
@[simp] theorem State.event_stamp (s : State) (e : SysEvent) : (s.event e).stamp = s.stamp := rfl
@[simp] theorem State.event_mem (s : State) (e : SysEvent) : (s.event e).mem = s.mem := rfl
@[simp] theorem State.event_lineKey (s : State) (e : SysEvent) : (s.event e).lineKey = s.lineKey := rfl
@[simp] theorem State.event_soiled (s : State) (e : SysEvent) : (s.event e).soiled = s.soiled := rfl
@[simp] theorem State.event_keys (s : State) (e : SysEvent) : (s.event e).keys = s.keys := rfl
@[simp] theorem State.event_pins (s : State) (e : SysEvent) : (s.event e).pins = s.pins := rfl
@[simp] theorem State.event_rels (s : State) (e : SysEvent) : (s.event e).rels = s.rels := rfl
@[simp] theorem State.event_syncs (s : State) (e : SysEvent) : (s.event e).syncs = s.syncs := rfl
@[simp] theorem State.event_fences (s : State) (e : SysEvent) : (s.event e).fences = s.fences := rfl
@[simp] theorem State.event_cmdLog (s : State) (e : SysEvent) : (s.event e).cmdLog = s.cmdLog := rfl
@[simp] theorem State.event_memBy (s : State) (e : SysEvent) : (s.event e).memBy = s.memBy := rfl
@[simp] theorem State.event_hslots (s : State) (e : SysEvent) : (s.event e).hslots = s.hslots := rfl
@[simp] theorem State.event_seqHeld (s : State) (e : SysEvent) : (s.event e).seqHeld = s.seqHeld := rfl
@[simp] theorem State.event_ops (s : State) (e : SysEvent) : (s.event e).ops = s.ops := rfl
@[simp] theorem State.event_waves (s : State) (e : SysEvent) : (s.event e).waves = s.waves := rfl
@[simp] theorem State.event_teams (s : State) (e : SysEvent) : (s.event e).teams = s.teams := rfl
@[simp] theorem State.event_launches (s : State) (e : SysEvent) : (s.event e).launches = s.launches := rfl
@[simp] theorem State.event_dies (s : State) (e : SysEvent) : (s.event e).dies = s.dies := rfl
@[simp] theorem State.event_cores (s : State) (e : SysEvent) : (s.event e).cores = s.cores := rfl
@[simp] theorem State.event_icache (s : State) (e : SysEvent) : (s.event e).icache = s.icache := rfl
@[simp] theorem State.event_ifetch (s : State) (e : SysEvent) : (s.event e).ifetch = s.ifetch := rfl
@[simp] theorem State.event_regions (s : State) (e : SysEvent) : (s.event e).regions = s.regions := rfl
@[simp] theorem State.event_gens (s : State) (e : SysEvent) : (s.event e).gens = s.gens := rfl
@[simp] theorem State.event_asgen (s : State) (e : SysEvent) : (s.event e).asgen = s.asgen := rfl
@[simp] theorem State.event_tensors (s : State) (e : SysEvent) : (s.event e).tensors = s.tensors := rfl
@[simp] theorem State.event_touched (s : State) (e : SysEvent) : (s.event e).touched = s.touched := rfl
@[simp] theorem State.event_kmeas (s : State) (e : SysEvent) : (s.event e).kmeas = s.kmeas := rfl
@[simp] theorem State.event_boot (s : State) (e : SysEvent) : (s.event e).boot = s.boot := rfl
@[simp] theorem State.event_world (s : State) (e : SysEvent) : (s.event e).world = s.world := rfl
@[simp] theorem State.event_portsDown (s : State) (e : SysEvent) : (s.event e).portsDown = s.portsDown := rfl
@[simp] theorem State.event_inRings (s : State) (e : SysEvent) : (s.event e).inRings = s.inRings := rfl
@[simp] theorem State.event_events (s : State) (e : SysEvent) : (s.event e).events = s.events ++ [e] := rfl
@[simp] theorem State.event_defects (s : State) (e : SysEvent) : (s.event e).defects = s.defects := rfl
@[simp] theorem State.event_breaks (s : State) (e : SysEvent) : (s.event e).breaks = s.breaks := rfl
@[simp] theorem State.event_peerSeq (s : State) (e : SysEvent) : (s.event e).peerSeq = s.peerSeq := rfl

@[simp] theorem State.bump_now (s : State) : s.bump.now = s.now := rfl
@[simp] theorem State.bump_agenda (s : State) : s.bump.agenda = s.agenda := rfl
@[simp] theorem State.bump_again (s : State) : s.bump.again = s.again := rfl
@[simp] theorem State.bump_cur (s : State) : s.bump.cur = s.cur := rfl
@[simp] theorem State.bump_freeSeq (s : State) : s.bump.freeSeq = s.freeSeq + 1 := rfl
@[simp] theorem State.bump_opSeq (s : State) : s.bump.opSeq = s.opSeq := rfl
@[simp] theorem State.bump_cycleOp (s : State) : s.bump.cycleOp = s.cycleOp := rfl
@[simp] theorem State.bump_stamp (s : State) : s.bump.stamp = s.stamp := rfl
@[simp] theorem State.bump_mem (s : State) : s.bump.mem = s.mem := rfl
@[simp] theorem State.bump_lineKey (s : State) : s.bump.lineKey = s.lineKey := rfl
@[simp] theorem State.bump_soiled (s : State) : s.bump.soiled = s.soiled := rfl
@[simp] theorem State.bump_keys (s : State) : s.bump.keys = s.keys := rfl
@[simp] theorem State.bump_pins (s : State) : s.bump.pins = s.pins := rfl
@[simp] theorem State.bump_rels (s : State) : s.bump.rels = s.rels := rfl
@[simp] theorem State.bump_syncs (s : State) : s.bump.syncs = s.syncs := rfl
@[simp] theorem State.bump_fences (s : State) : s.bump.fences = s.fences := rfl
@[simp] theorem State.bump_cmdLog (s : State) : s.bump.cmdLog = s.cmdLog := rfl
@[simp] theorem State.bump_memBy (s : State) : s.bump.memBy = s.memBy := rfl
@[simp] theorem State.bump_hslots (s : State) : s.bump.hslots = s.hslots := rfl
@[simp] theorem State.bump_seqHeld (s : State) : s.bump.seqHeld = s.seqHeld := rfl
@[simp] theorem State.bump_ops (s : State) : s.bump.ops = s.ops := rfl
@[simp] theorem State.bump_waves (s : State) : s.bump.waves = s.waves := rfl
@[simp] theorem State.bump_teams (s : State) : s.bump.teams = s.teams := rfl
@[simp] theorem State.bump_launches (s : State) : s.bump.launches = s.launches := rfl
@[simp] theorem State.bump_dies (s : State) : s.bump.dies = s.dies := rfl
@[simp] theorem State.bump_cores (s : State) : s.bump.cores = s.cores := rfl
@[simp] theorem State.bump_icache (s : State) : s.bump.icache = s.icache := rfl
@[simp] theorem State.bump_ifetch (s : State) : s.bump.ifetch = s.ifetch := rfl
@[simp] theorem State.bump_regions (s : State) : s.bump.regions = s.regions := rfl
@[simp] theorem State.bump_gens (s : State) : s.bump.gens = s.gens := rfl
@[simp] theorem State.bump_asgen (s : State) : s.bump.asgen = s.asgen := rfl
@[simp] theorem State.bump_tensors (s : State) : s.bump.tensors = s.tensors := rfl
@[simp] theorem State.bump_touched (s : State) : s.bump.touched = s.touched := rfl
@[simp] theorem State.bump_kmeas (s : State) : s.bump.kmeas = s.kmeas := rfl
@[simp] theorem State.bump_boot (s : State) : s.bump.boot = s.boot := rfl
@[simp] theorem State.bump_world (s : State) : s.bump.world = s.world := rfl
@[simp] theorem State.bump_portsDown (s : State) : s.bump.portsDown = s.portsDown := rfl
@[simp] theorem State.bump_inRings (s : State) : s.bump.inRings = s.inRings := rfl
@[simp] theorem State.bump_events (s : State) : s.bump.events = s.events := rfl
@[simp] theorem State.bump_defects (s : State) : s.bump.defects = s.defects := rfl
@[simp] theorem State.bump_breaks (s : State) : s.bump.breaks = s.breaks := rfl
@[simp] theorem State.bump_peerSeq (s : State) : s.bump.peerSeq = s.peerSeq := rfl

/-! ## Reading an entry after an update -/

theorem State.wave_setWave (s : State) (k j : Nat) (w : Wave) :
    (s.setWave k w).wave j = if j = k then some w else s.wave j := tfind_tput _ _ _ _
theorem State.wave_modWave (s : State) (k j : Nat) (f : Wave → Wave) :
    (s.modWave k f).wave j = if j = k then (s.wave k).map f else s.wave j := tfind_tmod _ _ _ _
theorem State.team_modTeam (s : State) (k j : Nat) (f : Team → Team) :
    (s.modTeam k f).team j = if j = k then (s.team k).map f else s.team j := tfind_tmod _ _ _ _
theorem State.launch_modLaunch (s : State) (k j : Nat) (f : Launch → Launch) :
    (s.modLaunch k f).launch j = if j = k then (s.launch k).map f else s.launch j := tfind_tmod _ _ _ _
theorem State.op_modOp (s : State) (k j : Nat) (f : Op → Op) :
    (s.modOp k f).op j = if j = k then (s.op k).map f else s.op j := tfind_tmod _ _ _ _
theorem State.op_delOp (s : State) (k j : Nat) : (s.delOp k).op j = if j = k then none else s.op j := tfind_tdel _ _ _
theorem State.die_modDie (s : State) (k j : Nat) (f : Die → Die) :
    (s.modDie k f).die j = if j = k then f (s.die k) else s.die j := tget_tput _ _ _ _ _
theorem State.core_modCore (s : State) (k j : Nat) (f : Core → Core) :
    (s.modCore k f).core j = if j = k then f (s.core k) else s.core j := tget_tput _ _ _ _ _

/-- Two changes of one wave are one change. -/
theorem State.modWave_modWave (s : State) (k : Nat) (f g : Wave → Wave) :
    (s.modWave k f).modWave k g = s.modWave k fun w => g (f w) := by
  have h : tmod (tmod s.waves k f) k g = tmod s.waves k fun w => g (f w) := tmod_tmod _ _ _ _
  simp only [State.modWave, h]

end Sys2Proof.Machine
end

