-- ==== Sys2Proof/Laws/Registers.lean ====
section
/-! SUPPORT. What one register result writes, by the kind of its register, and what a list of results leaves. -/

namespace Sys2Proof.Machine

theorem foldl_tset_lanes {β : Type} [DecidableEq β] (ls : List Nat) (n : Nat) (f : Nat → β) (d : β) (t : Tab β) (m l : Nat)
    (hl : l < 32) (hs : ∀ k ∈ ls, k < 32) :
    tget (ls.foldl (fun v l => tset v (32 * n + l) (f l) d) t) (32 * m + l) d =
      if m = n ∧ l ∈ ls then f l else tget t (32 * m + l) d := by
  induction ls generalizing t with
  | nil => simp
  | cons a ls ih =>
    have ha := hs a (by simp)
    rw [List.foldl_cons, ih _ (fun k hk => hs k (by simp [-BitVec.getLsbD_eq_getElem, hk])), tget_tset]
    by_cases hm : m = n
    · subst hm
      by_cases h1 : l ∈ ls
      · simp [-BitVec.getLsbD_eq_getElem, h1]
      · by_cases h2 : l = a
        · subst h2; simp [-BitVec.getLsbD_eq_getElem, h1]
        · rw [if_neg (by simp [-BitVec.getLsbD_eq_getElem, h1]), if_neg (by omega), if_neg (by simp [-BitVec.getLsbD_eq_getElem, h1, h2])]
    · rw [if_neg (by simp [-BitVec.getLsbD_eq_getElem, hm]), if_neg (by omega), if_neg (by simp [-BitVec.getLsbD_eq_getElem, hm])]

theorem lanes_lt (m : Mask) : ∀ k ∈ lanes m, k < 32 := fun k hk => ((mem_lanes m k).1 hk).1

/-- A vector result: its lanes receive the values. -/
theorem vAt_apply_v (r : RegWrite) (g : Regs) (n : Nat) (hr : r.reg = .v n) (m l : Nat) (hl : l < 32) :
    (r.apply g).vAt m l = if m = n ∧ r.mask.getLsbD l = true then (tget r.vals l 0).setWidth 32 else g.vAt m l := by
  unfold RegWrite.apply Regs.vAt
  rw [hr]
  simp only
  rw [foldl_tset_lanes (lanes r.mask) n (fun l => (tget r.vals l 0).setWidth 32) 0 g.v m l hl (lanes_lt _)]
  simp [-BitVec.getLsbD_eq_getElem, hl]

theorem vBad_apply_v (r : RegWrite) (g : Regs) (n : Nat) (hr : r.reg = .v n) (m l : Nat) (hl : l < 32) :
    (r.apply g).vBad m l = if m = n ∧ r.mask.getLsbD l = true then r.pois.getLsbD l else g.vBad m l := by
  unfold RegWrite.apply Regs.vBad
  rw [hr]
  simp only [tget_tset]
  by_cases hm : m = n
  · subst hm
    simp only [if_true, true_and, lanePois]
    cases h : r.mask.getLsbD l <;> simp [-BitVec.getLsbD_eq_getElem, h, hl]
  · simp [-BitVec.getLsbD_eq_getElem, hm]

/-- A uniform result: the register receives all 64 bits when a lane executes. -/
theorem sAt_apply_s (r : RegWrite) (g : Regs) (n : Nat) (hr : r.reg = .s n) (m : Nat) :
    (r.apply g).sAt m = if m = n ∧ r.mask.getLsbD 0 = true then tget r.vals 0 0 else g.sAt m := by
  unfold RegWrite.apply Regs.sAt
  rw [hr]
  simp only
  split
  · rename_i h; simp only [tget_tset, h, and_true]
  · rename_i h; simp [-BitVec.getLsbD_eq_getElem, h]

theorem sBad_apply_s (r : RegWrite) (g : Regs) (n : Nat) (hn : n < 64) (hr : r.reg = .s n) (m : Nat) :
    (r.apply g).sBad m = if m = n ∧ r.mask.getLsbD 0 = true then r.pois.getLsbD 0 else g.sBad m := by
  unfold RegWrite.apply Regs.sBad
  rw [hr]
  simp only
  split
  · rename_i h
    simp only [h, and_true]
    have hb : (1#64 <<< n).getLsbD m = decide (m = n) := by
      simp only [BitVec.getLsbD_shiftLeft, BitVec.getLsbD_one]
      by_cases hm : m = n
      · subst hm; simp [-BitVec.getLsbD_eq_getElem, hn]
      · by_cases h1 : m < n <;> simp [-BitVec.getLsbD_eq_getElem, hm, h1]; omega
    by_cases hp : r.pois.getLsbD 0 = true
    · by_cases hm : m = n <;> simp [-BitVec.getLsbD_eq_getElem, hp, hm, hb]
      · subst hm; simp [-BitVec.getLsbD_eq_getElem, hn]
    · simp only [hp, if_false, Bool.false_eq_true]
      by_cases hm : m = n
      · subst hm; simp [-BitVec.getLsbD_eq_getElem, hb]
      · simp only [hm, if_false, BitVec.getLsbD_and, BitVec.getLsbD_not, hb, decide_false, Bool.not_false]
        by_cases h64 : m < 64
        · simp [-BitVec.getLsbD_eq_getElem, h64]
        · have : g.sP.getLsbD m = false := BitVec.getLsbD_of_ge _ _ (by omega)
          simp [-BitVec.getLsbD_eq_getElem, this]
  · rename_i h; simp [-BitVec.getLsbD_eq_getElem, h]

/-- A predicate result: its lanes receive bit 0 of the values, or poison; p7 receives nothing (R14). -/
theorem pAt_apply_p (r : RegWrite) (g : Regs) (n : Nat) (hr : r.reg = .p n) (m l : Nat) (hl : l < 32) :
    (r.apply g).pAt m l = if m = n ∧ n ≠ 7 ∧ r.mask.getLsbD l = true
      then (!r.pois.getLsbD l && (tget r.vals l 0).getLsbD 0) else g.pAt m l := by
  unfold RegWrite.apply Regs.pAt
  rw [hr]
  simp only
  split
  · rename_i h; simp [-BitVec.getLsbD_eq_getElem, h]
  · rename_i h
    simp only [tget_tset]
    by_cases hm : m = n
    · subst hm
      cases hk : r.mask.getLsbD l <;> simp [-BitVec.getLsbD_eq_getElem, hl, h, hk]
    · simp [-BitVec.getLsbD_eq_getElem, hm]

theorem pBad_apply_p (r : RegWrite) (g : Regs) (n : Nat) (hr : r.reg = .p n) (m l : Nat) (hl : l < 32) :
    (r.apply g).pBad m l = if m = n ∧ n ≠ 7 ∧ r.mask.getLsbD l = true then r.pois.getLsbD l else g.pBad m l := by
  unfold RegWrite.apply Regs.pBad
  rw [hr]
  simp only
  split
  · rename_i h; simp [-BitVec.getLsbD_eq_getElem, h]
  · rename_i h
    simp only [tget_tset]
    by_cases hm : m = n
    · subst hm
      cases hk : r.mask.getLsbD l <;> simp [-BitVec.getLsbD_eq_getElem, lanePois, hl, h, hk]
    · simp [-BitVec.getLsbD_eq_getElem, hm]

theorem pOrg_apply_p (r : RegWrite) (g : Regs) (n m : Nat) (hr : r.reg = .p n) (hm : m ≠ n) :
    (r.apply g).pOrg m = g.pOrg m := by
  unfold RegWrite.apply Regs.pOrg
  rw [hr]
  simp only
  split
  · rfl
  · simp only
    split
    · rw [tget_tset, if_neg hm]
    · rfl

/-- A result touches only the file of its register. -/
theorem apply_other (r : RegWrite) (g : Regs) :
    (r.apply g).h = g.h ∧
    ((∀ n, r.reg ≠ .v n) → (r.apply g).v = g.v ∧ (r.apply g).vP = g.vP) ∧
    ((∀ n, r.reg ≠ .s n) → (r.apply g).s = g.s ∧ (r.apply g).sP = g.sP) ∧
    ((∀ n, r.reg ≠ .p n) → (r.apply g).p = g.p ∧ (r.apply g).pP = g.pP ∧ (r.apply g).pO = g.pO) := by
  unfold RegWrite.apply
  cases hr : r.reg with
  | v n => simp
  | s n => by_cases h : r.mask.getLsbD 0 = true <;> simp [-BitVec.getLsbD_eq_getElem, h]
  | p n => by_cases h : n = 7 <;> simp [-BitVec.getLsbD_eq_getElem, h]

/-- WHAT ONE RESULT DOES: nothing outside its register and its lanes. -/
theorem kept_apply (r : RegWrite) (g : Regs) (hs : ∀ n, r.reg = .s n → n < 64) :
    Kept g (r.apply g) (fun m l => r.reg = .v m ∧ r.mask.getLsbD l = true)
      (fun m => r.reg = .s m ∧ r.mask.getLsbD 0 = true) (fun m l => r.reg = .p m ∧ m ≠ 7 ∧ r.mask.getLsbD l = true) := by
  obtain ⟨hh, hv, hsf, hp⟩ := apply_other r g
  refine ⟨?_, ?_, ?_, ?_, fun n => by simp [-BitVec.getLsbD_eq_getElem, Regs.hAt, hh]⟩
  · intro m l hl hn
    cases hr : r.reg with
    | v n =>
      rw [vAt_apply_v r g n hr m l hl, vBad_apply_v r g n hr m l hl]
      rw [hr] at hn
      by_cases hm : m = n
      · subst hm; simp [-BitVec.getLsbD_eq_getElem] at hn; simp [-BitVec.getLsbD_eq_getElem, hn]
      · simp [-BitVec.getLsbD_eq_getElem, hm]
    | s n => have := hv (by simp [-BitVec.getLsbD_eq_getElem, hr]); simp [-BitVec.getLsbD_eq_getElem, Regs.vAt, Regs.vBad, this]
    | p n => have := hv (by simp [-BitVec.getLsbD_eq_getElem, hr]); simp [-BitVec.getLsbD_eq_getElem, Regs.vAt, Regs.vBad, this]
  · intro m hn
    cases hr : r.reg with
    | s n =>
      rw [sAt_apply_s r g n hr m, sBad_apply_s r g n (hs n hr) hr m]
      rw [hr] at hn
      by_cases hm : m = n
      · subst hm; simp [-BitVec.getLsbD_eq_getElem] at hn; simp [-BitVec.getLsbD_eq_getElem, hn]
      · simp [-BitVec.getLsbD_eq_getElem, hm]
    | v n => have := hsf (by simp [-BitVec.getLsbD_eq_getElem, hr]); simp [-BitVec.getLsbD_eq_getElem, Regs.sAt, Regs.sBad, this]
    | p n => have := hsf (by simp [-BitVec.getLsbD_eq_getElem, hr]); simp [-BitVec.getLsbD_eq_getElem, Regs.sAt, Regs.sBad, this]
  · intro m l hl hn
    cases hr : r.reg with
    | p n =>
      rw [pAt_apply_p r g n hr m l hl, pBad_apply_p r g n hr m l hl]
      rw [hr] at hn
      by_cases hm : m = n
      · subst hm
        simp [-BitVec.getLsbD_eq_getElem] at hn
        by_cases h7 : m = 7
        · simp [-BitVec.getLsbD_eq_getElem, h7]
        · simp [-BitVec.getLsbD_eq_getElem, h7, hn h7]
      · simp [-BitVec.getLsbD_eq_getElem, hm]
    | v n => have := hp (by simp [-BitVec.getLsbD_eq_getElem, hr]); simp [-BitVec.getLsbD_eq_getElem, Regs.pAt, Regs.pBad, this]
    | s n => have := hp (by simp [-BitVec.getLsbD_eq_getElem, hr]); simp [-BitVec.getLsbD_eq_getElem, Regs.pAt, Regs.pBad, this]
  · intro m hn
    cases hr : r.reg with
    | p n =>
      by_cases hm : m = n
      · subst hm
        rw [hr] at hn
        by_cases h7 : m = 7
        · simp [-BitVec.getLsbD_eq_getElem, RegWrite.apply, hr, h7]
        · have hz : r.mask = 0 := by
            apply BitVec.eq_of_getLsbD_eq
            intro i _
            have := hn i
            simp [-BitVec.getLsbD_eq_getElem, h7] at this
            simp [-BitVec.getLsbD_eq_getElem, this]
          simp only [RegWrite.apply, hr, if_neg h7, Regs.pOrg, hz]
          simp
      · exact pOrg_apply_p r g n m hr hm
    | v n => have := hp (by simp [-BitVec.getLsbD_eq_getElem, hr]); simp [-BitVec.getLsbD_eq_getElem, Regs.pOrg, this]
    | s n => have := hp (by simp [-BitVec.getLsbD_eq_getElem, hr]); simp [-BitVec.getLsbD_eq_getElem, Regs.pOrg, this]

end Sys2Proof.Machine
end

