-- ==== Sys2Proof/Laws/Issue.lean ====
section
/-! SUPPORT. What the shared operations of an issue do: reading the context, the effect of a form whose results are
known at issue, and of one that posts a pending operation. -/

namespace Sys2Proof.Machine

/-- A form that issues has the effect of its body. -/
theorem issue_go {s : State} {i : Instr} {c : Ctx} (h : Issues s i c) (body : Ctx → State) :
    issue i body s = .next (body c) := by
  simp [issue, issueO, h.ctx, h.go]

theorem issueO_go {s : State} {i : Instr} {c : Ctx} (h : Issues s i c)
    (body : Ctx → Host.Outcome State Fault Refusal) : issueO i body s = body c := by
  simp [issueO, h.ctx, h.go]

/-- What the context of an issue is read from. -/
theorem ctx_spec {s : State} {i : Instr} {c : Ctx} (h : s.ctx i = some c) :
    c.i = i ∧ i.ctl = some c.h ∧ s.cur = some (c.wk, c.slot) ∧ c.s.wave c.wk = some c.w ∧
    c.w.slot c.slot = some c.p ∧ c.s = s.setWave c.wk c.w := by
  unfold State.ctx at h
  split at h
  · rename_i wk slot h' hcur hctl
    split at h
    · simp at h
    · simp only at h
      split at h
      · simp at h
      · rename_i p hp
        simp only [Option.some.injEq] at h
        subst h
        exact ⟨rfl, hctl, hcur, by simp [State.wave_setWave], hp, rfl⟩
  · simp at h

theorem Wave.slot_setSlot (w : Wave) (k j : Nat) (p : Option Path) :
    (w.setSlot k p).slot j = if (j = 0 ↔ k = 0) then p else w.slot j := by
  unfold Wave.setSlot Wave.slot
  by_cases hk : k = 0 <;> by_cases hj : j = 0 <;> simp [hk, hj]

theorem Wave.slot_other (w : Wave) (k : Nat) (p : Option Path) : (w.setSlot k p).slot (1 - k) = w.slot (1 - k) := by
  rw [Wave.slot_setSlot, if_neg (by omega)]

theorem Wave.ctr_ctrUp (w : Wave) (k j : Nat) :
    (w.ctrUp k).ctr j = if j = k ∧ j < 6 then w.ctr k + 1 else w.ctr j := by
  unfold Wave.ctrUp
  split
  · simp only [Wave.ctr, tget_tset]
    by_cases h : j = k <;> simp [h]; omega
  · rename_i h
    by_cases hj : j = k <;> simp [hj, h]

/-- The tangents change nothing but the tangents of live regions. -/
theorem tangents_spec (c : Ctx) (s : State) :
    c.tangents s = { s with regions := (c.tangents s).regions } ∧
    ∀ k, (tfind (c.tangents s).regions k).map (fun r => { r with tans := [] }) =
      (tfind s.regions k).map (fun r => { r with tans := [] }) := by
  unfold Ctx.tangents State.setTans
  split
  · exact ⟨rfl, fun _ => rfl⟩
  · simp only
    split
    · exact ⟨rfl, fun _ => rfl⟩
    · refine ⟨rfl, fun k => ?_⟩
      rw [tfind_tmod]
      split
      · rename_i h; subst h; cases tfind s.regions _ <;> rfl
      · rfl

/-- Counting and moving on, as one change of the wave. -/
theorem finish_eq (c : Ctx) (s : State) :
    c.finish s = s.modWave c.wk fun w =>
      let w1 : Wave := { ((w.ctrUp c.h.ctr).spanStep c.i c.s.opSeq) with
        due := if c.h.ctr < 6 ∧ (c.i.latClass ≠ .v ∨ !c.any) then w.due ++ [(c.h.ctr, s.now + 1)] else w.due
        issuedNow := true, fresh := false }
      w1.setSlot c.slot ((w1.slot c.slot).map fun p => (p.advance).issued c.h.stall) := by
  simp only [Ctx.finish, Ctx.move, Ctx.count, State.modWave_modWave]

theorem setSlot_rest (w : Wave) (k : Nat) (p : Option Path) :
    w.setSlot k p = { w with slot0 := (w.setSlot k p).slot0, slot1 := (w.setSlot k p).slot1 } := by
  unfold Wave.setSlot; split <;> rfl

theorem ctrUp_rest (w : Wave) (k : Nat) : w.ctrUp k = { w with c := (w.ctrUp k).c } := by
  unfold Wave.ctrUp; split <;> rfl

theorem slot_congr (w w' : Wave) (k : Nat) (h0 : w'.slot0 = w.slot0) (h1 : w'.slot1 = w.slot1) : w'.slot k = w.slot k := by
  unfold Wave.slot; split <;> assumption

theorem State.modWave_congr (s : State) (k : Nat) (f g : Wave → Wave) (h : ∀ w, s.wave k = some w → f w = g w) :
    s.modWave k f = s.modWave k g := by
  have : tmod s.waves k f = tmod s.waves k g := by
    unfold tmod
    cases hw : tfind s.waves k with
    | none => rfl
    | some w => simp only [h w hw]
  simp only [State.modWave, this]

/-- The wave that an issue leaves, over any change of its registers. -/
theorem moves_finish (c : Ctx) (g : Regs) (hz : List Hazard) (us : Tab Mask) (hw : c.s.wave c.wk = some c.w)
    (hp : c.w.slot c.slot = some c.p) :
    ∃ w', (c.finish (c.s.modWave c.wk fun w => { w with regs := g, haz := hz, unset := us })).wave c.wk = some w' ∧
      Moves c w' ∧ w'.regs = g ∧ w'.haz = hz ∧ w'.unset = us := by
  let w0 : Wave := { c.w with regs := g, haz := hz, unset := us }
  let w1 : Wave := { ((w0.ctrUp c.h.ctr).spanStep c.i c.s.opSeq) with
      due := if c.h.ctr < 6 ∧ (c.i.latClass ≠ .v ∨ !c.any) then w0.due ++ [(c.h.ctr, c.s.now + 1)] else w0.due
      issuedNow := true, fresh := false }
  have hs1 : w1.slot c.slot = some c.p := by
    rw [← hp]; apply slot_congr <;> simp only [w1, w0, Wave.spanStep, Wave.ctrUp] <;> split <;> rfl
  refine ⟨w1.setSlot c.slot ((w1.slot c.slot).map fun p => (p.advance).issued c.h.stall), ?_, ⟨?_, ?_, ?_, ?_, ?_, ?_⟩, ?_, ?_, ?_⟩
  · rw [finish_eq, State.modWave_modWave, State.wave_modWave, if_pos rfl, hw]
    rfl
  · rw [Wave.slot_setSlot, if_pos Iff.rfl, hs1]; rfl
  · rw [Wave.slot_other]
    apply slot_congr <;> simp only [w1, w0, Wave.spanStep, Wave.ctrUp] <;> split <;> rfl
  · intro k
    rw [setSlot_rest]
    exact Wave.ctr_ctrUp w0 c.h.ctr k |>.trans (by
      by_cases h : k = c.h.ctr <;> simp [h, w0, Wave.ctr])
  · rw [setSlot_rest]
    simp only [w1, w0]
    cases c.any <;> simp
  · intro he
    rw [setSlot_rest]
    simp [w1, w0, he, Wave.spanStep, Wave.ctrUp]
    split <;> simp
  · unfold WaveRest
    rw [setSlot_rest]
    simp only [w1, Wave.spanStep]
    rw [ctrUp_rest]
  all_goals rw [setSlot_rest]; simp only [w1, Wave.spanStep]; rw [ctrUp_rest]

theorem finish_regions (c : Ctx) (s : State) (r : Tab Region) :
    c.finish { s with regions := r } = { c.finish s with regions := r } := rfl

/-- THE ISSUE OF A FIXED-CLASS FORM: the results are applied in order, the path goes on, and nothing outside the wave
changes but the tangents of a live region. -/
theorem done_fixed {s : State} {i : Instr} {c : Ctx} (h : s.ctx i = some c) (rs : List RegWrite) :
    ∃ w', Done c (c.fixed rs) w' ∧ w'.regs = rs.foldl (fun g r => r.apply g) c.w.regs := by
  obtain ⟨-, -, -, hw, hp, -⟩ := ctx_spec h
  let g := rs.foldl (fun g r => r.apply g) c.w.regs
  let hz := rs.foldl (fun h r => h.filterMap fun z => z.under r) c.w.haz ++
    (rs.filter fun r => r.mask ≠ 0 ∧ r.reg ≠ .p 7).map fun r => r.haz (some (c.s.now + c.i.latClass.cycles)) none [] c.i c.p.pc
  obtain ⟨w', h1, h2, h3, -, -⟩ := moves_finish c g hz (c.w.sets rs) hw hp
  have hput : c.put rs c.s = c.s.modWave c.wk fun w => { w with regs := g, haz := hz, unset := c.w.sets rs } := by
    apply State.modWave_congr
    intro w hw'
    rw [hw] at hw'
    simp only [Option.some.injEq] at hw'
    subst hw'
    rfl
  obtain ⟨t1, t2⟩ := tangents_spec c (c.put rs c.s)
  have hf : c.fixed rs = { c.finish (c.put rs c.s) with regions := (c.tangents (c.put rs c.s)).regions } := by
    unfold Ctx.fixed
    rw [t1, finish_regions]
  refine ⟨w', ⟨?_, ⟨?_, ?_, ?_, ?_⟩, h2⟩, h3⟩
  · rw [hf, ← h1, hput]; rfl
  · rw [hf, finish_eq, hput, State.modWave_modWave]; rfl
  · intro k hk
    have : (c.fixed rs).wave k = (c.finish (c.put rs c.s)).wave k := by rw [hf]; rfl
    rw [this, finish_eq, hput, State.modWave_modWave, State.wave_modWave, if_neg hk]
  · intro k
    rw [hf]
    exact t2 k
  · intro a
    rw [hf, finish_eq, hput, State.modWave_modWave]
    rfl

end Sys2Proof.Machine
end

