-- ==== Sys2Proof/Laws/Memory.lean ====
section
/-! SUPPORT. Every operation over memory keeps its canonical form, and what it leaves. -/

namespace Sys2Proof.Machine

open Sys2Proof

/-- Reset memory has the canonical form: it lists nothing. -/
theorem reset_mem_wf : State.reset.mem.wf = true := rfl

/-- A fold of steps that keep the form keeps it. -/
theorem foldl_mem_wf {β : Type} (f : State → β → State) (xs : List β) (s : State) (h : s.mem.wf = true)
    (hf : ∀ t x, t.mem.wf = true → (f t x).mem.wf = true) : (xs.foldl f s).mem.wf = true := by
  induction xs generalizing s with
  | nil => exact h
  | cons x xs ih => exact ih _ (hf _ _ h)

/-! ## The L2 -/

@[simp] theorem l2Set_mem (s : State) (key pa : Nat) (b : Byte) : (s.l2Set key pa b).mem = memSet s.mem pa b := by
  unfold State.l2Set
  split <;> rfl

theorem l2Set_wf (s : State) (key pa : Nat) (b : Byte) (h : s.mem.wf = true) : (s.l2Set key pa b).mem.wf = true := by
  rw [l2Set_mem]
  exact memSet_wf _ _ _ h

@[simp] theorem l2Write_mem (bs : List Byte) (s : State) (key pa : Nat) :
    (s.l2Write key pa bs).mem = memWrite s.mem pa bs := by
  induction bs generalizing s pa with
  | nil => rfl
  | cons b bs ih =>
      rw [State.l2Write, ih, l2Set_mem]
      rfl

theorem l2Write_wf (bs : List Byte) (s : State) (key pa : Nat) (h : s.mem.wf = true) : (s.l2Write key pa bs).mem.wf = true := by
  rw [l2Write_mem]
  exact memWrite_wf _ _ _ h

@[simp] theorem soil_mem (s : State) (pa : Nat) : (s.soil pa).mem = s.mem := by
  unfold State.soil
  simp only
  split <;> rfl

@[simp] theorem soilRange_mem (s : State) (pa n : Nat) : (s.soilRange pa n).mem = s.mem :=
  List.foldlRecOn (motive := fun (t : State) => t.mem = s.mem) _ _ rfl fun t h _ _ => (soil_mem t _).trans h

theorem physWrite_wf (s : State) (pa : Nat) (bs : List Byte) (h : s.mem.wf = true) : (s.physWrite pa bs).mem.wf = true :=
  l2Write_wf _ _ _ _ (by rw [soilRange_mem]; exact h)

/-- A write at the L2 changes no byte outside it. -/
theorem l2Write_out (bs : List Byte) (s : State) (key pa a : Nat) (h : a < pa ∨ pa + bs.length ≤ a) :
    memGet (s.l2Write key pa bs).mem a = memGet s.mem a := by
  rw [l2Write_mem]
  exact memGet_memWrite_out bs s.mem pa a h

@[simp] theorem l2Set_waves (s : State) (key pa : Nat) (b : Byte) : (s.l2Set key pa b).waves = s.waves := by
  unfold State.l2Set
  split <;> rfl

@[simp] theorem l2Write_waves (bs : List Byte) (s : State) (key pa : Nat) : (s.l2Write key pa bs).waves = s.waves := by
  induction bs generalizing s pa with
  | nil => rfl
  | cons b bs ih => rw [State.l2Write, ih, l2Set_waves]

/-- A byte written to a line of this key slot alone shows through it. -/
theorem reach_write_shows (x : Option LineKey) (key gen off : Nat) (h : ∀ y, x = some y → y.key = key ∧ y.mixed = false) :
    ((LineKey.reach x key gen).write off).shows key gen off = true := by
  unfold LineKey.reach LineKey.write LineKey.shows
  cases x with
  | none => simp
  | some y =>
    obtain ⟨h1, h2⟩ := h y rfl
    by_cases hg : y.gen = gen
    · cases hs : y.since with
      | none => simp [h1, h2, hg, hs]
      | some l => by_cases hm : off ∈ l <;> simp [h1, h2, hg, hs, hm]
    · simp [h1, h2, hg]

/-- A byte written through a key slot reads back through it, on a line that no other slot has reached (R177). -/
theorem l2Byte_l2Set (s : State) (key pa : Nat) (b : Byte) (ho : s.ownLine key pa) : (s.l2Set key pa b).l2Byte key pa = b := by
  have hg : memGet (memSet s.mem pa b) pa = b := by rw [memGet_memSet]; simp
  unfold State.l2Byte
  by_cases h : isModuleMem pa = true
  · have hk : tfind (s.l2Set key pa b).lineKey (pa / 128) =
        some ((LineKey.reach (tfind s.lineKey (pa / 128)) key (s.keyOf key).gen).write (pa % 128)) := by
      unfold State.l2Set
      simp only [h, if_true]
      rw [tfind_tput]
      simp [State.keyOf]
    have hg' : ((s.l2Set key pa b).keyOf key).gen = (s.keyOf key).gen := by
      unfold State.l2Set
      split <;> rfl
    simp [h, hk, hg', hg, reach_write_shows _ key _ _ ho]
  · simp [h, hg]

/-! ## The L1 -/

theorem evictLine_wf (s : State) (ck line : Nat) (h : s.mem.wf = true) : (s.evictLine ck line).mem.wf = true := by
  unfold State.evictLine
  split
  · exact h
  · exact foldl_mem_wf _ _ s h fun t o ht => l2Set_wf t _ _ _ ht

theorem touchLine_wf (s : State) (ck key line : Nat) (h : s.mem.wf = true) : (s.touchLine ck key line).mem.wf = true := by
  unfold State.touchLine
  split
  · exact h
  · unfold State.makeRoom
    simp only [State.modCore_mem]
    split
    · exact h
    · split
      · exact evictLine_wf _ _ _ h
      · exact h

theorem l1Set_wf (s : State) (ck key pa : Nat) (b : Byte) (h : s.mem.wf = true) : (s.l1Set ck key pa b).mem.wf = true := by
  unfold State.l1Set
  simp only
  split
  · exact touchLine_wf s ck key _ h
  · exact l2Set_wf _ _ _ _ (touchLine_wf s ck key _ h)

theorem backByte_wf (s : State) (ck pa : Nat) (h : s.mem.wf = true) : (s.backByte ck pa).mem.wf = true := by
  unfold State.backByte
  split
  · exact h
  · split
    · exact l2Set_wf _ _ _ _ h
    · exact h

theorem trimL1_wf (s : State) (ck : Nat) (h : s.mem.wf = true) : (s.trimL1 ck).mem.wf = true :=
  foldl_mem_wf _ _ s h fun t _ ht => evictLine_wf t _ _ ht

theorem flushL1_wf (s : State) (ck : Nat) (h : s.mem.wf = true) : (s.flushL1 ck).mem.wf = true :=
  foldl_mem_wf _ _ s h fun t _ ht => evictLine_wf t _ _ ht

theorem evictEverywhere_wf (s : State) (line : Nat) (h : s.mem.wf = true) : (s.evictEverywhere line).mem.wf = true :=
  foldl_mem_wf _ _ s h fun t _ ht => evictLine_wf t _ _ ht

theorem evictRange_wf (s : State) (ck pa n : Nat) (h : s.mem.wf = true) : (s.evictRange ck pa n).mem.wf = true := by
  refine foldl_mem_wf _ _ s h fun t x ht => ?_
  split
  · exact evictLine_wf t _ _ ht
  · exact ht

theorem unpinTeam_wf (s : State) (team scope : Nat) (h : s.mem.wf = true) : (s.unpinTeam team scope).mem.wf = true := by
  unfold State.unpinTeam
  refine foldl_mem_wf _ _ _ h fun t x ht => ?_
  split
  · exact evictLine_wf t _ _ ht
  · exact ht

theorem poke_wf (s : State) (pa : Nat) (b : Byte) (h : s.mem.wf = true) : (s.poke pa b).mem.wf = true :=
  memSet_wf _ _ _ (by rw [soil_mem]; exact evictEverywhere_wf s _ h)

end Sys2Proof.Machine
end

