-- ==== Sys2Proof/Laws/Order.lean ====
section
/-! SUPPORT. What the notes of happens-before and of pools change: each operation leaves every field but those that its lemma names. -/

namespace Sys2Proof.Machine

open Sys2Proof

/-! ## What a wave hears -/

/-- A fold of steps that change the waves alone changes the waves alone. -/
theorem foldl_waves {β : Type} (f : State → β → State) (xs : List β) (s : State)
    (hf : ∀ t x, f t x = { t with waves := (f t x).waves }) : xs.foldl f s = { s with waves := (xs.foldl f s).waves } :=
  List.foldlRecOn (motive := fun (t : State) => t = { s with waves := t.waves }) xs f rfl fun t ht x _ =>
    (hf t x).trans (congrArg (fun u : State => { u with waves := (f t x).waves }) ht)

theorem learn_only (s : State) (wk : Nat) (c : Option (List Seg)) (hs : List Heard) :
    s.learn wk c hs = { s with waves := (s.learn wk c hs).waves } := by
  unfold State.learn State.modWave
  rfl

/-- An acquire changes what its wave has heard, and nothing else of the machine. -/
theorem acquireOn_only (s : State) (obj wk scope : Nat) (c : Option (List Seg)) :
    s.acquireOn obj wk scope c = { s with waves := (s.acquireOn obj wk scope c).waves } :=
  foldl_waves _ _ _ fun t r => by
    split
    · exact learn_only t _ _ _
    · rfl

theorem noteRead_only (s : State) (wk : Nat) (gs : List Seg) : s.noteRead wk gs = { s with waves := (s.noteRead wk gs).waves } := by
  unfold State.noteRead State.modWave
  dsimp only
  split <;> rfl

/-! ## What a wave publishes -/

theorem noteSeen_only (s : State) (wk : Nat) : s.noteSeen wk = { s with cmdLog := (s.noteSeen wk).cmdLog } := by
  unfold State.noteSeen
  split <;> rfl

/-- A release takes the next number, and notes which of its commands the wave has seen complete. -/
theorem publish_only (s : State) (wk : Nat) (c : Option (List Seg)) :
    (s.publish wk c).1 = { s with stamp := s.stamp + 1, cmdLog := (s.publish wk c).1.cmdLog } :=
  noteSeen_only _ _

/-- A release on an object is noted there. -/
theorem releaseOn_only (s : State) (obj wk scope : Nat) (c : Option (List Seg)) : s.releaseOn obj wk scope c =
    { s with stamp := s.stamp + 1, cmdLog := (s.releaseOn obj wk scope c).cmdLog, syncs := (s.releaseOn obj wk scope c).syncs } :=
  congrArg (fun u : State => { u with syncs := (s.releaseOn obj wk scope c).syncs }) (publish_only s wk c)

theorem noteTaken_only (s : State) (wk id : Nat) :
    s.noteTaken wk id = { s with stamp := s.stamp + 1, cmdLog := (s.noteTaken wk id).cmdLog } := rfl

/-! ## Writes -/

/-- A write is noted at its bytes. -/
theorem noteWrite_only (s : State) (wk id : Nat) (fence : Option Nat) (gs : List Seg) (handle : Bool) :
    s.noteWrite wk id fence gs handle =
      { s with stamp := s.stamp + 1, memBy := (s.noteWrite wk id fence gs handle).memBy, teams := (s.noteWrite wk id fence gs handle).teams } := by
  unfold State.noteWrite
  refine List.foldlRecOn (motive := fun (t : State) => t = { s with stamp := s.stamp + 1, memBy := t.memBy, teams := t.teams }) gs _ rfl
    fun t ht g _ => ?_
  have step (u : State) (hu : u = { t with memBy := u.memBy, teams := u.teams }) :
      u = { s with stamp := s.stamp + 1, memBy := u.memBy, teams := u.teams } :=
    hu.trans (congrArg (fun v : State => { v with memBy := u.memBy, teams := u.teams }) ht)
  refine step _ ?_
  split
  · rfl
  · unfold State.modTeam
    rfl
  · rfl

theorem slotStored_only (s : State) (pa : Nat) (h : HWord) : s.slotStored pa h = { s with hslots := (s.slotStored pa h).hslots } := by
  unfold State.slotStored; rfl
theorem slotFresh_only (s : State) (pa : Nat) : s.slotFresh pa = { s with memBy := (s.slotFresh pa).memBy } := by
  simp only [State.slotFresh]

/-- What races with pending commands is noted in these. -/
theorem noteRace_only (s : State) (id : Nat) (o : Op) (gs : List Seg) (mine : Bool) :
    s.noteRace id o gs mine = { s with ops := (s.noteRace id o gs mine).ops } := by
  unfold State.noteRace
  split <;> rfl

/-! ## Pools -/

theorem poolTouch_only (s : State) (asid : Nat) (gs : List Seg) : s.poolTouch asid gs = { s with seqHeld := (s.poolTouch asid gs).seqHeld } := by
  have fold {β : Type} (f : State → β → State) (xs : List β) (u : State) (hf : ∀ t x, f t x = { t with seqHeld := (f t x).seqHeld }) :
      xs.foldl f u = { u with seqHeld := (xs.foldl f u).seqHeld } :=
    List.foldlRecOn (motive := fun (t : State) => t = { u with seqHeld := t.seqHeld }) xs f rfl fun t ht x _ =>
      (hf t x).trans (congrArg (fun v : State => { v with seqHeld := (f t x).seqHeld }) ht)
  refine fold _ _ s fun t p => fold _ _ t fun u q => ?_
  dsimp only
  split <;> rfl

theorem poolFence_only (s : State) (wk scope : Nat) : s.poolFence wk scope = { s with seqHeld := (s.poolFence wk scope).seqHeld } := by
  unfold State.poolFence
  split <;> rfl

theorem poolCas_only (s : State) (asid wk : Nat) (a : DWord) (old new : Nat) :
    (s.poolCas asid wk a old new).1 = { s with seqHeld := (s.poolCas asid wk a old new).1.seqHeld } := by
  unfold State.poolCas
  split
  · rfl
  · split
    · rfl
    · split <;> rfl

/-- What a write leaves besides its bytes: notes. -/
theorem wrote_mem (s : State) (id : Nat) (o : Op) (gs places : List Seg) : (s.wrote id o gs places).mem = s.mem := by
  unfold State.wrote State.notePool
  rw [poolTouch_only, noteWrite_only, noteRace_only]

/-- Where no byte is lost to the operation, a read leaves notes. -/
theorem didRead_mem (s : State) (ck id : Nat) (o : Op) (gs places now : List Seg) (h : (s.lostAt id o gs true).any (· == true) = false) :
    (s.didRead ck id o gs places now).mem = s.mem := by
  unfold State.didRead State.notePool
  simp only [h, Bool.false_eq_true, if_false]
  rw [poolTouch_only, noteRead_only]

end Sys2Proof.Machine
end

