-- ==== Sys2Proof/Laws/PerInstr.lean ====
section
/-! SUPPORT. Facts of every instruction as syntax, one lemma per constructor. -/

open Sys2Proof

set_option maxRecDepth 20000

/-- A form with an encoding, and only such a form, has an opcode of ten bits, and its format class has two (R52): neither
field of a word that the encoder writes runs into the next. -/
def Sys2Proof.Laws.FieldsFit.Statement (i : Instr) : Prop :=
  (i.ctl.isSome == Nat.blt i.opc 1024 && Nat.blt i.cls 4) = true

theorem Sys2Proof.Laws.FieldsFit.nop (h : Ctl) : FieldsFit.Statement (.nop h) := rfl
theorem Sys2Proof.Laws.FieldsFit.bra (h : Ctl) (target : Word) : FieldsFit.Statement (.bra h target) := rfl
theorem Sys2Proof.Laws.FieldsFit.brx (h : Ctl) (a : Src) : FieldsFit.Statement (.brx h a) := rfl
theorem Sys2Proof.Laws.FieldsFit.call (h : Ctl) (d : Nat) (target : Word) : FieldsFit.Statement (.call h d target) :=
  rfl
theorem Sys2Proof.Laws.FieldsFit.ret (h : Ctl) (a : Nat) : FieldsFit.Statement (.ret h a) := rfl
theorem Sys2Proof.Laws.FieldsFit.join (h : Ctl) : FieldsFit.Statement (.join h) := rfl
theorem Sys2Proof.Laws.FieldsFit.exit (h : Ctl) : FieldsFit.Statement (.exit h) := rfl
theorem Sys2Proof.Laws.FieldsFit.yield (h : Ctl) : FieldsFit.Statement (.yield h) := rfl
theorem Sys2Proof.Laws.FieldsFit.span (h : Ctl) (r0 r1 r2 r3 : RegRange) : FieldsFit.Statement (.span h r0 r1 r2 r3) :=
  rfl
theorem Sys2Proof.Laws.FieldsFit.rep (h : Ctl) (n : Src) : FieldsFit.Statement (.rep h n) := by cases n <;> rfl
theorem Sys2Proof.Laws.FieldsFit.loop (h : Ctl) (n : LoopCnt) (last : Word) : FieldsFit.Statement (.loop h n last) :=
  rfl
theorem Sys2Proof.Laws.FieldsFit.elect (h : Ctl) (d : DstP) : FieldsFit.Statement (.elect h d) := rfl
theorem Sys2Proof.Laws.FieldsFit.vote (h : Ctl) (mode : VMode) (d : DstP) (a : PSrc) : FieldsFit.Statement (.vote h mode d a) :=
  rfl
theorem Sys2Proof.Laws.FieldsFit.shfl (h : Ctl) (mode : SMode) (d : Nat) (a b : Src) : FieldsFit.Statement (.shfl h mode d a b) :=
  by cases b <;> rfl
theorem Sys2Proof.Laws.FieldsFit.waitc (h : Ctl) (mask : Nat) : FieldsFit.Statement (.waitc h mask) := rfl
theorem Sys2Proof.Laws.FieldsFit.sleep (h : Ctl) (n : Src) : FieldsFit.Statement (.sleep h n) := by cases n <;> rfl
theorem Sys2Proof.Laws.FieldsFit.ipref (h : Ctl) (target : Word) (lines : Nat) : FieldsFit.Statement (.ipref h target lines) :=
  rfl
theorem Sys2Proof.Laws.FieldsFit.feat (h : Ctl) (d : Dst) (id : Src) : FieldsFit.Statement (.feat h d id) :=
  by cases id <;> rfl
theorem Sys2Proof.Laws.FieldsFit.iadd (h : Ctl) (ty : Ty) (sat : Bool) (d : Dst) (a b : Src) : FieldsFit.Statement (.iadd h ty sat d a b) :=
  by cases b <;> rfl
theorem Sys2Proof.Laws.FieldsFit.isub (h : Ctl) (ty : Ty) (sat : Bool) (d : Dst) (a b : Src) : FieldsFit.Statement (.isub h ty sat d a b) :=
  by cases b <;> rfl
theorem Sys2Proof.Laws.FieldsFit.imul (h : Ctl) (d : Dst) (a b : Src) : FieldsFit.Statement (.imul h d a b) :=
  by cases b <;> rfl
theorem Sys2Proof.Laws.FieldsFit.imulh (h : Ctl) (ty : Ty) (d : Dst) (a b : Src) : FieldsFit.Statement (.imulh h ty d a b) :=
  by cases b <;> rfl
theorem Sys2Proof.Laws.FieldsFit.imad (h : Ctl) (ty : Ty) (sat : Bool) (d : Dst) (a b c : Src) : FieldsFit.Statement (.imad h ty sat d a b c) :=
  rfl
theorem Sys2Proof.Laws.FieldsFit.iadd64 (h : Ctl) (d : Dst) (a b : Src) : FieldsFit.Statement (.iadd64 h d a b) :=
  by cases b <;> rfl
theorem Sys2Proof.Laws.FieldsFit.imin (h : Ctl) (ty : Ty) (d : Dst) (a b : Src) : FieldsFit.Statement (.imin h ty d a b) :=
  by cases b <;> rfl
theorem Sys2Proof.Laws.FieldsFit.imax (h : Ctl) (ty : Ty) (d : Dst) (a b : Src) : FieldsFit.Statement (.imax h ty d a b) :=
  by cases b <;> rfl
theorem Sys2Proof.Laws.FieldsFit.iabs (h : Ctl) (d : Dst) (a : Src) : FieldsFit.Statement (.iabs h d a) := rfl
theorem Sys2Proof.Laws.FieldsFit.and (h : Ctl) (d : Dst) (a b : Src) : FieldsFit.Statement (.and h d a b) :=
  by cases b <;> rfl
theorem Sys2Proof.Laws.FieldsFit.or (h : Ctl) (d : Dst) (a b : Src) : FieldsFit.Statement (.or h d a b) :=
  by cases b <;> rfl
theorem Sys2Proof.Laws.FieldsFit.xor (h : Ctl) (d : Dst) (a b : Src) : FieldsFit.Statement (.xor h d a b) :=
  by cases b <;> rfl
theorem Sys2Proof.Laws.FieldsFit.not (h : Ctl) (d : Dst) (a : Src) : FieldsFit.Statement (.not h d a) := rfl
theorem Sys2Proof.Laws.FieldsFit.lut3 (h : Ctl) (lut : BitVec 8) (d : Dst) (a b c : Src) : FieldsFit.Statement (.lut3 h lut d a b c) :=
  rfl
theorem Sys2Proof.Laws.FieldsFit.shl (h : Ctl) (d : Dst) (a b : Src) : FieldsFit.Statement (.shl h d a b) :=
  by cases b <;> rfl
theorem Sys2Proof.Laws.FieldsFit.shr (h : Ctl) (d : Dst) (a b : Src) : FieldsFit.Statement (.shr h d a b) :=
  by cases b <;> rfl
theorem Sys2Proof.Laws.FieldsFit.sar (h : Ctl) (d : Dst) (a b : Src) : FieldsFit.Statement (.sar h d a b) :=
  by cases b <;> rfl
theorem Sys2Proof.Laws.FieldsFit.shf (h : Ctl) (right : Bool) (d : Dst) (a b c : Src) : FieldsFit.Statement (.shf h right d a b c) :=
  rfl
theorem Sys2Proof.Laws.FieldsFit.popc (h : Ctl) (d : Dst) (a : Src) : FieldsFit.Statement (.popc h d a) := rfl
theorem Sys2Proof.Laws.FieldsFit.clz (h : Ctl) (d : Dst) (a : Src) : FieldsFit.Statement (.clz h d a) := rfl
theorem Sys2Proof.Laws.FieldsFit.brev (h : Ctl) (d : Dst) (a : Src) : FieldsFit.Statement (.brev h d a) := rfl
theorem Sys2Proof.Laws.FieldsFit.bfe (h : Ctl) (ty : Ty) (d : Dst) (a b : Src) : FieldsFit.Statement (.bfe h ty d a b) :=
  by cases b <;> rfl
theorem Sys2Proof.Laws.FieldsFit.bfi (h : Ctl) (d : Dst) (a b c : Src) : FieldsFit.Statement (.bfi h d a b c) := rfl
theorem Sys2Proof.Laws.FieldsFit.bperm (h : Ctl) (d : Dst) (a b c : Src) : FieldsFit.Statement (.bperm h d a b c) := rfl
theorem Sys2Proof.Laws.FieldsFit.isetp (h : Ctl) (cmp : ICmp) (ty : Ty) (pd pe : Nat) (a b : Src) : FieldsFit.Statement (.isetp h cmp ty pd pe a b) :=
  by cases b <;> rfl
theorem Sys2Proof.Laws.FieldsFit.sel (h : Ctl) (d : Dst) (a b : Src) (c : PSrc) : FieldsFit.Statement (.sel h d a b c) :=
  rfl
theorem Sys2Proof.Laws.FieldsFit.mov (h : Ctl) (d : Dst) (a : Src) : FieldsFit.Statement (.mov h d a) := rfl
theorem Sys2Proof.Laws.FieldsFit.movi (h : Ctl) (hi : Bool) (d : Dst) (a : Src) : FieldsFit.Statement (.movi h hi d a) :=
  by cases a <;> rfl
theorem Sys2Proof.Laws.FieldsFit.lea (h : Ctl) (ty : Ty) (sh : Nat) (d : Dst) (a b : Src) : FieldsFit.Statement (.lea h ty sh d a b) :=
  by cases b <;> rfl
theorem Sys2Proof.Laws.FieldsFit.icvt (h : Ctl) (sty : SubTy) (ty : Ty) (d : Dst) (a : Src) : FieldsFit.Statement (.icvt h sty ty d a) :=
  rfl
theorem Sys2Proof.Laws.FieldsFit.idiv (h : Ctl) (ty : Ty) (d : Dst) (a b : Src) : FieldsFit.Statement (.idiv h ty d a b) :=
  by cases b <;> rfl
theorem Sys2Proof.Laws.FieldsFit.fadd (h : Ctl) (d : Dst) (a b : Src) : FieldsFit.Statement (.fadd h d a b) :=
  by cases b <;> rfl
theorem Sys2Proof.Laws.FieldsFit.fsub (h : Ctl) (d : Dst) (a b : Src) : FieldsFit.Statement (.fsub h d a b) :=
  by cases b <;> rfl
theorem Sys2Proof.Laws.FieldsFit.fmul (h : Ctl) (d : Dst) (a b : Src) : FieldsFit.Statement (.fmul h d a b) :=
  by cases b <;> rfl
theorem Sys2Proof.Laws.FieldsFit.ffma (h : Ctl) (d : Dst) (a b c : Src) : FieldsFit.Statement (.ffma h d a b c) := rfl
theorem Sys2Proof.Laws.FieldsFit.fmin (h : Ctl) (d : Dst) (a b : Src) : FieldsFit.Statement (.fmin h d a b) :=
  by cases b <;> rfl
theorem Sys2Proof.Laws.FieldsFit.fmax (h : Ctl) (d : Dst) (a b : Src) : FieldsFit.Statement (.fmax h d a b) :=
  by cases b <;> rfl
theorem Sys2Proof.Laws.FieldsFit.fsetp (h : Ctl) (cmp : FCmp) (pd pe : Nat) (a b : Src) : FieldsFit.Statement (.fsetp h cmp pd pe a b) :=
  by cases b <;> rfl
theorem Sys2Proof.Laws.FieldsFit.fclass (h : Ctl) (d : Dst) (a : Src) : FieldsFit.Statement (.fclass h d a) := rfl
theorem Sys2Proof.Laws.FieldsFit.frnd (h : Ctl) (rnd : Rnd) (d : Dst) (a : Src) : FieldsFit.Statement (.frnd h rnd d a) :=
  rfl
theorem Sys2Proof.Laws.FieldsFit.fcvt (h : Ctl) (rnd : Rnd) (dty sty : FTy) (d : Dst) (a : Src) : FieldsFit.Statement (.fcvt h rnd dty sty d a) :=
  rfl
theorem Sys2Proof.Laws.FieldsFit.f2i (h : Ctl) (rnd : Rnd) (dty : Ty) (sty : FTy) (d : Dst) (a : Src) : FieldsFit.Statement (.f2i h rnd dty sty d a) :=
  rfl
theorem Sys2Proof.Laws.FieldsFit.i2f (h : Ctl) (rnd : Rnd) (dty : FTy) (sty : Ty) (d : Dst) (a : Src) : FieldsFit.Statement (.i2f h rnd dty sty d a) :=
  rfl
theorem Sys2Proof.Laws.FieldsFit.fscale (h : Ctl) (d : Dst) (a n : Src) : FieldsFit.Statement (.fscale h d a n) :=
  by cases n <;> rfl
theorem Sys2Proof.Laws.FieldsFit.fdiv (h : Ctl) (d : Dst) (a b : Src) : FieldsFit.Statement (.fdiv h d a b) :=
  by cases b <;> rfl
theorem Sys2Proof.Laws.FieldsFit.fsqrt (h : Ctl) (d : Dst) (a : Src) : FieldsFit.Statement (.fsqrt h d a) := rfl
theorem Sys2Proof.Laws.FieldsFit.frcp (h : Ctl) (d : Dst) (a : Src) : FieldsFit.Statement (.frcp h d a) := rfl
theorem Sys2Proof.Laws.FieldsFit.frsq (h : Ctl) (d : Dst) (a : Src) : FieldsFit.Statement (.frsq h d a) := rfl
theorem Sys2Proof.Laws.FieldsFit.fexp (h : Ctl) (d : Dst) (a : Src) : FieldsFit.Statement (.fexp h d a) := rfl
theorem Sys2Proof.Laws.FieldsFit.fexp2 (h : Ctl) (d : Dst) (a : Src) : FieldsFit.Statement (.fexp2 h d a) := rfl
theorem Sys2Proof.Laws.FieldsFit.flog (h : Ctl) (d : Dst) (a : Src) : FieldsFit.Statement (.flog h d a) := rfl
theorem Sys2Proof.Laws.FieldsFit.flog2 (h : Ctl) (d : Dst) (a : Src) : FieldsFit.Statement (.flog2 h d a) := rfl
theorem Sys2Proof.Laws.FieldsFit.fsin (h : Ctl) (d : Dst) (a : Src) : FieldsFit.Statement (.fsin h d a) := rfl
theorem Sys2Proof.Laws.FieldsFit.fcos (h : Ctl) (d : Dst) (a : Src) : FieldsFit.Statement (.fcos h d a) := rfl
theorem Sys2Proof.Laws.FieldsFit.ftanh (h : Ctl) (d : Dst) (a : Src) : FieldsFit.Statement (.ftanh h d a) := rfl
theorem Sys2Proof.Laws.FieldsFit.fsigm (h : Ctl) (d : Dst) (a : Src) : FieldsFit.Statement (.fsigm h d a) := rfl
theorem Sys2Proof.Laws.FieldsFit.hadd2 (h : Ctl) (half : Half) (d : Dst) (a b : Src) : FieldsFit.Statement (.hadd2 h half d a b) :=
  by cases b <;> rfl
theorem Sys2Proof.Laws.FieldsFit.hmul2 (h : Ctl) (half : Half) (d : Dst) (a b : Src) : FieldsFit.Statement (.hmul2 h half d a b) :=
  by cases b <;> rfl
theorem Sys2Proof.Laws.FieldsFit.hfma2 (h : Ctl) (half : Half) (d : Dst) (a b c : Src) : FieldsFit.Statement (.hfma2 h half d a b c) :=
  rfl
theorem Sys2Proof.Laws.FieldsFit.hmin2 (h : Ctl) (half : Half) (d : Dst) (a b : Src) : FieldsFit.Statement (.hmin2 h half d a b) :=
  by cases b <;> rfl
theorem Sys2Proof.Laws.FieldsFit.hmax2 (h : Ctl) (half : Half) (d : Dst) (a b : Src) : FieldsFit.Statement (.hmax2 h half d a b) :=
  by cases b <;> rfl
theorem Sys2Proof.Laws.FieldsFit.hsetp2 (h : Ctl) (half : Half) (cmp : FCmp) (pd pe : Nat) (a b : Src) : FieldsFit.Statement (.hsetp2 h half cmp pd pe a b) :=
  by cases b <;> rfl
theorem Sys2Proof.Laws.FieldsFit.bfma2 (h : Ctl) (half : Half) (d : Dst) (a b c : Src) : FieldsFit.Statement (.bfma2 h half d a b c) :=
  rfl
theorem Sys2Proof.Laws.FieldsFit.fdot4 (h : Ctl) (d : Dst) (a b c : Src) : FieldsFit.Statement (.fdot4 h d a b c) := rfl
theorem Sys2Proof.Laws.FieldsFit.plop (h : Ctl) (lut : BitVec 8) (pd : Nat) (a b c : PSrc) : FieldsFit.Statement (.plop h lut pd a b c) :=
  rfl
theorem Sys2Proof.Laws.FieldsFit.pset (h : Ctl) (pd : Nat) (x : Src) : FieldsFit.Statement (.pset h pd x) :=
  by cases x <;> rfl
theorem Sys2Proof.Laws.FieldsFit.p2v (h : Ctl) (d : Nat) : FieldsFit.Statement (.p2v h d) := rfl
theorem Sys2Proof.Laws.FieldsFit.v2p (h : Ctl) (a mask : Src) : FieldsFit.Statement (.v2p h a mask) :=
  by cases mask <;> rfl
theorem Sys2Proof.Laws.FieldsFit.ld (h : Ctl) (cache : Cache) (sign : Bool) (width : Width) (d : Nat) (m : Addr) : FieldsFit.Statement (.ld h cache sign width d m) :=
  rfl
theorem Sys2Proof.Laws.FieldsFit.ldNf (h : Ctl) (cache : Cache) (sign : Bool) (width : Width) (d pf : Nat) (m : Addr) : FieldsFit.Statement (.ldNf h cache sign width d pf m) :=
  rfl
theorem Sys2Proof.Laws.FieldsFit.st (h : Ctl) (cache : Cache) (width : Width) (src : Nat) (m : Addr) : FieldsFit.Statement (.st h cache width src m) :=
  rfl
theorem Sys2Proof.Laws.FieldsFit.pref (h : Ctl) (cache : Cache) (m : Addr) : FieldsFit.Statement (.pref h cache m) :=
  rfl
theorem Sys2Proof.Laws.FieldsFit.pgreq (h : Ctl) (m : Addr) : FieldsFit.Statement (.pgreq h m) := rfl
theorem Sys2Proof.Laws.FieldsFit.atom (h : Ctl) (op : AOp) (cache : Cache) (scope : Scope) (width : Width) (d src : Nat) (m : Addr) : FieldsFit.Statement (.atom h op cache scope width d src m) :=
  rfl
theorem Sys2Proof.Laws.FieldsFit.red (h : Ctl) (op : AOp) (cache : Cache) (scope : Scope) (width : Width) (src : Nat) (m : Addr) : FieldsFit.Statement (.red h op cache scope width src m) :=
  rfl
theorem Sys2Proof.Laws.FieldsFit.txbegin (h : Ctl) (target : Word) : FieldsFit.Statement (.txbegin h target) := rfl
theorem Sys2Proof.Laws.FieldsFit.txend (h : Ctl) : FieldsFit.Statement (.txend h) := rfl
theorem Sys2Proof.Laws.FieldsFit.txabort (h : Ctl) (code : Src) : FieldsFit.Statement (.txabort h code) :=
  by cases code <;> rfl
theorem Sys2Proof.Laws.FieldsFit.txstat (h : Ctl) (d : Nat) : FieldsFit.Statement (.txstat h d) := rfl
theorem Sys2Proof.Laws.FieldsFit.enq (h : Ctl) (ps src : Nat) (m : Addr) : FieldsFit.Statement (.enq h ps src m) := rfl
theorem Sys2Proof.Laws.FieldsFit.deq (h : Ctl) (d ps : Nat) (m : Addr) : FieldsFit.Statement (.deq h d ps m) := rfl
theorem Sys2Proof.Laws.FieldsFit.bind (h : Ctl) (kind : BindKind) (obj : Nat) (a : Nat) (off : BitVec 16) (len : BindLen) : FieldsFit.Statement (.bind h kind obj a off len) :=
  rfl
theorem Sys2Proof.Laws.FieldsFit.unbind (h : Ctl) (kind : BindKind) (obj : Nat) (a : Nat) (off : BitVec 16) (len : BindLen) : FieldsFit.Statement (.unbind h kind obj a off len) :=
  rfl
theorem Sys2Proof.Laws.FieldsFit.acq (h : Ctl) (scope : Scope) (d : Nat) (m : Addr) : FieldsFit.Statement (.acq h scope d m) :=
  rfl
theorem Sys2Proof.Laws.FieldsFit.rel (h : Ctl) (scope : Scope) (src : Nat) (m : Addr) : FieldsFit.Statement (.rel h scope src m) :=
  rfl
theorem Sys2Proof.Laws.FieldsFit.fence (h : Ctl) (scope : Scope) : FieldsFit.Statement (.fence h scope) := rfl
theorem Sys2Proof.Laws.FieldsFit.barinit (h : Ctl) (b : Nat) (m : BarSet) : FieldsFit.Statement (.barinit h b m) := rfl
theorem Sys2Proof.Laws.FieldsFit.bara (h : Ctl) (b : Nat) : FieldsFit.Statement (.bara h b) := rfl
theorem Sys2Proof.Laws.FieldsFit.barw (h : Ctl) (b pb : Nat) : FieldsFit.Statement (.barw h b pb) := rfl
theorem Sys2Proof.Laws.FieldsFit.baraw (h : Ctl) (b pb : Nat) : FieldsFit.Statement (.baraw h b pb) := rfl
theorem Sys2Proof.Laws.FieldsFit.barq (h : Ctl) (b d : Nat) : FieldsFit.Statement (.barq h b d) := rfl
theorem Sys2Proof.Laws.FieldsFit.tdef (h : Ctl) (t a : Nat) (off : BitVec 16) : FieldsFit.Statement (.tdef h t a off) :=
  rfl
theorem Sys2Proof.Laws.FieldsFit.tqry (h : Ctl) (d : Dst) (t sel : Nat) : FieldsFit.Statement (.tqry h d t sel) := rfl
theorem Sys2Proof.Laws.FieldsFit.cpy (h : Ctl) (ev : Option Nat) (td ts : Nat) : FieldsFit.Statement (.cpy h ev td ts) :=
  rfl
theorem Sys2Proof.Laws.FieldsFit.cpyr (h : Ctl) (ev : Option Nat) (td ts a : Nat) : FieldsFit.Statement (.cpyr h ev td ts a) :=
  rfl
theorem Sys2Proof.Laws.FieldsFit.qnt (h : Ctl) (ev : Option Nat) (td ts : Nat) : FieldsFit.Statement (.qnt h ev td ts) :=
  rfl
theorem Sys2Proof.Laws.FieldsFit.evpop (h : Ctl) (d ps : Nat) : FieldsFit.Statement (.evpop h d ps) := rfl
theorem Sys2Proof.Laws.FieldsFit.evwait (h : Ctl) (d : Nat) : FieldsFit.Statement (.evwait h d) := rfl
theorem Sys2Proof.Laws.FieldsFit.tkdef (h : Ctl) (x : Nat) : FieldsFit.Statement (.tkdef h x) := rfl
theorem Sys2Proof.Laws.FieldsFit.tkdec (h : Ctl) (i n : Nat) : FieldsFit.Statement (.tkdec h i n) := rfl
theorem Sys2Proof.Laws.FieldsFit.tkpull (h : Ctl) (wait : Bool) (d ps types : Nat) : FieldsFit.Statement (.tkpull h wait d ps types) :=
  rfl
theorem Sys2Proof.Laws.FieldsFit.tkdone (h : Ctl) (i : Nat) : FieldsFit.Statement (.tkdone h i) := rfl
theorem Sys2Proof.Laws.FieldsFit.weirget (h : Ctl) (ev : Option Nat) (a ts r : Nat) : FieldsFit.Statement (.weirget h ev a ts r) :=
  rfl
theorem Sys2Proof.Laws.FieldsFit.mma (h : Ctl) (ev : Option Nat) (acc ts slot : Nat) : FieldsFit.Statement (.mma h ev acc ts slot) :=
  rfl
theorem Sys2Proof.Laws.FieldsFit.mmah (h : Ctl) (ev : Option Nat) (bf : Bool) (acc ts slot : Nat) : FieldsFit.Statement (.mmah h ev bf acc ts slot) :=
  rfl
theorem Sys2Proof.Laws.FieldsFit.mmai (h : Ctl) (ev : Option Nat) (acc ts slot : Nat) : FieldsFit.Statement (.mmai h ev acc ts slot) :=
  rfl
theorem Sys2Proof.Laws.FieldsFit.mzero (h : Ctl) (ev : Option Nat) (acc : Nat) : FieldsFit.Statement (.mzero h ev acc) :=
  rfl
theorem Sys2Proof.Laws.FieldsFit.mld (h : Ctl) (ev : Option Nat) (acc a : Nat) (off : BitVec 16) : FieldsFit.Statement (.mld h ev acc a off) :=
  rfl
theorem Sys2Proof.Laws.FieldsFit.mst (h : Ctl) (ev : Option Nat) (acc a : Nat) (off : BitVec 16) : FieldsFit.Statement (.mst h ev acc a off) :=
  rfl
theorem Sys2Proof.Laws.FieldsFit.wbld (h : Ctl) (ev : Option Nat) (layout : WLayout) (slot a : Nat) (off : BitVec 16) : FieldsFit.Statement (.wbld h ev layout slot a off) :=
  rfl
theorem Sys2Proof.Laws.FieldsFit.accalloc (h : Ctl) (try_ : Bool) (ps acc : Nat) : FieldsFit.Statement (.accalloc h try_ ps acc) :=
  rfl
theorem Sys2Proof.Laws.FieldsFit.accfree (h : Ctl) (acc : Nat) : FieldsFit.Statement (.accfree h acc) := rfl
theorem Sys2Proof.Laws.FieldsFit.oprfence (h : Ctl) : FieldsFit.Statement (.oprfence h) := rfl
theorem Sys2Proof.Laws.FieldsFit.rlxcfg (h : Ctl) (dense : Bool) (src : GSrc) (cluster : Bool) (limit t : Nat) : FieldsFit.Statement (.rlxcfg h dense src cluster limit t) :=
  rfl
theorem Sys2Proof.Laws.FieldsFit.rlxcfgReg (h : Ctl) (dense : Bool) (src : GSrc) (cluster : Bool) (sl st : Nat) : FieldsFit.Statement (.rlxcfgReg h dense src cluster sl st) :=
  rfl
theorem Sys2Proof.Laws.FieldsFit.rlxcfgTol (h : Ctl) (sa sb : Nat) : FieldsFit.Statement (.rlxcfgTol h sa sb) := rfl
theorem Sys2Proof.Laws.FieldsFit.rlxst (h : Ctl) (r0 r1 r2 r3 : RegRange) : FieldsFit.Statement (.rlxst h r0 r1 r2 r3) :=
  rfl
theorem Sys2Proof.Laws.FieldsFit.rlxin (h : Ctl) (d a : Nat) (off stride : BitVec 16) : FieldsFit.Statement (.rlxin h d a off stride) :=
  rfl
theorem Sys2Proof.Laws.FieldsFit.rlxgs (h : Ctl) (none_ : Bool) (a : Nat) (off : BitVec 16) : FieldsFit.Statement (.rlxgs h none_ a off) :=
  rfl
theorem Sys2Proof.Laws.FieldsFit.rlxbeg (h : Ctl) : FieldsFit.Statement (.rlxbeg h) := rfl
theorem Sys2Proof.Laws.FieldsFit.rlxend (h : Ctl) : FieldsFit.Statement (.rlxend h) := rfl
theorem Sys2Proof.Laws.FieldsFit.rlxq (h : Ctl) (sel : Nat) (d : DstP) : FieldsFit.Statement (.rlxq h sel d) := rfl
theorem Sys2Proof.Laws.FieldsFit.rlxseed (h : Ctl) (src j : Nat) : FieldsFit.Statement (.rlxseed h src j) := rfl
theorem Sys2Proof.Laws.FieldsFit.gcfg (h : Ctl) (ps a : Nat) (off : Word) : FieldsFit.Statement (.gcfg h ps a off) :=
  rfl
theorem Sys2Proof.Laws.FieldsFit.gperm (h : Ctl) (d : Nat) (a : Src) : FieldsFit.Statement (.gperm h d a) := rfl
theorem Sys2Proof.Laws.FieldsFit.gadd (h : Ctl) (ps : Nat) (a : Src) : FieldsFit.Statement (.gadd h ps a) := rfl
theorem Sys2Proof.Laws.FieldsFit.gtest (h : Ctl) (pd : Nat) : FieldsFit.Statement (.gtest h pd) := rfl
theorem Sys2Proof.Laws.FieldsFit.gq (h : Ctl) (sel : Nat) (d : Dst) : FieldsFit.Statement (.gq h sel d) := rfl
theorem Sys2Proof.Laws.FieldsFit.bnew (h : Ctl) (hf hs ps : Nat) (size : BSize) : FieldsFit.Statement (.bnew h hf hs ps size) :=
  rfl
theorem Sys2Proof.Laws.FieldsFit.hdrop (h : Ctl) (a : Nat) : FieldsFit.Statement (.hdrop h a) := rfl
theorem Sys2Proof.Laws.FieldsFit.hmov (h : Ctl) (d a : Nat) : FieldsFit.Statement (.hmov h d a) := rfl
theorem Sys2Proof.Laws.FieldsFit.hcpy (h : Ctl) (d a : Nat) : FieldsFit.Statement (.hcpy h d a) := rfl
theorem Sys2Proof.Laws.FieldsFit.hld (h : Ctl) (sign : Bool) (width : Width) (d a : Nat) (idx : Option Nat) (off : BitVec 16) : FieldsFit.Statement (.hld h sign width d a idx off) :=
  rfl
theorem Sys2Proof.Laws.FieldsFit.hst (h : Ctl) (width : Width) (src a : Nat) (idx : Option Nat) (off : BitVec 16) : FieldsFit.Statement (.hst h width src a idx off) :=
  rfl
theorem Sys2Proof.Laws.FieldsFit.hstm (h : Ctl) (b : Nat) (off : BitVec 16) (a : Nat) : FieldsFit.Statement (.hstm h b off a) :=
  rfl
theorem Sys2Proof.Laws.FieldsFit.hldm (h : Ctl) (a ps b : Nat) (off : BitVec 16) : FieldsFit.Statement (.hldm h a ps b off) :=
  rfl
theorem Sys2Proof.Laws.FieldsFit.hldmRing (h : Ctl) (a ps b : Nat) (off : BitVec 16) : FieldsFit.Statement (.hldmRing h a ps b off) :=
  rfl
theorem Sys2Proof.Laws.FieldsFit.hxfer (h : Ctl) (ps a port ring : Nat) : FieldsFit.Statement (.hxfer h ps a port ring) :=
  rfl
theorem Sys2Proof.Laws.FieldsFit.hqry (h : Ctl) (sel : HSel) (d a : Nat) : FieldsFit.Statement (.hqry h sel d a) := rfl
theorem Sys2Proof.Laws.FieldsFit.launch (h : Ctl) (d a : Nat) : FieldsFit.Statement (.launch h d a) := rfl
theorem Sys2Proof.Laws.FieldsFit.stepmk (h : Ctl) (pw : Nat) : FieldsFit.Statement (.stepmk h pw) := rfl
theorem Sys2Proof.Laws.FieldsFit.dieq (h : Ctl) (sel : Nat) (d : Dst) : FieldsFit.Statement (.dieq h sel d) := rfl
theorem Sys2Proof.Laws.FieldsFit.treeset (h : Ctl) (a : Nat) (off : BitVec 16) : FieldsFit.Statement (.treeset h a off) :=
  rfl
theorem Sys2Proof.Laws.FieldsFit.treesetCanon (h : Ctl) : FieldsFit.Statement (.treesetCanon h) := rfl
theorem Sys2Proof.Laws.FieldsFit.cred (h : Ctl) (op : COp) (ty : CTy) (d : Dst) (a : Nat) : FieldsFit.Statement (.cred h op ty d a) :=
  rfl
theorem Sys2Proof.Laws.FieldsFit.sysr (h : Ctl) (d : Dst) (n : Nat) : FieldsFit.Statement (.sysr h d n) := rfl
theorem Sys2Proof.Laws.FieldsFit.sysw (h : Ctl) (n a : Nat) : FieldsFit.Statement (.sysw h n a) := rfl
theorem Sys2Proof.Laws.FieldsFit.trap (h : Ctl) (code : BitVec 16) : FieldsFit.Statement (.trap h code) := rfl
theorem Sys2Proof.Laws.FieldsFit.eret (h : Ctl) : FieldsFit.Statement (.eret h) := rfl
theorem Sys2Proof.Laws.FieldsFit.brk (h : Ctl) (act : BrkAct) (code : BitVec 16) : FieldsFit.Statement (.brk h act code) :=
  rfl
theorem Sys2Proof.Laws.FieldsFit.halt (h : Ctl) : FieldsFit.Statement (.halt h) := rfl
theorem Sys2Proof.Laws.FieldsFit.trcon (h : Ctl) : FieldsFit.Statement (.trcon h) := rfl
theorem Sys2Proof.Laws.FieldsFit.trcoff (h : Ctl) : FieldsFit.Statement (.trcoff h) := rfl
theorem Sys2Proof.Laws.FieldsFit.cntrd (h : Ctl) (n : Nat) (d : Dst) : FieldsFit.Statement (.cntrd h n d) := rfl
theorem Sys2Proof.Laws.FieldsFit.stallCountExpiry (wave slot : Nat) : FieldsFit.Statement (.stallCountExpiry wave slot) :=
  rfl
theorem Sys2Proof.Laws.FieldsFit.overdueWave (wave : Nat) : FieldsFit.Statement (.overdueWave wave) := rfl
theorem Sys2Proof.Laws.FieldsFit.counterDecrement (wave : Nat) : FieldsFit.Statement (.counterDecrement wave) := rfl
theorem Sys2Proof.Laws.FieldsFit.sleepExpiry (wave slot : Nat) : FieldsFit.Statement (.sleepExpiry wave slot) := rfl
theorem Sys2Proof.Laws.FieldsFit.variableResultCompletion (op : Nat) (slow : Bool) : FieldsFit.Statement (.variableResultCompletion op slow) :=
  rfl
theorem Sys2Proof.Laws.FieldsFit.icacheMissFill (wave slot : Nat) : FieldsFit.Statement (.icacheMissFill wave slot) :=
  rfl
theorem Sys2Proof.Laws.FieldsFit.translationWalk (op : Nat) : FieldsFit.Statement (.translationWalk op) := rfl
theorem Sys2Proof.Laws.FieldsFit.memoryAccessPerform (op lane : Nat) : FieldsFit.Statement (.memoryAccessPerform op lane) :=
  rfl
theorem Sys2Proof.Laws.FieldsFit.faultEntryDeferredWrite (die : Nat) : FieldsFit.Statement (.faultEntryDeferredWrite die) :=
  rfl
theorem Sys2Proof.Laws.FieldsFit.atomicPerform (op lane : Nat) : FieldsFit.Statement (.atomicPerform op lane) := rfl
theorem Sys2Proof.Laws.FieldsFit.gateTimeout (op lane : Nat) : FieldsFit.Statement (.gateTimeout op lane) := rfl
theorem Sys2Proof.Laws.FieldsFit.replayDivergeEnd (launch : Nat) : FieldsFit.Statement (.replayDivergeEnd launch) := rfl
theorem Sys2Proof.Laws.FieldsFit.pinnedRetryAccept (op lane : Nat) : FieldsFit.Statement (.pinnedRetryAccept op lane) :=
  rfl
theorem Sys2Proof.Laws.FieldsFit.txRetryAccept (op lane : Nat) : FieldsFit.Statement (.txRetryAccept op lane) := rfl
theorem Sys2Proof.Laws.FieldsFit.commandCompletion (op : Nat) : FieldsFit.Statement (.commandCompletion op) := rfl
theorem Sys2Proof.Laws.FieldsFit.tdefCompletion (op : Nat) : FieldsFit.Statement (.tdefCompletion op) := rfl
theorem Sys2Proof.Laws.FieldsFit.hxferDelivery (x : HxDelivery) : FieldsFit.Statement (.hxferDelivery x) := rfl
theorem Sys2Proof.Laws.FieldsFit.hxferAck (op : Nat) : FieldsFit.Statement (.hxferAck op) := rfl
theorem Sys2Proof.Laws.FieldsFit.gaugeMerge (die : Nat) : FieldsFit.Statement (.gaugeMerge die) := rfl
theorem Sys2Proof.Laws.FieldsFit.passEnd (region : Nat) : FieldsFit.Statement (.passEnd region) := rfl
theorem Sys2Proof.Laws.FieldsFit.fqackWrite (die : Nat) (seq : BitVec 16) : FieldsFit.Statement (.fqackWrite die seq) :=
  rfl
theorem Sys2Proof.Laws.FieldsFit.faultCompletionApply (die : Nat) : FieldsFit.Statement (.faultCompletionApply die) :=
  rfl
theorem Sys2Proof.Laws.FieldsFit.fqtailWrite (die : Nat) (tail : BitVec 16) : FieldsFit.Statement (.fqtailWrite die tail) :=
  rfl
theorem Sys2Proof.Laws.FieldsFit.asgenWrite (asid : Nat) : FieldsFit.Statement (.asgenWrite asid) := rfl
theorem Sys2Proof.Laws.FieldsFit.asgenDrainComplete (asid : Nat) : FieldsFit.Statement (.asgenDrainComplete asid) := rfl
theorem Sys2Proof.Laws.FieldsFit.repack (die core base : Nat) : FieldsFit.Statement (.repack die core base) := rfl
theorem Sys2Proof.Laws.FieldsFit.debugHalt (launch : Nat) : FieldsFit.Statement (.debugHalt launch) := rfl
theorem Sys2Proof.Laws.FieldsFit.debugResume (launch : Nat) : FieldsFit.Statement (.debugResume launch) := rfl
theorem Sys2Proof.Laws.FieldsFit.debugKill (launch : Nat) : FieldsFit.Statement (.debugKill launch) := rfl
theorem Sys2Proof.Laws.FieldsFit.debugStop (die core wslot path : Nat) : FieldsFit.Statement (.debugStop die core wslot path) :=
  rfl
theorem Sys2Proof.Laws.FieldsFit.debugGo (die core wslot path : Nat) : FieldsFit.Statement (.debugGo die core wslot path) :=
  rfl
theorem Sys2Proof.Laws.FieldsFit.debugStep (die core wslot path : Nat) : FieldsFit.Statement (.debugStep die core wslot path) :=
  rfl
theorem Sys2Proof.Laws.FieldsFit.debugDump (launch : Nat) : FieldsFit.Statement (.debugDump launch) := rfl
theorem Sys2Proof.Laws.FieldsFit.systemRegisterWrite (die n : Nat) (x : DWord) : FieldsFit.Statement (.systemRegisterWrite die n x) :=
  rfl
theorem Sys2Proof.Laws.FieldsFit.trapDelivery (wave : Nat) : FieldsFit.Statement (.trapDelivery wave) := rfl
theorem Sys2Proof.Laws.FieldsFit.waveRetire (wave : Nat) : FieldsFit.Statement (.waveRetire wave) := rfl
theorem Sys2Proof.Laws.FieldsFit.preemption (wave : Nat) : FieldsFit.Statement (.preemption wave) := rfl
theorem Sys2Proof.Laws.FieldsFit.contextSwitch (launch cluster : Nat) : FieldsFit.Statement (.contextSwitch launch cluster) :=
  rfl
theorem Sys2Proof.Laws.FieldsFit.contextRestore (launch cluster : Nat) (cores : List Nat) : FieldsFit.Statement (.contextRestore launch cluster cores) :=
  rfl
theorem Sys2Proof.Laws.FieldsFit.haltComplete (launch : Nat) : FieldsFit.Statement (.haltComplete launch) := rfl
theorem Sys2Proof.Laws.FieldsFit.dumpWrite (launch : Nat) : FieldsFit.Statement (.dumpWrite launch) := rfl
theorem Sys2Proof.Laws.FieldsFit.launchEligible (launch : Nat) : FieldsFit.Statement (.launchEligible launch) := rfl
theorem Sys2Proof.Laws.FieldsFit.bindRecordWrite (b : BindArgs) : FieldsFit.Statement (.bindRecordWrite b) := rfl
theorem Sys2Proof.Laws.FieldsFit.dispatchStep (die : Nat) : FieldsFit.Statement (.dispatchStep die) := rfl
theorem Sys2Proof.Laws.FieldsFit.granuleDrainComplete (core granule : Nat) : FieldsFit.Statement (.granuleDrainComplete core granule) :=
  rfl
theorem Sys2Proof.Laws.FieldsFit.teamFirstIssue (team : Nat) : FieldsFit.Statement (.teamFirstIssue team) := rfl
theorem Sys2Proof.Laws.FieldsFit.deterministicFirstOwner (core : Nat) : FieldsFit.Statement (.deterministicFirstOwner core) :=
  rfl
theorem Sys2Proof.Laws.FieldsFit.fragmentationEvent (die slot : Nat) : FieldsFit.Statement (.fragmentationEvent die slot) :=
  rfl
theorem Sys2Proof.Laws.FieldsFit.oppChange (launch : Nat) : FieldsFit.Statement (.oppChange launch) := rfl
theorem Sys2Proof.Laws.FieldsFit.stepBoundary (launch d : Nat) : FieldsFit.Statement (.stepBoundary launch d) := rfl
theorem Sys2Proof.Laws.FieldsFit.launchComplete (launch : Nat) : FieldsFit.Statement (.launchComplete launch) := rfl
theorem Sys2Proof.Laws.FieldsFit.addressSpaceRelease (asid : Nat) : FieldsFit.Statement (.addressSpaceRelease asid) :=
  rfl
theorem Sys2Proof.Laws.FieldsFit.poolLevelEval (die : Nat) : FieldsFit.Statement (.poolLevelEval die) := rfl
theorem Sys2Proof.Laws.FieldsFit.swapOut (die : Nat) : FieldsFit.Statement (.swapOut die) := rfl
theorem Sys2Proof.Laws.FieldsFit.swapIn (die : Nat) : FieldsFit.Statement (.swapIn die) := rfl
theorem Sys2Proof.Laws.FieldsFit.tracePeriodicSync (die : Nat) : FieldsFit.Statement (.tracePeriodicSync die) := rfl
theorem Sys2Proof.Laws.FieldsFit.startCold (x : StartArgs) : FieldsFit.Statement (.startCold x) := rfl
theorem Sys2Proof.Laws.FieldsFit.startWarm (x : StartArgs) : FieldsFit.Statement (.startWarm x) := rfl
theorem Sys2Proof.Laws.FieldsFit.requestRingPoll (die ring : Nat) : FieldsFit.Statement (.requestRingPoll die ring) :=
  rfl
theorem Sys2Proof.Laws.FieldsFit.start (r : Request) : FieldsFit.Statement (.start r) := rfl
theorem Sys2Proof.Laws.FieldsFit.keyload (r : Request) : FieldsFit.Statement (.keyload r) := rfl
theorem Sys2Proof.Laws.FieldsFit.keySlotSwitch (slot : Nat) : FieldsFit.Statement (.keySlotSwitch slot) := rfl
theorem Sys2Proof.Laws.FieldsFit.poolreg (r : Request) : FieldsFit.Statement (.poolreg r) := rfl
theorem Sys2Proof.Laws.FieldsFit.measure (r : Request) : FieldsFit.Statement (.measure r) := rfl
theorem Sys2Proof.Laws.FieldsFit.attest (r : Request) : FieldsFit.Statement (.attest r) := rfl
theorem Sys2Proof.Laws.FieldsFit.badop (r : Request) : FieldsFit.Statement (.badop r) := rfl
theorem Sys2Proof.Laws.FieldsFit.peerLinkTrainingFail (port : Nat) : FieldsFit.Statement (.peerLinkTrainingFail port) :=
  rfl
theorem Sys2Proof.Laws.FieldsFit.peerAckTimeout (port : Nat) : FieldsFit.Statement (.peerAckTimeout port) := rfl
theorem Sys2Proof.Laws.FieldsFit.powerRemoval : FieldsFit.Statement (.powerRemoval) := rfl
theorem Sys2Proof.Laws.FieldsFit.operatingPointStable (die : Nat) : FieldsFit.Statement (.operatingPointStable die) :=
  rfl
theorem Sys2Proof.Laws.FieldsFit.carriedHandleAccess (op lane : Nat) : FieldsFit.Statement (.carriedHandleAccess op lane) :=
  rfl
theorem Sys2Proof.Laws.FieldsFit.completionRingRetry (launch : Nat) : FieldsFit.Statement (.completionRingRetry launch) :=
  rfl
theorem Sys2Proof.Laws.FieldsFit.breachAlarm (sensor : Nat) : FieldsFit.Statement (.breachAlarm sensor) := rfl
theorem Sys2Proof.Laws.FieldsFit.hostLaneFail (lanes : Nat) : FieldsFit.Statement (.hostLaneFail lanes) := rfl
theorem Sys2Proof.Laws.FieldsFit.hostCoherence (addr : Nat) (byte : Byte) : FieldsFit.Statement (.hostCoherence addr byte) :=
  rfl
end

