-- ==== Sys2Proof/Laws/Results.lean ====
section
/-! SUPPORT. What a register holds after a lane-wise result (R67, R68, R96, R97). -/

namespace Sys2Proof.Machine

theorem Kept.mono {g g' : Regs} {dv dv' : Nat → Nat → Prop} {ds ds' : Nat → Prop} {dp dp' : Nat → Nat → Prop}
    (h : Kept g g' dv ds dp) (hv : ∀ n l, l < 32 → dv n l → dv' n l) (hs : ∀ n, ds n → ds' n)
    (hp : ∀ k l, dp k l → dp' k l) : Kept g g' dv' ds' dp' :=
  ⟨fun n l hl hn => h.v n l hl fun h => hn (hv n l hl h), fun n hn => h.s n fun h => hn (hs n h),
   fun k l hl hn => h.p k l hl fun h => hn (hp k l h), fun k hn => h.o k fun l h => hn l (hp k l h), h.h⟩

theorem Kept.trans {g g' g'' : Regs} {dv : Nat → Nat → Prop} {ds : Nat → Prop} {dp : Nat → Nat → Prop}
    (h : Kept g g' dv ds dp) (h' : Kept g' g'' dv ds dp) : Kept g g'' dv ds dp :=
  ⟨fun n l hl hn => ⟨(h'.v n l hl hn).1.trans (h.v n l hl hn).1, (h'.v n l hl hn).2.trans (h.v n l hl hn).2⟩,
   fun n hn => ⟨(h'.s n hn).1.trans (h.s n hn).1, (h'.s n hn).2.trans (h.s n hn).2⟩,
   fun k l hl hn => ⟨(h'.p k l hl hn).1.trans (h.p k l hl hn).1, (h'.p k l hl hn).2.trans (h.p k l hl hn).2⟩,
   fun k hn => (h'.o k hn).trans (h.o k hn), fun n => (h'.h n).trans (h.h n)⟩

theorem Kept.refl (g : Regs) (dv : Nat → Nat → Prop) (ds : Nat → Prop) (dp : Nat → Nat → Prop) : Kept g g dv ds dp :=
  ⟨fun _ _ _ _ => ⟨rfl, rfl⟩, fun _ _ => ⟨rfl, rfl⟩, fun _ _ _ _ => ⟨rfl, rfl⟩, fun _ _ => rfl, fun _ => rfl⟩

/-- A lane of `Ctx.toV`. -/
theorem tget_toV (c : Ctx) (n : Nat) (f : Nat → Rd) (l : Nat) (hl : l < 32) (hx : c.x.getLsbD l = true) :
    tget (c.toV n f).vals l 0 = (f l).val := by
  simp [-BitVec.getLsbD_eq_getElem, Ctx.toV, tget, tfind_map, hl, hx]

theorem pois_toV (c : Ctx) (n : Nat) (f : Nat → Rd) (l : Nat) (hl : l < 32) (hx : c.x.getLsbD l = true) :
    (c.toV n f).pois.getLsbD l = (f l).pois := by
  simp [-BitVec.getLsbD_eq_getElem, Ctx.toV, hl, hx]

/-- An executing lane of a vector register after `Ctx.toV`. -/
theorem apply_toV (c : Ctx) (g : Regs) (n : Nat) (f : Nat → Rd) (l : Nat) (hl : l < 32) (hx : c.x.getLsbD l = true) :
    ((c.toV n f).apply g).vAt n l = (f l).val.setWidth 32 ∧ ((c.toV n f).apply g).vBad n l = (f l).pois := by
  have hm : (c.toV n f).mask = c.x := rfl
  rw [vAt_apply_v _ g n rfl n l hl, vBad_apply_v _ g n rfl n l hl, hm, tget_toV c n f l hl hx, pois_toV c n f l hl hx]
  simp [-BitVec.getLsbD_eq_getElem, hx]

theorem apply_toS (c : Ctx) (g : Regs) (n : Nat) (hn : n < 64) (r : Rd) (ha : c.any = true) :
    ((c.toS n r).apply g).sAt n = r.val ∧ ((c.toS n r).apply g).sBad n = r.pois := by
  rw [sAt_apply_s _ g n rfl n, sBad_apply_s _ g n hn rfl n]
  simp only [Ctx.toS, ha, if_true]
  cases h : r.pois <;> simp [tget, tfind]

/-- An executing lane of a predicate after `Ctx.toP`. -/
theorem apply_toP (c : Ctx) (g : Regs) (k : Nat) (h7 : k ≠ 7) (f : Nat → Rd) (l : Nat) (hl : l < 32)
    (hx : c.x.getLsbD l = true) :
    ((c.toP k f).apply g).pAt k l = (!(f l).pois && (f l).val.getLsbD 0) ∧ ((c.toP k f).apply g).pBad k l = (f l).pois := by
  have hm : (c.toP k f).mask = c.x := rfl
  have hv : tget (c.toP k f).vals l 0 = (f l).val := tget_toV c 0 f l hl hx
  have hp : (c.toP k f).pois.getLsbD l = (f l).pois := pois_toV c 0 f l hl hx
  rw [pAt_apply_p _ g k rfl k l hl, pBad_apply_p _ g k rfl k l hl, hm, hv, hp]
  simp [-BitVec.getLsbD_eq_getElem, hx, h7]

theorem kept_toV (c : Ctx) (g : Regs) (n : Nat) (f : Nat → Rd) :
    Kept g ((c.toV n f).apply g) (fun m l => m = n ∧ c.x.getLsbD l = true) (fun _ => False) (fun _ _ => False) :=
  (kept_apply (c.toV n f) g (fun _ h => by simp [Ctx.toV] at h)).mono
    (fun m l _ h => ⟨by have := h.1; simp only [Ctx.toV, OneReg.v.injEq] at this; exact this.symm, h.2⟩)
    (fun m h => by simp [Ctx.toV] at h) (fun m l h => by simp [Ctx.toV] at h)

theorem kept_toS (c : Ctx) (g : Regs) (n : Nat) (hn : n < 64) (r : Rd) :
    Kept g ((c.toS n r).apply g) (fun _ _ => False) (fun m => m = n ∧ c.any = true) (fun _ _ => False) :=
  (kept_apply (c.toS n r) g (fun m h => by simp only [Ctx.toS, OneReg.s.injEq] at h; omega)).mono
    (fun m l _ h => by simp [Ctx.toS] at h)
    (fun m h => by
      have h1 := h.1
      have h2 := h.2
      simp only [Ctx.toS, OneReg.s.injEq] at h1 h2
      refine ⟨h1.symm, ?_⟩
      by_contra hc
      simp [hc] at h2)
    (fun m l h => by simp [Ctx.toS] at h)

theorem kept_toP (c : Ctx) (g : Regs) (k : Nat) (f : Nat → Rd) :
    Kept g ((c.toP k f).apply g) (fun _ _ => False) (fun _ => False) (fun m l => m = k ∧ m ≠ 7 ∧ c.x.getLsbD l = true) :=
  (kept_apply (c.toP k f) g (fun _ h => by simp [Ctx.toP] at h)).mono
    (fun m l _ h => by simp [Ctx.toP] at h) (fun m h => by simp [Ctx.toP] at h)
    (fun m l h => ⟨by have := h.1; simp only [Ctx.toP, OneReg.p.injEq] at this; exact this.symm, h.2.1, h.2.2⟩)

/-- The lane rule of R68 in the two fields of a read. -/
theorem lane_receives (c : Ctx) (ins : List Rd) (x : Word) (l : Nat) :
    Receives ((c.lane ins (x.setWidth 64) l).val.setWidth 32) (c.lane ins (x.setWidth 64) l).pois (ins ++ [c.guard l]) x := by
  unfold Ctx.lane Receives
  cases (ins ++ [c.guard l]).find? Rd.pois with
  | none => simp
  | some r => simp

theorem lane_receives_eq (c : Ctx) (ins : List Rd) (v : DWord) (x : Word) (l : Nat) (h : v.setWidth 32 = x) :
    Receives ((c.lane ins v l).val.setWidth 32) (c.lane ins v l).pois (ins ++ [c.guard l]) x := by
  unfold Ctx.lane Receives
  cases (ins ++ [c.guard l]).find? Rd.pois with
  | none => simp [h]
  | some r => simp

/-- THE RESULT OF A 32-BIT LANE-WISE FORM. -/
theorem res_spec (c : Ctx) (g : Regs) (d : Dst) (ops : List Src) (f : List DWord → Word) (hd : ∀ n, d = .s n → n < 64) :
    LaneResult c g ((c.res d ops f).apply g) d (fun l => ops.map fun a => c.rd a l)
      (fun l => f ((ops.map fun a => c.rd a l).map Rd.val)) := by
  cases d with
  | v n =>
    refine ⟨fun l hl hx => ?_, kept_toV c g n _⟩
    simp only [Ctx.res]
    rw [(apply_toV c _ n _ l hl hx).1, (apply_toV c _ n _ l hl hx).2]
    exact lane_receives c _ _ l
  | s n =>
    have hn := hd n rfl
    refine ⟨fun ha => ?_, kept_toS c g n hn _⟩
    simp only [Ctx.res]
    rw [(apply_toS c _ n hn _ ha).1, (apply_toS c _ n hn _ ha).2]
    unfold Ctx.uni Receives64
    cases (((ops.map fun a => c.rd a (lowest c.x)) ++ (lanes c.x).map c.guard).find? Rd.pois) with
    | none => simp
    | some r => simp

end Sys2Proof.Machine
end

