-- ==== Sys2Proof/Laws/Trap.lean ====
section
/-! SUPPORT. Taking a fault, its delivery and the return from a handler: each said once, with everything it can do. -/

namespace Sys2Proof.Machine

open Sys2Proof

/-- The record of a fault that becomes pending in the wave: the counters, the loops, the path, the stops and the time (R395). -/
def Wave.pending (w : Wave) (f : FaultRec) (now : Nat) : FaultRec :=
  { f with ctrs := w.c, rlx := w.region.isSome, path := if f.path = 0 then w.pathIx f.slot else f.path, made := w.barDone
           loops := [w.slot0.bind Path.loop, w.slot1.bind Path.loop], at_ := now
           stops := [w.slot0.any (·.stopped), w.slot1.any (·.stopped)] }

/-- The state in which the fault is pending. -/
def State.pended (s : State) (wk : Nat) (w : Wave) (f : FaultRec) : State :=
  s.modWave wk fun v => { v with trap := { v.trap with pend := some (w.pending f s.now) } }

/-- Taking a fault: the fault is pending, and nothing else changes, unless FACT is DUMP and no handler takes it: then the launch halts
besides (R369). -/
theorem takeFault_pend (s : State) (wk : Nat) (f : FaultRec) (w : Wave) (hw : s.wave wk = some w) (hp : w.trap.pend = none) :
    s.takeFault wk f = if (s.hdr w).fact = 2 ∧ w.trap.handles = false then (s.pended wk w f).dumpHalt wk w (w.pending f s.now)
      else s.pended wk w f := by
  simp only [State.takeFault, hw, hp, Option.isSome_none, Bool.false_eq_true, if_false, Bool.not_eq_true']
  rfl

/-- A wave holds one pending fault: a second one is not taken. -/
theorem takeFault_second (s : State) (wk : Nat) (f : FaultRec) (w : Wave) (hw : s.wave wk = some w)
    (hp : w.trap.pend.isSome = true) : s.takeFault wk f = s := by
  simp [State.takeFault, hw, hp]

theorem takeFault_absent (s : State) (wk : Nat) (f : FaultRec) (hw : s.wave wk = none) : s.takeFault wk f = s := by
  simp [State.takeFault, hw]

/-- A halt under FACT DUMP changes nothing but launches. -/
theorem dumpHalt_out (s : State) (wk : Nat) (w : Wave) (f : FaultRec) :
    s.dumpHalt wk w f = { s with launches := (s.dumpHalt wk w f).launches } := by
  unfold State.dumpHalt
  simp only
  repeat' split
  all_goals rfl

/-- A fault changes nothing but its wave, and the halt of its launch. -/
theorem takeFault_out (s : State) (wk : Nat) (f : FaultRec) :
    s.takeFault wk f = { s with waves := (s.takeFault wk f).waves, launches := (s.takeFault wk f).launches } := by
  cases hw : s.wave wk with
  | none => rw [takeFault_absent s wk f hw]
  | some w =>
      by_cases hp : w.trap.pend.isSome = true
      · rw [takeFault_second s wk f w hw hp]
      · rw [takeFault_pend s wk f w hw (by simpa using hp)]
        split
        · rw [dumpHalt_out]; rfl
        · rfl

/-- Delivery without a pending fault changes nothing. -/
theorem deliver_idle (s : State) (wk : Nat) (h : ∀ w, s.wave wk = some w → (w.settle s.now).trap.pend = none) :
    s.deliver wk = s := by
  unfold State.deliver
  split
  · rfl
  · rename_i w hw
    simp [h w hw]

/-- EVERYTHING THAT A DELIVERY CAN DO (R396, R397): nothing; the fault action of the launch; the write of the record that parks or waits;
or the handler, entered after the record has been written, unless its target is still to be read. -/
theorem deliver_cases (s : State) (wk : Nat) :
    s.deliver wk = s ∨ (∃ f b, s.deliver wk = s.faultAction wk f b) ∨
    ∃ w f, s.wave wk = some w ∧ (w.settle s.now).trap.pend = some f ∧
      (match (s.setWave wk (w.settle s.now)).hwWrite wk f.slot f.pc f.mask 0x2400
          ((s.setWave wk (w.settle s.now)).trapRecord (w.settle s.now) f) with
        | .parked u => s.deliver wk = u
        | .wait => s.deliver wk = s.setWave wk (w.settle s.now)
        | .code _ _ => s.deliver wk = (s.setWave wk (w.settle s.now)).faultAction wk f false
        | .done u => s.deliver wk = s ∨ s.deliver wk = u.faultAction wk f true ∨ s.deliver wk = u.enterHandler wk f) := by
  cases hw : s.wave wk with
  | none => left; simp [State.deliver, hw]
  | some w =>
      cases hf : (w.settle s.now).trap.pend with
      | none => left; simp [State.deliver, hw, hf]
      | some f =>
          simp only [State.deliver, hw, hf]
          split
          · exact .inl rfl
          split
          · exact .inr (.inl ⟨f, _, rfl⟩)
          · split
            · exact .inl rfl
            · refine .inr (.inr ⟨w, f, rfl, hf, ?_⟩)
              cases (s.setWave wk (w.settle s.now)).hwWrite wk f.slot f.pc f.mask 0x2400
                  ((s.setWave wk (w.settle s.now)).trapRecord (w.settle s.now) f) with
              | parked u => rfl
              | wait => rfl
              | code a b => rfl
              | done u =>
                  dsimp only
                  split
                  · exact .inr (.inl rfl)
                  · split
                    · split
                      · exact .inl rfl
                      · exact .inr (.inl rfl)
                    · exact .inr (.inr rfl)

/-- EVERYTHING THAT A RETURN CAN DO (R399): the fault action, where ACT is set; ILLEGAL_TARGET for a bad program counter;
or the restored wave. -/
theorem returnFrom_cases (s : State) (wk slot : Nat) (pc : DWord) (bs : List Byte) (w : Wave) (hw : s.wave wk = some w) :
    (∃ f, s.returnFrom wk slot pc bs = s.faultAction wk f true) ∨
    (∃ x, w.trap.inHandler = true ∧
      s.returnFrom wk slot pc bs = s.takeFault wk { code := fIllegalTarget, pc := pc, extra := x, slot := slot }) ∨
    ∃ f k, let w' := w.restore bs f
      s.returnFrom wk slot pc bs = match w'.slot k with
        | some p => (s.setWave wk w').trace wk 6 (w'.pathIx k) p.pc p.mask 0
        | none => s.setWave wk w' := by
  simp only [State.returnFrom, hw]
  split
  · exact .inl ⟨_, rfl⟩
  · split
    · cases h : w.trap.inHandler with
      | true => exact .inr (.inl ⟨_, rfl, by rw [if_pos rfl]⟩)
      | false => exact .inl ⟨_, by rw [if_neg (by decide)]⟩
    · exact .inr (.inr ⟨_, _, rfl⟩)

end Sys2Proof.Machine
end

