-- ==== Sys2Proof/Tests/Slice0.lean ====
section
/-! SUPPORT. Tests: ill-formed terms that WellFormed refuses, words of the spec's encoding tables, and for each statement
of Certificates/Slice0 states and operands that meet its hypotheses, each with the effect of the one step. The
expected values are worked by hand from the rule that each comment names. -/

namespace Sys2Proof.Machine.Test

set_option maxRecDepth 100000
set_option Elab.async false

/-! ## Small states -/

/-- The outcome is a next state that meets `P`. -/
def next (o : Host.Outcome State Fault Refusal) (P : State → Bool) : Bool :=
  match o with
  | .next t => P t
  | _ => false

/-- Form `i` issues in `s` with a context that meets `P`, and leaves a state that meets `Q`. -/
def runs (s : State) (i : Instr) (P : Ctx → Bool) (Q : State → Bool) : Bool :=
  match s.ctx i with
  | some c => c.gate == .go && P c && next (exec i s) Q
  | none => false

/-- Form `i` issues in `s` with a context that meets `P`. -/
def issues (s : State) (i : Instr) (P : Ctx → Bool) : Bool :=
  match s.ctx i with
  | some c => c.gate == .go && P c
  | none => false

/-- What a test of an issue shows of a statement's hypotheses. -/
theorem runs_spec {s : State} {i : Instr} {P : Ctx → Bool} {Q : State → Bool} (h : runs s i P Q = true) :
    ∃ c t, Issues s i c ∧ P c = true ∧ exec i s = .next t ∧ Q t = true := by
  unfold runs next at h
  split at h
  · simp only [Bool.and_eq_true, beq_iff_eq] at h
    obtain ⟨⟨hg, hp⟩, hn⟩ := h
    split at hn
    · exact ⟨_, _, ⟨‹_›, hg⟩, hp, ‹_›, hn⟩
    · cases hn
  · cases h

/-- A form that issues, with its context. -/
theorem issues_get {s : State} {i : Instr} (h : (s.ctx i).isSome = true) (hg : ((s.ctx i).get h).gate = .go) :
    Issues s i ((s.ctx i).get h) := ⟨(Option.some_get h).symm, hg⟩

/-- A wave of 32 lanes at its first instruction, about to issue from slot 0. -/
def s0 : State := { State.reset.probe 0 with agenda := [], cur := some (probeWave, 0) }

/-- `s0` with its wave changed. -/
def sw (f : Wave → Wave) : State := s0.modWave probeWave f

/-- The wave of a state. -/
def wv (t : State) : Wave := (t.wave probeWave).getD { launch := 0, team := 0, ix := 0, die := 0, core := 0, wslot := 0, live := 0 }

/-- The path of slot `k`. -/
def pth (t : State) (k : Nat) : Path := ((wv t).slot k).getD { pc := 0, mask := 0 }

/-- The code of the fault that the wave has taken. -/
def faulted (t : State) : Option Nat := (wv t).trap.pend.map (·.code)

/-- Control fields: guard p7, stall 2, no counter. -/
def h7 : Ctl := ⟨false, 7, 2, false, 7, 0⟩
/-- The same with counter c1. -/
def h1 : Ctl := ⟨false, 7, 2, false, 1, 0⟩
/-- Guard p0. -/
def hp : Ctl := ⟨false, 0, 2, false, 7, 0⟩

/-- v1 = 0xFFFF_FFF0 + lane, v2 = lane, s3 = 5, p0 the even lanes, p1 poisoned in lane 3 with origin 0x77. -/
def rg : Regs :=
  { v := ((List.range 32).map fun l => (32 + l, BitVec.ofNat 32 (0xFFFFFFF0 + l)))
      ++ ((List.range 31).map fun l => (65 + l, BitVec.ofNat 32 (l + 1)))
    s := [(3, 5)], p := [(0, 0x55555555), (1, 0xFF)], pP := [(1, 8)], pO := [(1, 0x77)] }

/-- The wave with these registers. -/
def s1 : State := sw fun w => { w with regs := rg }

/-- The address of the first instruction, and of the next. -/
def pc0 : DWord := 0x20000000

/-! ## Registers (statements IntegerFixedLatency to WaveForms, PredicateSeven) -/

-- R101: 0xFFFF_FFF0 + 5 = 0xFFFF_FFF5; lane 31's 0x0000_000F + 5 = 0x14; R56 holds the path for 2 cycles
theorem test_iadd : runs s1 (.iadd h7 .u32 false (.v 4) (.v 1) (.s 3)) Ctx.any (fun t =>
    (wv t).regs.vAt 4 0 == 0xFFFFFFF5 && (wv t).regs.vAt 4 31 == 0x14 && pth t 0 == { pc := pc0 + 1, mask := 0xFFFFFFFF, hold := some 2 }) = true := by
  decide
-- R101: saturated at 0xFFFF_FFFF as U32
theorem test_iadd_sat : runs s1 (.iadd h7 .u32 true (.v 4) (.v 1) (.imm 0x20)) Ctx.any (fun t =>
    (wv t).regs.vAt 4 0 == 0xFFFFFFFF && (wv t).regs.vAt 4 31 == 0x2F) = true := by decide +kernel
-- Table 7-1: a − b in the order written
theorem test_isub : runs s1 (.isub h7 .s32 false (.v 4) (.s 3) (.v 2)) Ctx.any (fun t =>
    (wv t).regs.vAt 4 7 == 0xFFFFFFFE) = true := by decide +kernel
-- Table 7-1: signed high product: −16 × 5 = −80, whose bits 63-32 are all ones
theorem test_imulh : runs s1 (.imulh h7 .s32 (.v 4) (.v 1) (.s 3)) Ctx.any (fun t =>
    (wv t).regs.vAt 4 0 == 0xFFFFFFFF && (wv t).regs.vAt 4 20 == 0) = true := by decide +kernel
-- Table 7-1: a shift by 32 and more gives 0, and SAR the sign
theorem test_shl : runs s1 (.shl h7 (.v 4) (.v 1) (.imm 32)) Ctx.any (fun t => (wv t).regs.vAt 4 0 == 0) = true := by decide +kernel
theorem test_sar : runs s1 (.sar h7 (.v 4) (.v 1) (.imm 40)) Ctx.any (fun t =>
    (wv t).regs.vAt 4 0 == 0xFFFFFFFF && (wv t).regs.vAt 4 16 == 0) = true := by decide +kernel
-- R101: bit a + 2 b + 4 c of the table: 0xCA is the choice of b or c by a's complement; here a = lane, b = 5, c = −16 + lane
theorem test_lut3 : runs s1 (.lut3 h7 0x96 (.v 4) (.v 2) (.s 3) (.v 1)) Ctx.any (fun t =>
    (wv t).regs.vAt 4 2 == 2 ^^^ 5 ^^^ 0xFFFFFFF2) = true := by decide +kernel
-- R102: insert the low 4 bits of a at bit 8 of c
theorem test_bfi : runs s1 (.bfi h7 (.v 4) (.s 3) (.imm 0x0408) (.v 1)) (fun _ => true) (fun t =>
    (wv t).regs.vAt 4 0 == 0xFFFFF5F0) = true := by decide +kernel
-- R102: a signed field of 4 bits at bit 0 of lane 8's 0xFFFF_FFF8
theorem test_bfe : runs s1 (.bfe h7 .s32 (.v 4) (.v 1) (.imm 0x0400)) Ctx.any (fun t =>
    (wv t).regs.vAt 4 8 == 0xFFFFFFF8 && (wv t).regs.vAt 4 3 == 3) = true := by decide +kernel
-- R105: 0xF0 as S8 is −16, as U8 240
theorem test_icvt : runs s1 (.icvt h7 .s8 .s32 (.v 4) (.v 1)) Ctx.any (fun t => (wv t).regs.vAt 4 0 == 0xFFFFFFF0) = true := by
  decide
-- R98: LEA adds 5 × 8 to the 64-bit s3 in a uniform destination
theorem test_lea : runs s1 (.lea h7 .u32 3 (.s 6) (.s 3) (.s 3)) Ctx.any (fun t => (wv t).regs.sAt 6 == 45) = true := by decide +kernel
-- R98: the carry from the low word reaches vD+1
theorem test_iadd64 : runs s1 (.iadd64 h7 (.v 4) (.v 1) (.imm 0x10)) Ctx.any (fun t =>
    (wv t).regs.vAt 4 0 == 0 && (wv t).regs.vAt 5 0 == 1 && (wv t).regs.vAt 5 20 == 20) = true := by decide +kernel
-- R103: condition and its complement; with pD = pE the value for pE; p7 is not written (R14)
theorem test_isetp : runs s1 (.isetp h7 .lt .u32 2 3 (.v 2) (.s 3)) (fun _ => true) (fun t =>
    tget (wv t).regs.p 2 0 == 0x1F && tget (wv t).regs.p 3 0 == 0xFFFFFFE0) = true := by decide +kernel
theorem test_isetp_p7 : runs s1 (.isetp h7 .lt .u32 7 3 (.v 2) (.s 3)) (fun _ => true) (fun t =>
    (wv t).regs.p == [(0, 0x55555555), (1, 0xFF), (3, 0xFFFFFFE0)]) = true := by decide +kernel
theorem test_isetp_pe7 : runs s1 (.isetp h7 .lt .u32 3 7 (.v 2) (.s 3)) (fun _ => true) (fun t =>
    (wv t).regs.p == [(0, 0x55555555), (1, 0xFF), (3, 0x1F)]) = true := by decide +kernel
-- R146: −0 and +0 are equal; a NaN clears both
theorem test_fsetp : runs (sw fun w => { w with regs := { v := [(32, 0x80000000), (33, 0x7FC00000)] } })
    (.fsetp h7 .eq 2 3 (.v 1) (.imm 0)) (fun _ => true) (fun t =>
      (wv t).regs.pAt 2 0 && !(wv t).regs.pAt 3 0 && !(wv t).regs.pAt 2 1 && !(wv t).regs.pAt 3 1) = true := by decide +kernel
-- R104: a predicate operand that is poisoned poisons the lane with its origin
theorem test_sel : runs s1 (.sel h7 (.v 4) (.s 3) (.v 2) ⟨1, false⟩) Ctx.any (fun t =>
    (wv t).regs.vAt 4 0 == 5 && (wv t).regs.vAt 4 9 == 9 && (wv t).regs.vBad 4 3 && (wv t).regs.vAt 4 3 == 0x77) = true := by
  decide
-- R104: MOVI.HI replaces bits 63-32
theorem test_movi_hi : runs s1 (.movi h7 true (.s 3) (.imm 9)) Ctx.any (fun t => (wv t).regs.sAt 3 == 0x900000005) = true := by
  decide
-- R96: a lane whose guard is false keeps its destination
theorem test_mov_guard : runs s1 (.mov hp (.v 2) (.s 3)) Ctx.any (fun t =>
    (wv t).regs.vAt 2 2 == 5 && (wv t).regs.vAt 2 3 == 3) = true := by decide +kernel
-- Table 9-2: 1.5 + 2.25 = 3.75, and R144: 1 ulp is rounded to even
theorem test_fadd : runs (sw fun w => { w with regs := { v := [(32, 0x3FC00000), (64, 0x40100000), (33, 0x4B800000), (65, 0x3F800000)] } })
    (.fadd h7 (.v 3) (.v 1) (.v 2)) Ctx.any (fun t =>
      (wv t).regs.vAt 3 0 == 0x40700000 && (wv t).regs.vAt 3 1 == 0x4B800000) = true := by decide +kernel
-- R151: .LO adds in the low half, and the high half is that of A: 1.0 + 2.0 = 3.0
theorem test_hadd2 : runs (sw fun w => { w with regs := { v := [(32, 0x3C003C00), (64, 0x40004000)] } })
    (.hadd2 h7 .lo (.v 3) (.v 1) (.v 2)) Ctx.any (fun t => (wv t).regs.vAt 3 0 == 0x3C004200) = true := by decide +kernel
-- R61, R106: the quotient is posted, and written at completion
theorem test_idiv : runs s1 (.idiv h1 .s32 (.v 4) (.v 1) (.s 3)) Ctx.any (fun t =>
    (wv t).ctr 1 == 1 && (wv t).regs.vAt 4 0 == 0 && (t.op 0).any fun o => o.finished && (o.written rg).vAt 4 0 == 0xFFFFFFFD) = true := by
  decide
theorem test_idiv_none : runs (sw fun w => { w with regs := { rg with p := [] } }) (.idiv hp .s32 (.v 4) (.v 1) (.s 3)) (fun c => !c.any)
    (fun t => t.ops.isEmpty && (wv t).regs.vAt 4 0 == 0) = true := by decide +kernel

/-- The state after a step. -/
def after (o : Host.Outcome State Fault Refusal) : State :=
  match o with
  | .next t => t
  | _ => s0

/-- An IDIV is pending with its result, on counter c1. -/
def sDiv : State := after (exec (.idiv h1 .s32 (.v 4) (.v 1) (.s 3)) s1)

-- R61: the result is written and the counter falls; R106: −16 / 5 = −3
theorem test_variable_result : ((sDiv.op 0).any (fun o => o.finished && !o.isMem && !o.isCmd) && (wv sDiv).span.ckpt.isNone
    && next (exec (.variableResultCompletion 0 false) sDiv) (fun t =>
      (wv t).regs.vAt 4 0 == 0xFFFFFFFD && (wv t).ctr 1 == 0 && t.ops.isEmpty)) = true := by decide +kernel
-- R89: an operation older than the span head is written into its checkpoint too
theorem test_variable_result_ckpt :
    (let s := sDiv.modWave probeWave fun w => { w with span := { ckpt := some { slot0 := none, slot1 := none, stack := [], ws := [], regs := rg, storeSum := 0, rlx := {}, gctx := {}, opsBefore := 1, pairs := [] } } }
     next (exec (.variableResultCompletion 0 false) s) fun t => (wv t).span.ckpt.any fun k => k.regs.vAt 4 0 == 0xFFFFFFFD) = true := by
  decide
-- R107: the table's bit a + 2 b + 4 c: 0x08 is a ∧ b ∧ ¬c; p1's poison in lane 3 follows
theorem test_plop : runs s1 (.plop h7 0x08 2 ⟨0, false⟩ ⟨1, false⟩ ⟨7, true⟩) (fun _ => true) (fun t =>
    tget (wv t).regs.p 2 0 == 0x55 && (wv t).regs.pBad 2 3) = true := by decide +kernel
-- Table 7-2: lane l receives bit l of the word
theorem test_pset : runs s1 (.pset h7 2 (.imm 0x80000003)) (fun _ => true) (fun t => tget (wv t).regs.p 2 0 == 0x80000003) = true := by
  decide
-- Table 7-2: p7 is bit 7
theorem test_p2v : runs s1 (.p2v h7 4) (fun _ => true) (fun t =>
    (wv t).regs.vAt 4 0 == 0x83 && (wv t).regs.vAt 4 9 == 0x80 && (wv t).regs.vBad 4 3) = true := by decide +kernel
-- Table 7-2: the predicates of the mask receive the bits of a; the others stay
theorem test_v2p : runs s1 (.v2p h7 (.v 2) (.imm 0x4)) (fun _ => true) (fun t =>
    tget (wv t).regs.p 2 0 == 0xF0F0F0F0 && tget (wv t).regs.p 0 0 == 0x55555555) = true := by decide +kernel
-- R117: the lowest executing lane
theorem test_elect : runs s1 (.elect hp (.s 5)) (fun _ => true) (fun t => (wv t).regs.sAt 5 == 0) = true := by decide +kernel
theorem test_elect_p : runs (sw fun w => { w with regs := { p := [(0, 0xC)] } }) (.elect hp (.p 2)) (fun _ => true) (fun t =>
    tget (wv t).regs.p 2 0 == 4) = true := by decide +kernel
-- R118: over the executing lanes alone
theorem test_vote : runs s1 (.vote hp .all (.p 2) ⟨0, false⟩) (fun _ => true) (fun t => tget (wv t).regs.p 2 0 == 0x55555555) = true := by
  decide
theorem test_vote_any : runs s1 (.vote hp .any (.p 2) ⟨0, true⟩) (fun _ => true) (fun t => tget (wv t).regs.p 2 0 == 0) = true := by
  decide
theorem test_vote_ballot : runs s1 (.vote h7 .ballot (.s 5) ⟨0, true⟩) (fun _ => true) (fun t => (wv t).regs.sAt 5 == 0xAAAAAAAA) = true := by
  decide
-- R119: .DOWN reads lane l + 5, and the own lane beyond 31
theorem test_shfl : runs s1 (.shfl h7 .down 4 (.v 2) (.s 3)) (fun _ => true) (fun t =>
    (wv t).regs.vAt 4 0 == 5 && (wv t).regs.vAt 4 26 == 31 && (wv t).regs.vAt 4 27 == 27) = true := by decide +kernel
-- R441: feature 0 is the generation
theorem test_feat : runs s1 (.feat h7 (.s 6) (.imm 0)) Ctx.any (fun t => (wv t).regs.sAt 6 == 2) = true := by decide +kernel

/-! ## Control and wave forms (WaitsAndHints to Loop) -/

-- R120: the path goes on under its stall count; a fixed class counts up and is to count down in the next cycle (R60)
theorem test_nop : runs s0 (.nop h1) (fun _ => true) (fun t =>
    (wv t).ctr 1 == 1 && (wv t).due == [(1, 1)] && (pth t 0).pc == pc0 + 1) = true := by decide +kernel
theorem test_yield : runs s0 (.yield h7) (fun _ => true) (fun t => (pth t 0).pc == pc0 + 1) = true := by decide +kernel
theorem test_ipref : runs s0 (.ipref h7 0x20000040 1) (fun _ => true) (fun t => (pth t 0).pc == pc0 + 1) = true := by decide +kernel
-- R121: WAITC does not issue while its counter is above zero
theorem test_waitc : runs s0 (.waitc h7 2) (fun c => c.w.waitOk 2 && c.w.haz.isEmpty) (fun t => (pth t 0).pc == pc0 + 1) = true := by
  decide
theorem test_waitc_holds : runs (sw fun w => { w with c := [(1, 1)] }) (.waitc h7 2) (fun c => !c.w.waitOk 2) (fun t =>
    (pth t 0).pc == pc0) = true := by decide +kernel
theorem test_sleep : runs s1 (.sleep h7 (.s 3)) Ctx.any (fun t => (pth t 0).wait == .sleep 5) = true := by decide +kernel
-- R108: bits 31-0 are the word's, bits 63-32 those of the branch; slot 1 of the line has its TGT bit set
theorem test_bra : runs s1 (.bra h7 0x20000004) (fun c => c.any && c.x == c.p.mask && c.w.region.isNone &&
    c.s.targetBad c.w c.p.pc 0x20000004 == none) (fun t => (pth t 0).pc == 0x20000004) = true := by decide +kernel
-- R25: the lanes of the guard are taken, on slot 1
theorem test_bra_diverges : runs s1 (.bra hp 0x20000004) (fun c => c.any && c.x != c.p.mask && (c.w.slot 1).isNone) (fun t =>
    (pth t 0).pc == pc0 + 1 && (pth t 0).mask == 0xAAAAAAAA && (pth t 0).depth == 1 && (pth t 0).res &&
    (pth t 1).pc == 0x20000004 && (pth t 1).mask == 0x55555555) = true := by decide +kernel
theorem test_bra_none : runs (sw fun w => { w with regs := {} }) (.bra hp 0x20000004) (fun c => !c.any) (fun t => (pth t 0).pc == pc0 + 1) = true := by
  decide
-- R54: bits 2-0 exceed 4
theorem test_bra_target : runs s1 (.bra h7 0x20000005) Ctx.any (fun t => faulted t == some fIllegalTarget) = true := by decide +kernel
-- R27: depth 63 does not diverge
theorem test_bra_deep : runs (sw fun w => { w with regs := rg, slot0 := w.slot0.map fun p => { p with depth := 63 } })
    (.bra hp 0x20000004) (fun c => c.any && c.x != c.p.mask && c.p.depth == 63) (fun t => faulted t == some fDivergeDepth) = true := by
  decide
-- R109: CALL writes the address of the instruction after it
theorem test_call : runs s1 (.call h7 9 0x20000004) Ctx.any (fun t => (wv t).regs.sAt 9 == pc0 + 1 && (pth t 0).pc == 0x20000004) = true := by
  decide
theorem test_ret : runs (sw fun w => { w with regs := { s := [(9, 0x20000003)] } }) (.ret h7 9) Ctx.any (fun t =>
    (pth t 0).pc == 0x20000003) = true := by decide +kernel
-- R26: the lanes of the lowest lane's target go on there, the others stay at the BRX in slot 1
theorem test_brx : runs (sw fun w => { w with regs := { v := (List.range 32).map fun l => (32 + l, if l < 4 then 0x20000002 else 0x20000003) } })
    (.brx h7 (.v 1)) (fun c => c.any && (c.w.slot 1).isNone) (fun t =>
      (pth t 0).pc == 0x20000002 && (pth t 0).mask == 0xF && (pth t 1).pc == pc0 && (pth t 1).mask == 0xFFFFFFF0) = true := by decide +kernel
theorem test_brx_uniform : runs (sw fun w => { w with regs := { s := [(3, 0x20000002)] } }) (.brx h7 (.s 3)) Ctx.any (fun t =>
    (pth t 0).pc == 0x20000002 && (wv t).slot1.isNone) = true := by decide +kernel
-- R29: at depth 0 nothing but the advance
theorem test_join0 : runs s0 (.join h7) (fun c => c.p.depth == 0) (fun t => (pth t 0).pc == pc0 + 1) = true := by decide +kernel
/-- Two siblings at depth 1; slot 1 waits at its JOIN or not. -/
def sPair (jw : Bool) : State := sw fun w => { w with
  regs := rg, slot0 := some { pc := pc0 + 1, mask := 0xAAAAAAAA, depth := 1, res := true }, slot1 := some { pc := pc0 + 3, mask := 0x55555555, depth := 1, jw := jw } }
theorem test_join_waits : runs (sPair false) (.join h7) (fun c => c.p.depth == 1) (fun t => (pth t 0).jw && (pth t 0).pc == pc0 + 1) = true := by
  decide
-- R29: merged after the JOIN of the resident path
theorem test_join_merges : runs (sPair true) (.join h7) (fun c => c.w.stack.isEmpty) (fun t =>
    (pth t 0).pc == pc0 + 2 && (pth t 0).mask == 0xFFFFFFFF && (pth t 0).depth == 0 && (wv t).slot1.isNone) = true := by decide +kernel
-- R32
theorem test_exit : runs s1 (.exit hp) (fun c => c.any && c.x != c.p.mask) (fun t =>
    (wv t).retired == 0x55555555 && (pth t 0).mask == 0xAAAAAAAA && (pth t 0).pc == pc0 + 1) = true := by decide +kernel
theorem test_exit_all : runs s0 (.exit h7) (fun c => c.any && c.x == c.p.mask && c.p.depth == 0) (fun t => (wv t).slot0.isNone) = true := by
  decide
theorem test_exit_none : runs s0 (.exit hp) (fun c => !c.any) (fun t => (pth t 0).pc == pc0 + 1) = true := by decide +kernel
/-- Virtual addresses 0 to 0x1F_FFFF are one writable page of normal memory at 0x20_0000, as die 0's cache has it. -/
def mapped (s : State) : State := s.modDie 0 fun d => { d with tlb := [⟨0, 0, 0, 21, 0x200103 ||| 2⟩] }

-- R113, R114: the working set and the checkpoint, whose image the stack block at 0 receives
theorem test_span : runs (mapped s1) (.span h7 ⟨1, 2⟩ ⟨0xFF, 0⟩ ⟨0xFF, 0⟩ ⟨0xFF, 0⟩)
    (fun c => c.any && !spanBad c.hdr.v [⟨1, 2⟩, ⟨0xFF, 0⟩, ⟨0xFF, 0⟩, ⟨0xFF, 0⟩] && c.w.preempt.isNone
      && (match c.s.hwWriteAll c.wk c.slot c.p.pc c.p.mask [(0x400, List.replicate 256 0)] with | .done _ => true | _ => false))
    (fun t => (wv t).ws == [⟨1, 2⟩] && (wv t).span.isOpen && (wv t).span.ckpt.any (fun k => k.regs == rg) &&
      t.l1Byte 0 0 0x200400 == 0xF0) = true := by decide +kernel
-- R113: a register in two ranges
theorem test_span_bad : runs s1 (.span h7 ⟨1, 2⟩ ⟨2, 3⟩ ⟨0xFF, 0⟩ ⟨0xFF, 0⟩) Ctx.any (fun t => faulted t == some fSpanRange) = true := by
  decide
theorem test_span_none : runs s0 (.span hp ⟨1, 2⟩ ⟨0xFF, 0⟩ ⟨0xFF, 0⟩ ⟨0xFF, 0⟩) (fun c => !c.any) (fun t => !(wv t).span.isOpen) = true := by
  decide
/-- `s1` with another word in the second slot of its line. -/
def withNext (word : BitVec 96) : State :=
  let s := (({ State.reset.probe 0 with agenda := [], cur := some (probeWave, 0) } : State).modWave probeWave fun w => { w with regs := rg })
  let line := encodeLine [0x00E01C00, word, 0x00E01C00, 0x00E01C00, 0x00E01C00] 31 0
  { s with mem := memWrite s.mem probePa line, icache := tput s.icache 0 [(probePa / 128, line ++ List.replicate 64 0)] }
/-- The word of IADD v4, v1, v2 in the register class: opcode 0x040, DST 4, A 1, B 2. -/
def iaddWord : BitVec 96 := 2 * 2 ^ 46 + 1 * 2 ^ 38 + 4 * 2 ^ 30 + 7 * 2 ^ 21 + 7 * 2 ^ 10 + 0x040
-- R115: the next instruction issues 5 times
theorem test_rep : runs (withNext iaddWord) (.rep h7 (.s 3)) (fun c => c.any && c.p.rep.isNone && (match c.s.decodeAt c.w c.p.succ.1 with
    | some (.instr j) => 0x40 ≤ j.opc && !j.endsSpan | _ => false)) (fun t => (pth t 0).rep == some 5 && (pth t 0).pc == pc0 + 1) = true := by
  decide
theorem test_rep_0 : runs (withNext iaddWord) (.rep h7 (.imm 0)) (fun c => c.any && c.p.loop.isNone) (fun t => (pth t 0).pc == pc0 + 2) = true := by
  decide
theorem test_rep_65536 : runs (withNext iaddWord) (.rep h7 (.imm 65536)) Ctx.any (fun t => faulted t == some fRepCount) = true := by decide +kernel
-- R116: the body is slots 1 to 3
theorem test_loop : runs s1 (.loop h7 (.reg 3) 0x20000003) (fun c => c.any && c.x == c.p.mask && c.loopSlot 0x20000003 == none) (fun t =>
    (pth t 0).pc == pc0 + 1 && (pth t 0).loop == some ⟨5, pc0 + 1, pc0 + 3⟩) = true := by decide +kernel
theorem test_loop_0 : runs s1 (.loop h7 (.imm 0) 0x20000003) (fun c => c.any && c.x == c.p.mask) (fun t =>
    (pth t 0).pc == pc0 + 4 && (pth t 0).loop.isNone) = true := by decide +kernel
theorem test_loop_none : runs s0 (.loop hp (.imm 3) 0x20000003) (fun c => !c.any) (fun t => (pth t 0).pc == pc0 + 4) = true := by decide +kernel
theorem test_loop_count : runs (sw fun w => { w with regs := { s := [(3, 65536)] } }) (.loop h7 (.reg 3) 0x20000003) Ctx.any (fun t =>
    faulted t == some fLoopFormat) = true := by decide +kernel

/-! ## Memory (MemoryIssue to BarrierWait) -/

/-- Virtual addresses from 0 on, one word per lane in v8: lane l names 0x1000 + 4 l; v9 is 0. -/
def sm : State := mapped (sw fun w => { w with regs := { v := (List.range 32).map fun l => (256 + l, BitVec.ofNat 32 (0x1000 + 4 * l)), s := [(3, 5), (4, 0x1000)], p := [(0, 0xF)] } })
/-- [v8:v9 + 0], and [s4 + 0]. -/
def mv : Addr := ⟨2, 8, 0, 0⟩
def ms : Addr := ⟨0, 4, 0, 0⟩

-- R163, R181: an access that is to be translated is posted; the path waits
theorem test_ld : runs sm (.ld h1 .default false .w32 2 mv) (fun c => c.any && c.accesses (.ld h1 .default false .w32 2 mv) == some (mv, 0xFFFFFFFF)) (fun t =>
    (t.op 0).any (fun o => o.todo == 0xFFFFFFFF && o.holding && !o.walked && o.addr 3 == 0x100C && o.seg 3 == [⟨.glob 0x100C, 4⟩]) &&
      (pth t 0).wait == .op 0 && (wv t).ctr 1 == 1) = true := by decide +kernel
theorem test_ld_none : runs (sw fun w => w) (.ld hp .default false .w32 2 mv) (fun c => !c.any) (fun t => t.ops.isEmpty) = true := by decide +kernel
-- Table 11-2: lanes 1 and 3 of a 64-bit access at 4 l are misaligned
theorem test_ld_misaligned : runs sm (.ld hp .default false .w64 2 mv) Ctx.any (fun t =>
    faulted t == some fMisaligned && (wv t).trap.pend.any (fun f => f.mask == 0xA && f.addr == 0x1004)) = true := by decide +kernel
-- R68: a poisoned address makes no access, and the destination receives its origin
theorem test_ld_poison : runs (sm.modWave probeWave fun w => { w with regs := { w.regs with vP := [(8, 4)] } }) (.ld h1 .default false .w32 2 mv) Ctx.any
    (fun t => (t.op 0).any fun o => o.todo == 0xFFFFFFFB && (o.written rg).vBad 2 2 && (o.written rg).vAt 2 2 == 0x1008) = true := by decide +kernel
theorem test_st : runs sm (.st h1 .default .w32 8 mv) Ctx.any (fun t => (t.op 0).any fun o => tget o.data 2 [] == [0x1008]) = true := by decide +kernel
theorem test_atom : runs sm (.atom h1 .add .default .die .w32 2 8 ms) Ctx.any (fun t => (t.op 0).any fun o => o.todo == 0xFFFFFFFF) = true := by decide +kernel
theorem test_enq : runs sm (.enq h1 2 8 ms) Ctx.any (fun t => (t.op 0).any fun o => (tget o.data 1 []).length == 4) = true := by decide +kernel

/-- The turn of a lane of a pending access has come; what `Turn` of the statements says. -/
def turn (s : State) (id l : Nat) (again tx : Bool) : Bool :=
  match s.op id with
  | none => false
  | some o =>
      match s.wave o.wave with
      | none => false
      | some w => decide (l < 32) && o.todo &&& ~~~ o.mask == 0 && o.todo.getLsbD l && o.walked && o.ready l
          && o.retry.getLsbD l == again && !s.heldBack id o l && !s.retried w.team (o.seg l) && o.steps.isEmpty
          && o.tx.getLsbD l == tx && (s.lostAt id o (s.lanePlaces w o l)).all (fun b => !b) && w.span.ckpt.isNone
          && s.ops.all (fun x => !x.2.isCmd || x.2.finished || s.asidOf x.2.wave != s.asidOf o.wave) && !s.behind id o

/-- What `turn` says is what the statements ask. -/
theorem turn_spec {s : State} {id l : Nat} {again tx : Bool} (h : turn s id l again tx = true) : ∃ o w, Turn s id o w l again tx := by
  unfold turn at h
  split at h
  · cases h
  · rename_i o ho
    split at h
    · cases h
    · rename_i w hw
      simp only [Bool.and_eq_true, decide_eq_true_eq, beq_iff_eq, Bool.not_eq_true', List.isEmpty_iff, List.all_eq_true, Option.isNone_iff_eq_none,
        Bool.or_eq_true, bne_iff_ne] at h
      obtain ⟨⟨⟨⟨⟨⟨⟨⟨⟨⟨⟨⟨⟨h1, h2⟩, h3⟩, h4⟩, h5⟩, h6⟩, h7⟩, h8⟩, h9⟩, h10⟩, h11⟩, h12⟩, h13⟩, h14⟩ := h
      refine ⟨o, w, ho, hw, h1, fun k hk => ?_, h3, h4, h5, h6, h7, h8, h9, h10, h11, (fun x hx hc hf => ?_),
        (fun k hk => by rw [h12] at hk; cases hk), h14⟩
      rotate_left
      · rcases h13 x hx with (h | h) | h
        · rw [hc] at h; cases h
        · rw [hf] at h; cases h
        · exact h
      have := congrArg (fun x => BitVec.getLsbD x k) h2
      by_cases h32 : k < 32
      · simpa [hk, h32] using this
      · rw [BitVec.getLsbD_of_ge _ _ (by omega)] at hk
        cases hk

/-- The walk of operation `id` is made. -/
def walk (id : Nat) (s : State) : State := after (exec (.translationWalk id) s)

/-- A load of v2 by every lane; the bytes of 0x1000 to 0x107F are 1, 2, 3 and so on. -/
def sLd : State := walk 0 (after (exec (.ld h1 .default true .w8 2 mv) { sm with mem := memWrite sm.mem 0x201000 ((List.range 128).map fun k => BitVec.ofNat 8 (k + 127)) }))

-- R184: byte 0x1004 holds 131, which is −125 as S8; lane 0 has not performed
theorem test_load_perform : (turn sLd 0 1 false false && (sLd.op 0).any (fun o => o.seg 1 == [⟨.phys 0x201004 0 0, 1⟩]) &&
    next (exec (.memoryAccessPerform 0 1) sLd) (fun t =>
      (wv t).regs.vAt 2 1 == 0xFFFFFF83 && (wv t).regs.vAt 2 0 == 0 && (wv t).ctr 1 == 1 && (t.op 0).any (fun o => o.todo == 0xFFFFFFFD))) = true := by
  decide
/-- The same load with lane 1 alone left, after a retry response. -/
def sLdRetry : State := { sLd with ops := sLd.ops.map fun x => (x.1, { x.2 with todo := 2, retry := 2 }) }
theorem test_load_again : (turn sLdRetry 0 1 true false &&
    next (exec (.pinnedRetryAccept 0 1) sLdRetry) (fun t => (wv t).regs.vAt 2 1 == 0xFFFFFF83 && (wv t).ctr 1 == 0 && t.ops.isEmpty)) = true := by
  decide
-- R158: LD.NF's predicate reads true in a lane that performs
theorem test_load_nf : (let s := walk 0 (after (exec (.ldNf h1 .default false .w32 2 3 mv) sm))
    turn s 0 5 false false && next (exec (.memoryAccessPerform 0 5) s) fun t => (wv t).regs.pAt 3 5 && (wv t).regs.vAt 2 5 == 0) = true := by
  decide
-- R185: the word of lane 2, in the core's copy of the line
def sSt : State := walk 0 (after (exec (.st h1 .default .w32 8 mv) sm))
theorem test_store_perform : (turn sSt 0 2 false false && (sSt.op 0).any (fun o => (o.bytes 2).length == 4 && o.writes.isEmpty) &&
    (tfind sSt.lineKey 0x4020).all (fun x => x.key == 0 && !x.mixed) && (tfind (sSt.core 0).l1 0x4020).isNone &&
    next (exec (.memoryAccessPerform 0 2) sSt) (fun t =>
      t.l1Byte 0 0 0x201008 == 0x08 && t.l1Byte 0 0 0x201009 == 0x10 && t.l1Byte 0 0 0x20100C == 0 && memGet t.mem 0x201008 == 0)) = true := by
  decide
-- R188: four lanes add to one word in lane order, at the L2 for .DIE
def sAtom (scope : Scope) : State := walk 0 (after (exec (.atom { hp with ctr := 1 } .add .default scope .w32 2 8 ms) sm))
theorem test_atomic_wide : (turn (sAtom .die) 0 0 false false && (sAtom .die).scopeNow (wv (sAtom .die)) .die == .die && ((sAtom .die).hdr (wv (sAtom .die))).rrmode == 0 &&
    next (exec (.atomicPerform 0 0) (sAtom .die)) (fun t =>
      (wv t).regs.vAt 2 0 == 0 && (wv t).regs.vAt 2 3 == 0x300C && memGet t.mem 0x201001 == 0x40 && memGet t.mem 0x201000 == 0x18 && t.ops.isEmpty)) = true := by
  decide
theorem test_atomic_narrow : (turn (sAtom .team) 0 0 false false && (sAtom .team).scopeNow (wv (sAtom .team)) .team == .team && (tfind (sAtom .team).lineKey 0x4020).all (fun x => x.key == 0 && !x.mixed) &&
    ((sAtom .team).core 0).l1.isEmpty &&
    next (exec (.atomicPerform 0 0) (sAtom .team)) (fun t => t.l1Byte 0 0 0x201001 == 0x40 && memGet t.mem 0x201001 == 0 && t.pins.length == 1)) = true := by
  decide
-- R188: at scratchpad; 0xFFFF_FF00_0000_0000 is its first byte
def sAtomScr : State :=
  walk 0 (after (exec (.atom { hp with ctr := 1 } .exch .default .wave .w32 2 8 ms) (sm.modWave probeWave fun w => { w with regs := { w.regs with s := [(4, 0xFFFFFF0000000000)] } })))
theorem test_atomic_scratch : (turn sAtomScr 0 0 false false && (sAtomScr.op 0).any (fun o => o.seg 0 == [⟨.scr probeTeam 0, 4⟩]) &&
    next (exec (.atomicPerform 0 0) sAtomScr) (fun t => (wv t).regs.vAt 2 1 == 0x1000 && (wv t).regs.vAt 2 3 == 0x1008 &&
      (t.team probeTeam).any fun x => memGet x.scr 0 == 0x0C)) = true := by decide +kernel
/-- A ring block at 0x1000 of elements of 4 bytes at 0x1800: HEAD 1, TAIL 3, capacity 4; elements 1 and 2 are 0x11 and 0x22. -/
def ringMem : Memory :=
  memWrite (memWrite sm.mem 0x201000 (leBytes 8 0x1800 ++ leBytes 8 1 ++ leBytes 8 3 ++ [2])) 0x201804 [0x11, 0, 0, 0, 0x22]
def sRing (i : Instr) : State := walk 0 (after (exec i { sm with mem := ringMem }))
-- R198: of four lanes two find an element
/-- Every command of the address space is complete to operation 0, and no pool is registered. -/
def quiet (s : State) : Bool := (s.op 0).any (fun o => (s.cmdPlaces 0 o false).isEmpty) && s.dies.all fun d => d.2.pool.isNone
/-- What RingPerform asks of the elements of a plan: each lies in one place of memory, and nothing holds or retries it. -/
def elems (s : State) (plan : List (Nat × DWord)) : Bool :=
  (s.op 0).any fun o => !s.writesLeft 0 o (s.boundLines (wv s) (o.bound 1 ((o.addr 0).setWidth 128))) && plan.all fun x =>
    match s.elemSegs (wv s) x.1 x.2 4 o.elemAcc with
    | .ok gs => !s.retried (wv s).team gs && !s.heldAt 0 o 0 gs && gs.all fun y => match y.place with | .phys .. => true | _ => false
    | .error _ => false
theorem test_deq : (let s := sRing (.deq { hp with ctr := 1 } 2 3 ms)
    turn s 0 0 false false && quiet s && elems s [(0, 0x1804), (1, 0x1808)] &&
    (s.ringBlock (wv s) ((s.op 0).map (·.seg 0)).get!).any (fun b => b.plan false [0, 1, 2, 3] == [(0, 0x1804), (1, 0x1808)]) &&
    next (exec (.atomicPerform 0 0) s) fun t => (wv t).regs.vAt 2 0 == 0x11 && (wv t).regs.vAt 2 1 == 0x22 && tget (wv t).regs.p 3 0 == 3 &&
      memGet t.mem 0x201008 == 3 && t.ops.isEmpty) = true := by decide +kernel
-- R198: of four lanes two find room; lane 1's word goes to element 4, at index 0
theorem test_enq_perform : (let s := sRing (.enq { hp with ctr := 1 } 3 8 ms)
    turn s 0 0 false false && quiet s && elems s [(0, 0x180C), (1, 0x1800)] && next (exec (.atomicPerform 0 0) s) fun t => tget (wv t).regs.p 3 0 == 3 && memGet t.mem 0x201010 == 5 &&
      memGet t.mem 0x201801 == 0x10 && memGet t.mem 0x201800 == 4) = true := by decide +kernel
/-- Lane 0 stores v8 in a transaction. -/
def sTx (doomed : Bool) : State :=
  walk 0 (after (exec (.st h1 .default .w32 8 mv) (sm.modWave probeWave fun w => { w with tx := [(0, { active := true, doomed := doomed })] })))
theorem test_tx_store : (turn (sTx false) 0 0 false true && next (exec (.memoryAccessPerform 0 0) (sTx false)) (fun t =>
    (tget (wv t).tx 0 {}).buf == [(0x201000, 0), (0x201001, 0x10), (0x201002, 0), (0x201003, 0)] && t.mem == sm.mem && t.cores == sm.cores)) = true := by
  decide
/-- The same access standing doomed, as a conflict may leave it. -/
def sTxDoomed (s : State) : State := s.modWave probeWave fun w => { w with tx := [(0, { active := true, doomed := true })] }
theorem test_tx_store_doomed : (turn (sTxDoomed (sTx false)) 0 0 false true && next (exec (.memoryAccessPerform 0 0) (sTxDoomed (sTx false))) (fun t =>
    t.mem == sm.mem && t.cores == sm.cores && (tget (wv t).tx 0 {}).buf.isEmpty)) = true := by decide +kernel
theorem test_tx_load_doomed : (let s := sTxDoomed (walk 0 (after (exec (.ld h1 .default false .w32 2 mv) (sm.modWave probeWave fun w => { w with tx := [(0, { active := true })] }))))
    turn s 0 0 false true && next (exec (.memoryAccessPerform 0 0) s) fun t => (wv t).regs.vAt 2 0 == 0 && (t.op 0).any fun o => o.todo == 0xFFFFFFFE) = true := by
  decide
-- R186: the line of each lane is in the core's L1
theorem test_pref : runs sm (.pref h1 .default mv) (fun c => c.prefLine mv 0 == some (0x4020, 0) && (c.s.core c.ck).l1.length + 32 ≤ (c.s.core c.ck).lineRoom) (fun t =>
    thas (t.core 0).l1 0x4020 && (wv t).due == [(1, 1)]) = true := by decide +kernel
theorem test_pref_none : runs (sm.modCore 0 fun c => { c with grans := (List.range 512).map fun n => (n, .drain) }) (.pref h1 .default mv) (fun c => (c.s.core c.ck).lineRoom == 0) (fun t =>
    (t.core 0).l1.isEmpty && (wv t).due == [(1, 1)]) = true := by decide +kernel
theorem test_pgreq : runs sm (.pgreq h1 mv) (fun c => (List.range 32).all fun l => !c.pgreqHeld mv l && (c.pgreqVa mv l).isNone) (fun t => (t.die 0).fq.isEmpty && (pth t 0).pc == pc0 + 1) = true := by
  decide
-- R159: one entry of kind 4 for the page of each lane
theorem test_pgreq_held : runs { sm.modDie 0 (fun d => { d with tlb := [] }) with pins := [(0, ⟨99, 0⟩)] } (.pgreq h1 mv) (fun c => c.x.getLsbD 0 && c.pgreqHeld mv 0) (fun t =>
    (pth t 0).blk == some 1) = true := by decide +kernel
theorem test_pgreq_absent : runs (sm.modDie 0 fun d => { d with tlb := [] }) (.pgreq h1 mv) (fun c => c.x == 0xFFFFFFFF && (lanes c.x).all (fun l => !c.pgreqHeld mv l && (c.pgreqVa mv l).isSome)) (fun t =>
    (t.die 0).fq.any fun e => e.kind == 4 && e.va.toNat / 4096 == 1 && e.mask == 0xFFFFFFFF) = true := by decide +kernel
-- R205
theorem test_fence : runs sm (.fence h1 .module) (fun c => (c.s.opsOf c.wk).isEmpty && c.w.haz.isEmpty) (fun t => (pth t 0).pc == pc0 + 1) = true := by
  decide
/-- The core holds one written line of normal memory. -/
def sDirty : State := sm.modCore 0 fun c => { c with l1 := [(0x4020, { data := [(4, 9)], dirty := [4] })] }
theorem test_fence_writes : runs sDirty (.fence h1 .module) (fun c => c.any && (c.s.opsOf c.wk).isEmpty && c.w.haz.isEmpty && c.s.pins.isEmpty) (fun t =>
    (t.core 0).l1.isEmpty && memGet t.mem 0x201004 == 9) = true := by decide +kernel
theorem test_fence_holds : runs { sLd with cur := some (probeWave, 0) } (.fence h1 .wave) (fun c => c.any && !(c.s.opsOf c.wk).isEmpty) (fun t =>
    (pth t 0).blk == some 1) = true := by decide +kernel
-- R191
theorem test_txbegin : runs s1 (.txbegin hp 0x20000004) (fun c => c.any && c.s.targetBad c.w c.p.pc 0x20000004 == none) (fun t =>
    (wv t).tx.length == 16 && (tget (wv t).tx 2 {}).active && (pth t 0).abortTo == 0x20000004) = true := by decide +kernel
theorem test_txbegin_held : runs { s1 with pins := [(0, ⟨99, 0⟩)] } (.txbegin h7 0x20000004) (fun c => c.any && c.s.targetBad c.w c.p.pc 0x20000004 == some (fRetry, 0x20000004)) (fun t =>
    (pth t 0).blk == some 1) = true := by decide +kernel
theorem test_txbegin_target : runs s1 (.txbegin h7 0x20000007) Ctx.any (fun t => faulted t == some fIllegalTarget) = true := by decide +kernel
/-- Lane 1 alone, in a transaction that has written 7 to 0x20_1000, or that is doomed. -/
def sTxLane (doomed : Bool) : State := sm.modWave probeWave fun w =>
  { w with tx := [(1, { active := true, doomed := doomed, lines := [0x4020], keys := [(0x4020, 0)], buf := [(0x201000, 7)], cause := if doomed then 4 else 0 })]
           slot0 := w.slot0.map fun p => { p with abortTo := 0x20000002, mask := 2 } }
theorem test_txend : runs (sTxLane false) (.txend h1) (fun c => c.any && (c.s.opsOf c.wk).isEmpty && c.s.pins.isEmpty && c.x == 2 && c.txLanes == 2 && c.doomed == 0 && c.txPlan.2.1 == [] && c.txPlan.2.2 == []) (fun t =>
    !(tget (wv t).tx 1 {}).active && memGet t.mem 0x201000 == 7 && (pth t 0).pc == pc0 + 1) = true := by decide +kernel
-- R194: a doomed lane fails, and the path goes on at the abort target
/-- A store of lane 0's transaction is pending, at a line pinned by another team or not. -/
def sTxHeld (retry : Mask) : State :=
  { (sTx false) with ops := (sTx false).ops.map fun x => (x.1, { x.2 with retry := retry }), cur := some (probeWave, 0) }
theorem test_txend_holds : (runs (sTxHeld 0) (.txend h7) (fun c => c.any && (c.s.opsOf c.wk).any fun o => o.2.tx &&& c.txLanes &&& o.2.todo != 0) (fun t => (pth t 0).blk == some 1) &&
    runs (sTxHeld 1) (.txend h7) (fun c => c.any && (c.s.opsOf c.wk).all fun o => o.2.retry &&& o.2.tx != 0) fun t => (pth t 0).blk == some 9) = true := by decide +kernel
theorem test_txend_fails : runs (sTxLane true) (.txend h1) (fun c => c.any && (c.s.opsOf c.wk).isEmpty && c.s.pins.isEmpty && c.x == 2 && c.txLanes == 2 && c.doomed == c.p.mask && !c.w.trace) (fun t =>
    !(tget (wv t).tx 1 {}).active && memGet t.mem 0x201000 == 0 && (pth t 0).pc == 0x20000002) = true := by decide +kernel
-- R25, R194: lane 0, outside a transaction, leaves for the abort target as a branch would
theorem test_txend_splits : runs ((sTxLane false).modWave probeWave fun w => { w with slot0 := w.slot0.map fun p => { p with mask := 3 } }) (.txend h1)
    (fun c => c.any && (c.s.opsOf c.wk).isEmpty && c.s.pins.isEmpty && c.s.targetBad c.w c.p.pc c.p.abortTo == none && c.doomed == 0 && (c.w.slot 1).isNone && !c.w.trace) (fun t =>
      (pth t 0).pc == pc0 + 1 && (pth t 0).mask == 2 && (pth t 1).pc == 0x20000002 && (pth t 1).mask == 1 && !(tget (wv t).tx 1 {}).active) = true := by decide +kernel
theorem test_txabort : runs (sTxLane false) (.txabort h1 (.imm 0x1C5)) (fun c => c.txLanes == 2) (fun t =>
    (tget (wv t).tx 1 {}).doomed && (tget (wv t).tx 1 {}).code == 0xC5 && (tget (wv t).tx 1 {}).cause == 1) = true := by decide +kernel
-- Table 12-7: IN, DOOM, CODE 0 and CAUSE 4
theorem test_txstat : runs (sTxLane true) (.txstat h1 2) Ctx.any (fun t => (t.op 0).any fun o => (o.written rg).vAt 2 1 == 0xC0000004) = true := by decide +kernel
-- R201: a flag object at s3 over 32 bytes at s4 = 0x1000
theorem test_bind : runs (sm.modWave probeWave fun w => { w with regs := { w.regs with s := [(3, 8), (4, 0x1000)] } }) (.bind h1 .flag 3 4 16 (.imm 1))
    (fun c => c.any && bindRangeOk 0x1010 32) (fun t => (t.team probeTeam).any fun x => x.binds == [⟨2, 8, 0x1010, 32⟩]) = true := by decide +kernel
theorem test_unbind : runs (after (exec (.bind h1 .bar 3 4 16 (.imm 1)) sm) |> fun s => { s with cur := some (probeWave, 0) }) (.unbind h1 .bar 3 4 16 (.imm 1)) Ctx.any
    (fun t => (t.team probeTeam).any fun x => x.binds.isEmpty) = true := by decide +kernel
theorem test_bind_range : runs sm (.bind h1 .flag 3 4 16 (.imm 1)) Ctx.any (fun t => faulted t == some fBindRange) = true := by decide +kernel
theorem test_bind_full : runs { sm with teams := sm.teams.map fun x => (x.1, { x.2 with binds := List.replicate 64 ⟨0, 0, 0, 16⟩ }) } (.bind h1 .bar 3 4 16 (.imm 1)) Ctx.any
    (fun t => faulted t == some fBindFull) = true := by decide +kernel
/-- A team of two waves whose barrier 3 is `x`; a stage without scratchpad. -/
def sBar (x : Barrier) : State := { sm with teams := sm.teams.map fun t => (t.1, { t.2 with waves := 2, barriers := [(3, x)] }) }
def bar3 (t : State) : Barrier := t.barrier probeTeam 3
-- R207
theorem test_barinit : runs (sBar {}) (.barinit h1 3 (.imm 2)) (fun c => c.any && 3 < c.team.bars) (fun t => bar3 t == { enrolled := [0, 1] }) = true := by decide +kernel
/-- The team's second wave waits at the barrier. -/
def sBarW (x : Barrier) : State :=
  let s := after (exec (.barw h1 3 4) (sBar x))
  { s with cur := some (probeWave, 0) }
theorem test_barinit_wakes : runs (sBarW { enrolled := [0, 1] }) (.barinit h7 3 (.reg 5)) (fun c => c.any && c.s.ops.any fun o => o.2.barOn c.w.team 3 && !c.s.behind o.1 o.2) (fun t =>
    bar3 t == {} && t.ops.isEmpty) = true := by decide +kernel
theorem test_barinit_range : runs (sBar {}) (.barinit h1 3 (.imm 3)) Ctx.any (fun t => faulted t == some fBarRange) = true := by decide +kernel
theorem test_bar_range : runs (sBar {}) (.bara { h1 with pix := 7 } 512) (fun c => c.any && c.team.bars ≤ 512) (fun t => faulted t == some fBarRange) = true := by decide +kernel
-- R209: arrived {1}, phase 4, two enrolled waves, the pending flag
theorem test_barq : runs (sBar { enrolled := [0, 1], phase := 4, arrived := [1], pending := [(0, 3)] }) (.barq h1 3 6) Ctx.any (fun t =>
    (wv t).regs.sAt 6 == 0x0000000200040202) = true := by decide +kernel
-- R208
theorem test_bara : runs (sBar { enrolled := [0, 1] }) (.bara h1 3) (fun c => !c.barHeld 3 && !c.barBroke) (fun t =>
    { bar3 t with coming := [] } == { enrolled := [0, 1], arrived := [0], pending := [(0, 0)] }) = true := by decide +kernel
theorem test_bara_last : runs (sBar { enrolled := [0, 1], arrived := [1] }) (.bara h1 3) (fun c => c.p.wait == .none && c.team.exited.isEmpty && !c.barHeld 3 && !c.barBroke && c.s.ops.isEmpty) (fun t =>
    { bar3 t with coming := [], passed := [] } == { enrolled := [0, 1], phase := 1, pending := [(0, 0)] }) = true := by decide +kernel
theorem test_bara_again : runs (sBar { enrolled := [0, 1], arrived := [0] }) (.bara h1 3) (fun c => !c.barHeld 3 && !c.barBroke) (fun t =>
    (pth t 0).wait == .op 0 && (t.op 0).any fun o => o.u == [0, 1]) = true := by decide +kernel
theorem test_bara_broken : runs (sBar { enrolled := [0, 1], broken := true }) (.bara h1 3) Ctx.any (fun t => (pth t 0).pc == pc0 + 1 && t.ops.isEmpty) = true := by decide +kernel
theorem test_barw : runs (sBar { enrolled := [0, 1], pending := [(0, 2)], phase := 3 }) (.barw h1 3 4) (fun c => c.any && c.w.barDone.isNone) (fun t =>
    (t.op 0).any (fun o => o.finished && !(o.written rg).pAt 4 0) && (bar3 t).pending.isEmpty) = true := by decide +kernel
theorem test_barw_waits : runs (sBar { enrolled := [0, 1], pending := [(0, 2)], phase := 2 }) (.barw h1 3 4) Ctx.any (fun t =>
    (pth t 0).wait == .op 0 && (t.op 0).any fun o => o.u == [2, 0]) = true := by decide +kernel
theorem test_barw_apart : runs (sBar { enrolled := [1] }) (.barw h1 3 4) (fun c => !(c.s.barrier c.w.team 3).allExited c.team.exited) (fun t =>
    (pth t 0).wait == .op 0 && (bar3 t).arrived.isEmpty) = true := by decide +kernel
theorem test_barw_exited : runs (let s := sBar { enrolled := [1] }; { s with teams := s.teams.map fun t => (t.1, { t.2 with exited := [1] }) }) (.barw h1 3 4) (fun c => (c.s.barrier c.w.team 3).allExited c.team.exited) (fun t => (t.op 0).any (·.finished)) = true := by decide +kernel
theorem test_baraw : runs (sBar { enrolled := [0, 1] }) (.baraw h1 3 4) (fun c => !c.barHeld 3) (fun t =>
    (pth t 0).wait == .op 0 && (bar3 t).arrived == [0]) = true := by decide +kernel
theorem test_baraw_broken : runs (sBar { enrolled := [0], broken := true }) (.baraw h1 3 4) Ctx.any (fun t =>
    (t.op 0).any fun o => (o.written rg).pAt 4 0) = true := by decide +kernel
-- R203, R208: a store to scratchpad holds the arrival
def sHeld (i : Instr) : State :=
  { (after (exec i { (sBar { enrolled := [0, 1] }).modWave probeWave fun w => { w with regs := { w.regs with s := [(4, 0xFFFFFF0000000000)] } } with cur := some (probeWave, 0) })) with cur := some (probeWave, 0) }
theorem test_bara_held : runs (sHeld (.st h1 .default .w32 8 ms)) (.bara h7 3) (fun c => c.barHeld 3) (fun t => (pth t 0).blk == some 1) = true := by decide +kernel
theorem test_baraw_held : runs (sHeld (.st h1 .default .w32 8 ms)) (.baraw h7 3 4) (fun c => c.barHeld 3) (fun t => (pth t 0).blk == some 1) = true := by decide +kernel

/-! ## Engines (CommandIssue to Accumulators) -/

/-- t1 is 2 rows of 4 FP32 at 0x1000, t2 the same at 0x1400, t3 a filter of FP32, t5 a matrix of I8 rows of 128; acc0 is the
team's, acc1 another team's. -/
def tensor0 (fmt cols : Nat) (base : DWord) : Tensor := ⟨fmt, 2, 0, false, [cols, 2, 1, 1, 1], [cols * 4, 0, 0, 0], 0, base⟩
def sEng : State :=
  let s := { sm with tensors := [(1, tensor0 0 4 0x1000), (2, tensor0 0 4 0x1400), (3, { tensor0 0 4 0x1800 with filt := true }), (5, { tensor0 6 128 0xFFFFFF0000000000 with dims := [128, 128, 1, 1, 1], strides := [128, 0, 0, 0] })] }
  s.modCore 0 fun c => { c with accs := [(0, { holder := some probeTeam }), (1, { holder := some 77 })], wslots := [(2, { tag := 4 })] }
/-- `sEng` with more uniform registers. -/
def se (l : List (Nat × DWord)) : State := sEng.modWave probeWave fun w => { w with regs := { w.regs with s := l } }
/-- A plan of `i` exists and no row of Table 11-2 stops it. -/
def planned (i : Instr) (c : Ctx) : Bool :=
  c.any && match commandPlan c i with
    | some p => !p.checked || (p.extra.isEmpty && (c.engCodes .engineLoad p.src).isEmpty && (c.engCodes .engineStore p.dest).isEmpty)
    | none => false
/-- The operation posted by a command: pending, not finished. -/
def posted (t : State) : Bool := (t.op 0).any fun o => o.isCmd && !o.finished && o.wave == probeWave

theorem test_cpy : runs sEng (.cpy h1 none 2 1) (planned (.cpy h1 none 2 1)) posted = true := by decide +kernel
theorem test_cpyr : runs (se [(4, 0x1C00)]) (.cpyr h1 none 2 1 4) (planned (.cpyr h1 none 2 1 4)) posted = true := by decide +kernel
theorem test_qnt : runs { sEng with tensors := [(1, tensor0 0 4 0x1000), (2, { tensor0 3 4 0x1400 with sgran := 1, sbase := 0x1500 })] } (.qnt h1 none 2 1)
    (planned (.qnt h1 none 2 1)) posted = true := by decide +kernel
theorem test_weirget : runs (se [(4, 0x4000), (6, 0x100000000)]) (.weirget h1 none 4 3 6) (planned (.weirget h1 none 4 3 6)) posted = true := by decide +kernel
theorem test_mmai : runs (sEng.modWave probeWave fun w => { w with slot0 := w.slot0.map fun p => { p with mask := 1 } }) (.mmai h1 none 0 5 2) (planned (.mmai h1 none 0 5 2)) posted = true := by decide +kernel
theorem test_mzero : runs sEng (.mzero h1 none 0) (planned (.mzero h1 none 0)) posted = true := by decide +kernel
theorem test_mst : runs (se [(4, 0xFFFFFF0000000000)])
    (.mst h1 none 0 4 0) (planned (.mst h1 none 0 4 0)) posted = true := by decide +kernel
theorem test_wbld : runs sEng (.wbld h1 none .i8 2 4 0) (planned (.wbld h1 none .i8 2 4 0)) posted = true := by decide +kernel
theorem test_cmd_undefined : runs sEng (.cpy h1 none 2 7) Ctx.any (fun t => faulted t == some fTensorUndef) = true := by decide +kernel
theorem test_cmd_acc_state : runs sEng (.mzero h1 none 1) (fun c => c.any && !c.holds 1) (fun t => faulted t == some fAccState) = true := by decide +kernel
theorem test_cmd_none : runs sEng (.mzero { hp with pix := 3 } none 0) (fun c => !c.any) (fun t => t.ops.isEmpty) = true := by decide +kernel

/-- The turn of a command has come, as CommandCompletion asks. -/
def cmdTurn (s : State) (id : Nat) : Bool :=
  match s.op id with
  | none => false
  | some o => match s.wave o.wave with
    | none => false
    | some w => o.isCmd && !o.finished && o.writes.isEmpty && w.span.ckpt.isNone && s.cmdReady id o w && s.defects.isEmpty && o.dest.isEmpty && !s.behind id o
        && (s.core w.ck).accs.all (fun a => !a.2.freeing) && (evOf o.instr).isNone
/-- acc0 holds 9 in the first cell of its rows 0 and 4; MZERO by lane 0 alone is pending. -/
def sMzero : State :=
  let s := sEng.modCore 0 fun c => { c with accs := [(0, { holder := some probeTeam, cells := [(0, 9), (512, 9)] })] }
  after (exec (.mzero h1 none 0) (s.modWave probeWave fun w => { w with slot0 := w.slot0.map fun p => { p with mask := 1 } }))
-- R267: lane 0's four rows
theorem test_mzero_done : (cmdTurn sMzero 0 && next (exec (.commandCompletion 0) sMzero) fun t =>
    (t.acc 0 0).cell 0 0 == 0 && (t.acc 0 0).cell 4 0 == 9 && (wv t).ctr 1 == 0) = true := by decide +kernel
theorem test_mld_waits : cmdTurn (after (exec (.mld h1 none 0 4 0) (se [(4, 0xFFFFFF0000000000)]))) 0 = true := by decide +kernel
theorem test_mmai_waits : (let s := after (exec (.mmai h1 none 0 5 2) (sEng.modWave probeWave fun w => { w with slot0 := w.slot0.map fun p => { p with mask := 1 } }))
    cmdTurn s 0 && (s.op 0).any fun o => o.tens.length == 1) = true := by decide +kernel
theorem test_wbld_waits : (let s := after (exec (.wbld h1 none .i8 2 4 0) sEng)
    cmdTurn s 0 && (s.op 0).any fun o => (s.failLines (wv s) .engineLoad o.src).isEmpty) = true := by decide +kernel

/-- A record of Table 17-1 at 0x1000: FP32, one dimension of 8 elements at 0x2000. -/
def recordMem : Memory := memWrite sm.mem 0x201000 (leBytes 8 0x2000 ++ leBytes 8 0 ++ leBytes 4 8 ++ leBytes 4 1 ++ leBytes 4 1 ++ leBytes 4 1 ++ leBytes 4 1 ++
  leBytes 24 0 ++ leBytes 4 0x02000000)
def sTdef (m : Memory) : State := walk 0 (after (exec (.tdef h1 9 4 0) { sm with mem := m }))
theorem test_tdef : runs sm (.tdef h1 9 4 0) (fun c => c.any && !(c.rdS 4).pois && (match c.s.aperture c.w 0 0x1000 64 .load with | .ok _ => true | _ => false)) (fun t =>
    (pth t 0).wait == .op 0 && (t.op 0).any fun o => o.addr 0 == 0x1000 && !o.walked) = true := by decide +kernel
theorem test_tdef_misaligned : runs sm (.tdef h1 9 4 4) Ctx.any (fun t => faulted t == some fMisaligned) = true := by decide +kernel
theorem test_tdef_poison : runs (sm.modWave probeWave fun w => { w with regs := { w.regs with sP := 16 } }) (.tdef h1 1 4 0) (fun c => (c.rdS 4).pois) (fun t =>
    t.tensors.isEmpty && (pth t 0).pc == pc0 + 1) = true := by decide +kernel
/-- What TensorIdentifiers asks of TDEF_COMPLETION. -/
def tdefTurn (s : State) : Bool :=
  quiet s && (s.op 0).any fun o => let l := lowest o.todo
    o.walked && o.ready l && !s.heldBack 0 o l && !s.retried (wv s).team (o.seg l) && o.tens.isEmpty && o.writes.isEmpty && !s.behind 0 o &&
    (wv s).span.ckpt.isNone && (wv s).region.isNone && (wv s).trap.pend.isNone && s.ops.length == 1 && o.holding
/-- A launch of the same address space is resident on die 1 too. -/
def sTdef2 : State := (sTdef recordMem).modLaunch probeLaunch fun x => { x with d := 2, dieList := [0, 1] }
theorem test_tdef_spreads : (tdefTurn sTdef2 && next (exec (.tdefCompletion 0) sTdef2) fun t => (t.tensorAt 0 0 9).isSome && (t.tensorAt 1 0 9).isNone &&
    (pth t 0).pc == pc0 + 1 && (wv t).ctr 1 == 1 && (t.op 0).any (fun o => o.u == [1] && o.tens.length == 1) &&
    next (exec (.tdefCompletion 0) t) fun u => u.tensorAt 1 0 9 == t.tensorAt 0 0 9 && u.ops.isEmpty && (wv u).ctr 1 == 0) = true := by decide +kernel
theorem test_tdef_done : (tdefTurn (sTdef recordMem) && next (exec (.tdefCompletion 0) (sTdef recordMem)) fun t => (tfind t.tensors 9).any (fun x =>
    x == ⟨0, 1, 0, false, [8, 1, 1, 1, 1], [0, 0, 0, 0], 0, 0x2000⟩) && (pth t 0).pc == pc0 + 1) = true := by decide +kernel
theorem test_tdef_format : (next (exec (.tdefCompletion 0) (sTdef [])) fun t => t.tensors.isEmpty) = true := by decide +kernel
theorem test_tdef_fault : (let s := { sTdef sm.mem with mem := memSet (sTdef sm.mem).mem 0x20103F 0x80 }
    tdefTurn s && next (exec (.tdefCompletion 0) s) fun t => faulted t == some fTensorFormat && t.tensors.isEmpty) = true := by decide +kernel
-- R263: selector 0 is BASE, in a pair of registers
theorem test_tqry : runs sEng (.tqry h1 (.v 2) 2 0) Ctx.any (fun t => (t.op 0).any fun o => (o.written rg).vAt 2 0 == 0x1400 && (o.written rg).vAt 3 0 == 0) = true := by decide +kernel

/-- The team's event queue holds one record. -/
def sEv (l : List HWord) : State := { sm with teams := sm.teams.map fun x => (x.1, { x.2 with events := l, evReady := l.length }) }
theorem test_evpop : runs (sEv [0x4000000030000000200000001]) (.evpop h1 2 3) Ctx.any (fun t =>
    (t.op 0).any (fun o => (o.written rg).vAt 2 5 == 1 && (o.written rg).vAt 5 5 == 4 && (o.written rg).pAt 3 5) &&
    (t.team probeTeam).any fun x => x.events.isEmpty) = true := by decide +kernel
theorem test_evpop_empty : runs (sEv []) (.evpop h1 2 3) Ctx.any (fun t => (t.op 0).any fun o => !(o.written rg).pAt 3 5 && (o.written rg).vAt 2 0 == 0) = true := by decide +kernel
-- R275: a record that came in this cycle is not taken, and none after a wave of a higher index has taken one
theorem test_evpop_new : runs { sEv [1] with teams := (sEv [1]).teams.map fun x => (x.1, { x.2 with evReady := 0 }) } (.evpop h1 2 3) Ctx.any (fun t =>
    (t.op 0).any (fun o => !(o.written rg).pAt 3 5) && (t.team probeTeam).any fun x => x.events == [1]) = true := by decide +kernel
theorem test_evwait_late : runs { sEv [1] with teams := (sEv [1]).teams.map fun x => (x.1, { x.2 with evLast := some 1 }) } (.evwait h1 2)
    (fun c => c.any && c.team.evLast == some 1 && c.w.ix == 0) (fun t => (pth t 0).blk == some 0) = true := by decide +kernel
theorem test_evwait : runs (sEv []) (.evwait h1 2) Ctx.any (fun t => (pth t 0).blk == some 14) = true := by decide +kernel

/-- A task form pending in `s`, with the entry 5 of die 0's table. -/
def sTask (i : Instr) (l : List (Nat × DWord)) (x : Task) : State :=
  (after (exec i (sm.modWave probeWave fun w => { w with regs := { w.regs with s := l } }))).modDie 0 fun d => { d with tasks := [(5, x)] }
def task5 (t : State) : Task := t.task 0 5
theorem test_tkdec_issue : runs (sw fun w => { w with regs := { s := [(4, 5)] } }) (.tkdec h1 4 1) Ctx.any (fun t =>
    (pth t 0).wait == .op 0 && (t.op 0).any fun o => o.u == [0, 5]) = true := by decide +kernel
-- Table 17-7: COUNT 2, type 1, priority 3 at entry 5
theorem test_tkdef : (next (exec (.variableResultCompletion 0 false) (sTask (.tkdef h1 4) [(4, 0x340008005), (5, 0x99), (6, 0xFFFFFFFFFFFFFF)] {})) fun t =>
    task5 t == { arg := 0x99, count := 2, ty := 1, prio := 3, st := 1 } && (pth t 0).pc == pc0 + 1) = true := by decide +kernel
theorem test_tkdef_bits : (next (exec (.variableResultCompletion 0 false) (sTask (.tkdef h1 4) [(4, 0x740008005)] {})) fun t => faulted t == some fTaskState) = true := by decide +kernel
theorem test_tkdef_busy : (next (exec (.variableResultCompletion 0 false) (sTask (.tkdef h1 4) [(4, 5), (6, 0xFFFFFFFFFFFFFF)] { st := 1 })) fun t =>
    faulted t == some fTaskState && task5 t == { st := 1 }) = true := by decide +kernel
theorem test_tkdec : (next (exec (.variableResultCompletion 0 false) (sTask (.tkdec h1 4 1) [(4, 5)] { st := 1, count := 1 })) fun t => task5 t == { st := 2 }) = true := by decide +kernel
theorem test_tkdec_ready : (next (exec (.variableResultCompletion 0 false) (sTask (.tkdec h1 4 1) [(4, 5)] { st := 2 })) fun t => task5 t == { st := 2, under := true }) = true := by decide +kernel
theorem test_tkdec_zero : (next (exec (.variableResultCompletion 0 false) (sTask (.tkdec h1 4 0) [(4, 5)] { st := 1, count := 3 })) fun t => task5 t == { st := 1, count := 3 }) = true := by decide +kernel
theorem test_tkdec_free : (next (exec (.variableResultCompletion 0 false) (sTask (.tkdec h1 4 1) [(4, 5)] {})) fun t => faulted t == some fTaskState) = true := by decide +kernel
theorem test_tkdec_asid : (next (exec (.variableResultCompletion 0 false) (sTask (.tkdec h1 4 1) [(4, 5)] { st := 1, asid := 2 })) fun t =>
    (wv t).trap.pend.any fun f => f.extra.toNat / 2 ^ 57 == 2) = true := by decide +kernel
theorem test_tkdone : (next (exec (.variableResultCompletion 0 false) ((sTask (.tkdone h1 4) [(4, 5)] {}).modDie 0 fun d =>
    { d with tasks := [(5, { st := 3, succ := [7, 0x3FFF, 0x3FFF, 0x3FFF] }), (7, { st := 1, count := 1 })] })) fun t =>
      (task5 t).st == 0 && (t.task 0 7).st == 1 && (t.op 0).any fun o => o.u == [0, 5, 7]) = true := by decide +kernel
theorem test_tkdone_last : (next (exec (.variableResultCompletion 0 false) (sTask (.tkdone h1 4) [(4, 5)] { st := 3 })) fun t => (task5 t).st == 0 && (t.op 0).isNone) = true := by decide +kernel
-- R254: a successor of its own step
theorem test_tkdone_succ : (let s := (sTask (.tkdone h1 4) [(4, 5)] {}).modDie 0 fun d => { d with tasks := [(7, { st := 1, count := 1 })] }
    let s := { s with ops := s.ops.map fun x => (x.1, { x.2 with u := [0, 5, 7] }) }
    next (exec (.variableResultCompletion 0 false) s) fun t => (t.task 0 7).st == 2 && (t.op 0).isNone && (pth t 0).pc == pc0 + 1) = true := by decide +kernel
theorem test_tkdone_state : (next (exec (.variableResultCompletion 0 false) (sTask (.tkdone h1 4) [(4, 5)] { st := 2 })) fun t => faulted t == some fTaskState) = true := by decide +kernel
theorem test_tkpull : (next (exec (.variableResultCompletion 0 false) (sTask (.tkpull h1 true 6 3 2) [] { st := 2, ty := 1, prio := 1, arg := 0x55 })) fun t =>
    (task5 t).st == 3 && (wv t).regs.sAt 6 == 0x14005 && (wv t).regs.sAt 7 == 0x55 && (wv t).regs.pAt 3 9) = true := by decide +kernel
theorem test_tkpull_waits : (let s := sTask (.tkpull h1 true 6 3 1) [] { st := 2, ty := 1 }
    next (exec (.variableResultCompletion 0 false) s) fun t => t == s) = true := by decide +kernel
theorem test_tkpull_none : (next (exec (.variableResultCompletion 0 false) (sTask (.tkpull h1 false 6 3 1) [] { st := 2, ty := 1 })) fun t =>
    !(wv t).regs.pAt 3 9 && (pth t 0).pc == pc0 + 1) = true := by decide +kernel
-- R244, R264
theorem test_accalloc : runs sEng (.accalloc h1 false 3 2) (fun c => c.any && !c.holds 2) (fun t =>
    (t.acc 0 2).holder == some probeTeam && t.ops.any fun o => o.2.finished && (o.2.written rg).pAt 3 0) = true := by decide +kernel
theorem test_accalloc_held : runs sEng (.accalloc h1 false 3 0) (fun c => c.holds 0) (fun t => t.ops.any fun o => (o.2.written rg).pAt 3 0) = true := by decide +kernel
theorem test_accalloc_try : runs sEng (.accalloc h1 true 3 1) (fun c => !c.holds 1) (fun t => t.ops.any fun o => o.2.finished && !(o.2.written rg).pAt 3 0) = true := by decide +kernel
theorem test_accalloc_blocks : runs sEng (.accalloc h1 false 3 1) (fun c => (c.s.core 0).accs.all (fun a => a.2.waiters.isEmpty) && c.wk / 32 == c.w.team) (fun t =>
    (t.acc 0 1).waiters == [0] && t.ops.any fun o => !o.2.finished) = true := by decide +kernel
theorem test_accfree : runs sEng (.accfree h1 0) (fun c => c.holds 0 && c.s.ops.isEmpty && (c.s.acc c.ck 0).waiters.isEmpty) (fun t => (t.acc 0 0).holder == none) = true := by decide +kernel
theorem test_accfree_busy : runs { (after (exec (.mzero h1 none 0) sEng)) with cur := some (probeWave, 0) } (.accfree h7 0) (fun c => c.holds 0 && c.s.ops.any fun x => x.2.wave / 32 == c.w.team && x.2.namesAcc 0 && !x.2.finished) (fun t =>
    (t.acc 0 0).freeing) = true := by decide +kernel
theorem test_accfree_state : runs sEng (.accfree h1 1) Ctx.any (fun t => faulted t == some fAccState) = true := by decide +kernel
theorem test_oprfence : runs sEng (.oprfence h1) (fun c => c.any && c.s.ops.isEmpty) (fun t => (pth t 0).pc == pc0 + 1) = true := by decide +kernel
theorem test_oprfence_holds : runs { (after (exec (.mzero h1 none 0) sEng)) with cur := some (probeWave, 0), cycleOp := 1 } (.oprfence h7) (fun c => c.s.ops.any fun x => x.1 < c.p.fence.getD c.s.cycleOp && c.oprWrite x.2) (fun t =>
    (pth t 0).blk == some 11 && (pth t 0).fence == some 1) = true := by decide +kernel

/-! ## Relaxation (RelaxConfigure to RelaxEnd) -/

/-- A configuration: v1 is the state, 64 steps for 32 threads, limit 4. -/
def cfg : RlxCfg := { t := 64, limit := 4, ranges := [⟨1, 1⟩] }
def sRlx (f : Wave → Wave) : State := sm.modWave probeWave fun w => f { w with regs := { rg with vP := [], s := [(3, 5), (4, 0x1000), (5, 0x1004)] }, rlx := cfg }
theorem test_rlxcfg : runs (sRlx id) (.rlxcfg h1 true .prev false 7 9) Ctx.any (fun t => (wv t).rlx == { dense := true, src := 1, t := 9, limit := 7 }) = true := by decide +kernel
theorem test_rlxcfg_none : runs (sRlx id) (.rlxcfg { hp with pix := 3 } true .prev false 7 9) (fun c => !c.any) (fun t => (wv t).rlx == cfg) = true := by decide +kernel
theorem test_rlxcfg_reg : runs (sRlx id) (.rlxcfgReg h1 false .hold false 3 4) Ctx.any (fun t => (wv t).rlx == { t := 0x1000, limit := 5 }) = true := by decide +kernel
theorem test_rlxcfg_tol : runs (sRlx id) (.rlxcfgTol h1 3 4) Ctx.any (fun t => (wv t).rlx == { cfg with tolabs := 5, tolrel := 0x1000 }) = true := by decide +kernel
theorem test_rlxst : runs (sRlx id) (.rlxst h1 ⟨2, 3⟩ ⟨0xFF, 0⟩ ⟨0xFF, 0⟩ ⟨0xFF, 0⟩) Ctx.any (fun t => (wv t).rlx.ranges == [⟨2, 3⟩]) = true := by decide +kernel
theorem test_rlxst_bad : runs (sRlx id) (.rlxst h1 ⟨3, 2⟩ ⟨0xFF, 0⟩ ⟨0xFF, 0⟩ ⟨0xFF, 0⟩) Ctx.any (fun t =>
    (wv t).trap.pend.any fun f => f.code == fRlxState && f.extra.toNat / 2 ^ 57 == 4) = true := by decide +kernel
theorem test_rlxin : runs (sRlx id) (.rlxin h1 2 4 8 4) Ctx.any (fun t => (wv t).rlx.streams == [⟨2, 0x1008, 4, false⟩]) = true := by decide +kernel
theorem test_rlxin_full : runs (sRlx fun w => { w with rlx := { cfg with streams := (List.range 8).map fun n => ⟨10 + n, 0, 0, false⟩ } }) (.rlxin h1 2 4 8 4) Ctx.any (fun t =>
    (wv t).trap.pend.any fun f => f.code == fRlxState && f.extra.toNat / 2 ^ 57 == 5) = true := by decide +kernel
theorem test_rlxgs : runs (sRlx id) (.rlxgs h1 false 4 64) Ctx.any (fun t => (wv t).rlx.area == some 0x1040) = true := by decide +kernel
theorem test_rlxgs_misaligned : runs (sRlx id) (.rlxgs h1 false 5 0) Ctx.any (fun t => faulted t == some fMisaligned) = true := by decide +kernel
-- Table 22-1: selector 7 is T, 9 whether the region settled
theorem test_rlxq : runs (sRlx id) (.rlxq h1 7 (.v 4)) (fun _ => true) (fun t => (wv t).regs.vAt 4 0 == 64) = true := by decide +kernel
theorem test_rlxq_p : runs (sRlx fun w => { w with rlxRegs := { code := 2 } }) (.rlxq h1 9 (.p 4)) (fun _ => true) (fun t => (wv t).regs.pAt 4 7) = true := by decide +kernel
theorem test_rlxq_s : runs (sRlx id) (.rlxq h1 8 (.s 6)) (fun _ => true) (fun t => (wv t).regs.sAt 6 == 4) = true := by decide +kernel
-- R321: lane 1 owns steps 2 and 3; its second is step 3, whose word lies at the area's 64 + 4 x 3
def sSeed : State := sRlx fun w => { w with rlx := { cfg with area := some 0x1000 } }
theorem test_rlxseed : runs sSeed (.rlxseed h1 2 1) (fun c => c.any && !c.seedBad 2 1 && c.seedStep 1 1 == some 3) (fun t =>
    (t.op 0).any fun o => o.addr 1 == 0x104C && tget o.data 1 [] == [1] && o.todo == 0xFFFFFFFF) = true := by decide +kernel
theorem test_rlxseed_bad : runs (sRlx id) (.rlxseed h1 2 0) (fun c => c.any && c.seedBad 2 0) (fun t => faulted t == some fRlxState) = true := by decide +kernel
theorem test_rlxseed_none : runs (sRlx fun w => { w with rlx := { cfg with area := some 0x1000, t := 33 }, slot0 := w.slot0.map fun p => { p with mask := 0xF0000000 } }) (.rlxseed h1 2 1)
    (fun c => c.any && !c.seedBad 2 1 && (lanes c.x).all fun l => (c.seedStep 1 l).isNone) (fun t => t.ops.isEmpty && (pth t 0).pc == pc0 + 1) = true := by decide +kernel

-- R293: one participant; x(0) is lane 0's value
theorem test_rlxbeg : runs (sRlx id) (.rlxbeg h1) (fun c => c.p.mask == c.w.live && c.x == c.w.live && c.guardPois == 0 && !c.s.rlxGone c.w &&
    c.s.rlxParts c.w == [c.wk] && (c.s.begOp c.wk).isNone && c.w.parked.isEmpty && c.w.trap.pend.isNone && !c.w.off &&
    (c.w.rlx.bad (c.s.rlxP c.w c.w.rlx.cluster)).isNone && (c.s.rlxOrigin c.w).isNone && !c.s.partOpen [c.wk] && c.w.rlx.streams.isEmpty && c.w.rlx.src == 0)
    (fun t => (wv t).region == some probeWave && (wv t).regs.vAt 1 9 == 0xFFFFFFF0 && (tfind t.regions probeWave).any fun r => r.pass == 1) = true := by decide +kernel
theorem test_rlxbeg_part : runs (sRlx fun w => { w with slot0 := w.slot0.map fun p => { p with mask := 1 } }) (.rlxbeg h1) (fun c => c.p.mask != c.w.live) (fun t =>
    faulted t == some fRlxState) = true := by decide +kernel
theorem test_rlxbeg_waits : runs (let s := sRlx id; { s with teams := s.teams.map fun x => (x.1, { x.2 with waves := 2 }) }) (.rlxbeg h1)
    (fun c => (c.s.rlxParts c.w).any (fun p => p != c.wk && (c.s.begOp p).isNone)) (fun t => (pth t 0).wait == .op 0 && t.regions.isEmpty) = true := by decide +kernel
theorem test_rlxend_outside : runs (sRlx id) (.rlxend h1) (fun c => c.w.region.isNone) (fun t => faulted t == some fRlxState) = true := by decide +kernel
/-- In the body of a region of 64 steps, with lanes 0 to 15 at RLXEND. -/
def sBody : State :=
  { sRlx (fun w => { w with region := some probeWave, slot0 := w.slot0.map fun p => { p with mask := 0xFFFF } }) with
    regions := [(probeWave, { parts := [{ wave := probeWave, start := { pc := pc0, mask := 0xFFFFFFFF }, begPc := pc0, begCtl := h7, stack := [], endCtl := h7 }]
                              cfg := cfg, tSteps := 64, limit := 4, c := 1, x0 := [0], guess := [] })] }
theorem test_rlxend : issues sBody (.rlxend h7) (fun c => c.w.haz.isEmpty && c.guardPois == 0 && c.w.region == some probeWave && (c.s.opsOf c.wk).all (fun o => !o.2.inBody) && (lanes c.p.mask).all (fun l => !(c.rdV 1 l).pois) &&
    (tfind c.s.regions probeWave).any fun r => r.parts.any fun q => q.wave == c.wk && (c.p.mask &&& c.s.evalMask r c.w q q.eval) != c.s.evalMask r c.w q q.eval) = true := by decide +kernel
/-- A region of `n` steps at the end of its pass, each step's result 1.0 with tangent 0. -/
def sPass (n : Nat) : State :=
  { sRlx (fun w => { w with region := some probeWave }) with
    regions := [(probeWave, { parts := [{ wave := probeWave, start := { pc := pc0, mask := 0xFFFFFFFF }, begPc := pc0, begCtl := h7, stack := [], done := true, endPc := pc0 + 1, endCtl := h1 }]
                              cfg := cfg, tSteps := n, limit := 4, c := 1, x0 := [0], guess := []
                              evals := (List.range n).map fun t => (t, { y := [0x3F800000], j := [[0]], arrived := true }) })] }
/-- The region of a state meets `P`. -/
def reg (s : State) (P : Region → Bool) : Bool := (tfind s.regions probeWave).any P
-- R302: with one step the first pass settles it; v1 receives its result in every lane
theorem test_pass_ends : (reg (sPass 1) (fun r => r.passEnd.ends.any (fun e => (r.committed e.1 e.2).isEmpty && (r.final r.passEnd e.1 e.2).length == r.cfg.regs.length) && r.parts.all Participant.done) &&
    next (exec (.passEnd probeWave) (sPass 1)) (fun t => t.regions.isEmpty && (wv t).regs.vAt 1 5 == 0x3F800000 && (wv t).rlxRegs.passes == 1 && (wv t).ctr 1 == 1)) = true := by decide +kernel
-- R300: the scan of constant maps hands every step the result of the one before
theorem test_pass_goes_on : (reg (sPass 3) (fun r => r.passEnd.ends.isNone) &&
    next (exec (.passEnd probeWave) (sPass 3)) (fun t => reg t fun r => r.pass == 2 && tget r.guess 1 0 == 0x3F800000 && tget r.guess 2 0 == 0x3F800000)) = true := by decide +kernel
theorem test_pass_waits : (let s := { sPass 1 with regions := (sPass 1).regions.map fun x => (x.1, { x.2 with parts := x.2.parts.map fun q => { q with done := false } }) }
    next (exec (.passEnd probeWave) s) fun t => t == s) = true := by decide +kernel

/-! ## The Gauge unit and the basin (GaugeForms to HandleTransfer) -/

/-- A launch that estimates over 4 items: check at each rank from 2 on, tolerance 100, z = 2. -/
def est : EstBlock := { result := 0, tolrel := 0, tol := 0x4059000000000000, z := 0x4000000000000000, c := 0, a := 1, gen := 1, stride := 1, nmin := 2, n := 4, seed := 0 }
def sGauge (g : GaugeUnit) : State :=
  (sm.modLaunch probeLaunch fun x => { x with est := some est }).modDie 0 fun d => { d with gauge := { g with launch := some probeLaunch } }
-- R336: an affine context of 10 items, π(3) = 7 * 3 + 4 mod 10; a rank beyond them gives all ones
theorem test_gperm : runs (s1.modWave probeWave fun w => { w with gctx := { n := 10, gen := 1, a := 7, c := 4 } }) (.gperm h1 4 (.v 2)) Ctx.any (fun t =>
    (t.op 0).any fun o => (o.written rg).vAt 4 3 == 5 && (o.written rg).vAt 4 10 == 0xFFFFFFFF) = true := by decide +kernel
theorem test_gperm_none : runs s0 (.gperm hp 4 (.v 2)) (fun c => !c.any) (fun t => t.ops.isEmpty) = true := by decide +kernel
theorem test_gcfg : runs sm (.gcfg h1 3 4 0) (fun c => c.any && (match c.s.aperture c.w 0 0x1000 64 .load with | .ok _ => true | _ => false)) (fun t =>
    (t.op 0).any fun o => o.todo == 1 && o.addr 0 == 0x1000) = true := by decide +kernel
theorem test_gcfg_misaligned : runs sm (.gcfg h1 3 4 4) Ctx.any (fun t => faulted t == some fMisaligned) = true := by decide +kernel
theorem test_gcfg_none : runs s0 (.gcfg hp 3 4 0) (fun c => !c.any) (fun t => t.ops.isEmpty) = true := by decide +kernel
/-- GCFG of a block with seed 9 and N = 5 is pending; GEN at bit 160 is 0, or reserved bits are set. -/
def sGcfg (bad : Bool) : State :=
  walk 0 (after (exec (.gcfg h1 3 4 0) { sm with mem := memWrite sm.mem 0x201000 (leBytes 8 9 ++ leBytes 4 5 ++ leBytes 8 0 ++ [if bad then 2 else 0]) }))
theorem test_gcfg_perform : (turn (sGcfg false) 0 0 false false && ((sGcfg false).op 0).any (fun o => o.todo == laneBit 0 && o.writes.isEmpty && o.seg 0 == [⟨.phys 0x201000 0 0, 64⟩]) &&
    next (exec (.memoryAccessPerform 0 0) (sGcfg false)) fun t => (wv t).gctx == { n := 5, gen := 0, seed := 9 } && (wv t).regs.pAt 3 7 && t.ops.isEmpty) = true := by decide +kernel
theorem test_gcfg_refused : (turn (sGcfg true) 0 0 false false && next (exec (.memoryAccessPerform 0 0) (sGcfg true)) fun t =>
    (wv t).gctx == {} && !(wv t).regs.pAt 3 7) = true := by decide +kernel
theorem test_gadd : runs (sGauge { low := 1 }) (.gadd h1 3 (.v 8)) (fun c => c.any && (c.s.estOf c.w).isSome && c.s.gaugeServes c.w && c.s.rank c.w 2 == 2) (fun t =>
    let g := (t.die 0).gauge
    g.taken.length == 31 && (tfind g.window 0).isNone && tfind g.window 2 == some (sample64 0x1008)) = true := by decide +kernel
theorem test_gadd_state : runs sm (.gadd h1 3 (.v 8)) (fun c => c.any && (c.s.estOf c.w).isNone) (fun t => faulted t == some fGaugeState) = true := by decide +kernel
theorem test_gtest : runs (sGauge {}) (.gtest h1 3) (fun c => c.any && (c.s.estOf c.w).isSome) (fun t => (t.op 0).any fun o => !o.finished) = true := by decide +kernel
theorem test_gtest_none : runs (sGauge {}) (.gtest { hp with pix := 3 } 3) (fun c => !c.any) (fun t => t.ops.isEmpty) = true := by decide +kernel
/-- GTEST of lanes 0 to 3 is pending. -/
def sGtest (g : GaugeUnit) : State := after (exec (.gtest { hp with ctr := 1 } 3) (sGauge g))
-- R332: ranks 0 and 1 are merged, rank 2 is closed without a sample, rank 3 is open or lies beyond the stop
theorem test_gtest_done : (next (exec (.variableResultCompletion 0 false) (sGtest { low := 3, merged := [0, 1], st := 1, nstop := 3 })) fun t =>
    t.ops.isEmpty && tget (wv t).regs.p 3 0 == 3) = true := by decide +kernel
theorem test_gtest_waits : next (exec (.variableResultCompletion 0 false) (sGtest { low := 3, merged := [0, 1] })) (fun t => t.ops.length == 1) = true := by decide +kernel
theorem test_gadd_done : next (exec (.variableResultCompletion 0 false) ((after (exec (.gadd { hp with ctr := 1 } 3 (.v 8)) (sGauge {}))).modDie 0 fun d =>
    { d with gauge := { d.gauge with low := 4, merged := [0, 1, 3] } })) (fun t => tget (wv t).regs.p 3 0 == 0xB) = true := by decide +kernel
theorem test_gq : ((Instr.gq h1 5 (.s 6)).wf 256 2 && runs (sGauge { low := 3 }) (.gq h1 5 (.s 6)) Ctx.any (fun t => (t.op 0).any fun o => !o.finished)) = true := by decide +kernel
theorem test_gq_done : next (exec (.variableResultCompletion 0 false) ((after (exec (.gq h1 5 (.v 6)) (sGauge {}))).modDie 0 fun d => { d with gauge := { d.gauge with low := 2 } }))
    (fun t => (wv t).regs.vAt 6 9 == 2 && (wv t).regs.vAt 7 9 == 0 && t.ops.isEmpty) = true := by decide +kernel
theorem test_gq_stop : next (exec (.variableResultCompletion 0 false) (after (exec (.gq h1 6 (.s 6)) sm)))
    (fun t => (wv t).regs.sAt 6 == 0x3FFFFFFFF) = true := by decide +kernel
-- R331: after 2.0, the sample 4.0 of rank 1 gives the mean 3.0 and M2 = 0 + 2 * 1; the half-width is 2 sqrt(2 / 2) = 2
theorem test_merge : ((sGauge {}).ops.isEmpty && next (exec (.gaugeMerge 0) (sGauge { c := 1, mean := 0x4000000000000000, low := 1, merged := [0], window := [(1, 0x4010000000000000)] })) (fun t =>
    let g := (t.die 0).gauge
    g.c == 2 && g.mean == 0x4008000000000000 && g.m2 == 0x4000000000000000 && g.low == 2 && g.merged == [0, 1] && g.hw == some 0x4000000000000000 && g.st == 1 && g.nstop == 2)) = true := by decide +kernel
theorem test_merge_closed : next (exec (.gaugeMerge 0) (sGauge { low := 3, closed := [3], c := 1 })) (fun t =>
    (t.die 0).gauge.st == 2 && (t.die 0).gauge.low == 4 && (t.die 0).gauge.merged.isEmpty) = true := by decide +kernel
theorem test_merge_open : next (exec (.gaugeMerge 0) (sGauge { low := 1 })) (fun t => t == sGauge { low := 1 }) = true := by decide +kernel
-- R343: no page of the pool is left, so the status is false
theorem test_bnew_full : runs sm (.bnew h1 1 2 3 (.imm 128)) (fun c => c.any && c.w.regs.hAt 1 == 0 && c.s.boot.poolPages < c.s.poolPages + 1) (fun t =>
    (t.op 0).any fun o => !(o.written rg).pAt 3 0) = true := by decide +kernel
theorem test_bnew_size : runs sm (.bnew h1 1 2 3 (.imm 100)) Ctx.any (fun t => faulted t == some fBasinSize) = true := by decide +kernel
theorem test_bnew_same : runs sm (.bnew h1 1 1 3 (.imm 128)) Ctx.any (fun t => faulted t == some fBasinReg) = true := by decide +kernel
/-- The pool has pages, and h1 holds `x`. -/
def sH (x : HWord) : State := { sm.modWave probeWave fun w => { w with regs := { w.regs with h := [(1, x)] } } with boot := { sm.boot with poolPages := 8 } }
theorem test_bnew_filled : runs (sH 1) (.bnew h1 1 2 3 (.imm 128)) Ctx.any (fun t => faulted t == some fBasinReg) = true := by decide +kernel
theorem test_bnew_see_filled : runs (sH 1) (.bnew h1 2 1 3 (.imm 128)) (fun c => c.any && c.w.regs.hAt 2 == 0) (fun t => faulted t == some fBasinReg) = true := by decide +kernel
-- R350: the tile is OPEN, entry 0, with one see handle
theorem test_bnew : runs { sm with boot := { sm.boot with poolPages := 8 } } (.bnew h1 1 2 3 (.imm 128)) (fun c => c.any && !c.s.poolShut && (c.s.tile 0 0).st == 0) (fun t =>
    t.tile 0 0 == { st := 1, size := 128, sees := 1, fill := .reg probeWave 1 } && (t.die 0).poolUsed == 1) = true := by decide +kernel
/-- The key slot of the pool is empty. -/
theorem test_bnew_shut : runs { sm with boot := { sm.boot with poolPages := 8, poolSlot := 3 } } (.bnew h1 1 2 3 (.imm 128)) (fun c => c.any && c.w.regs.hAt 1 == 0 && c.w.regs.hAt 2 == 0 &&
    c.s.poolShut && (c.s.tile 0 0).st == 0 && c.s.poolPages + tilePages 128 ≤ c.s.boot.poolPages) (fun t => faulted t == some fKeyEmpty) = true := by decide +kernel
theorem test_bnew_none : runs s0 (.bnew hp 1 2 3 (.imm 128)) (fun c => !c.any) (fun t => t.ops.isEmpty) = true := by decide +kernel
theorem test_hmov_none : runs s0 (.hmov hp 1 2) (fun c => !c.any) (fun t => (pth t 0).pc == pc0 + 1) = true := by decide +kernel
theorem test_hmov_filled : runs (sH 1) (.hmov h1 1 2) Ctx.any (fun t => faulted t == some fBasinReg) = true := by decide +kernel
theorem test_hmov : runs (sH 1) (.hmov h1 2 1) (fun c => c.any && c.w.regs.hAt 2 == 0) (fun t => (wv t).regs.hAt 2 == 1 && (wv t).regs.hAt 1 == 0) = true := by decide +kernel
theorem test_hcpy_empty : runs sm (.hcpy h1 2 1) (fun c => c.any && c.w.regs.hAt 1 == 0) (fun t => faulted t == some fBasinEmpty) = true := by decide +kernel
theorem test_hdrop_empty : runs sm (.hdrop h1 1) (fun c => c.any && c.w.regs.hAt 1 == 0) (fun t => (t.op 0).any (·.finished)) = true := by decide +kernel
theorem test_hqry : runs (sH (5 * 2 ^ 64 + 3)) (.hqry h1 .hi 6 1) Ctx.any (fun t => (t.op 0).any fun o => (o.written rg).sAt 6 == 5) = true := by decide +kernel
theorem test_hld_empty : runs sm (.hld h1 false .w32 2 1 none 0) (fun c => c.any && c.w.regs.hAt 1 == 0) (fun t => faulted t == some fBasinEmpty) = true := by decide +kernel
theorem test_hxfer_empty : runs sm (.hxfer h1 3 1 0 0) (fun c => c.any && c.w.regs.hAt 1 == 0) (fun t => faulted t == some fBasinEmpty) = true := by decide +kernel
theorem test_hldm_filled : runs (sH 1) (.hldm h1 1 3 4 0) Ctx.any (fun t => faulted t == some fBasinReg) = true := by decide +kernel
-- R365: one lane's access of 16 bytes at s4 + 16
theorem test_hldm : runs sm (.hldm h1 1 3 4 16) (fun c => c.any && c.w.regs.hAt 1 == 0 &&
      (match c.s.opPlaces c.w { c.op with todo := laneBit 0, u := [0], record := none, addrs := [(0, c.sOff 4 16)] } 0 with | .ok _ => true | _ => false)) (fun t =>
    (t.op 0).any (fun o => o.todo == 1 && o.addr 0 == 0x1010 && o.holding) && (wv t).hBusy == [(1, 0)] && (pth t 0).wait == .op 0) = true := by decide +kernel
theorem test_hldm_misaligned : runs sm (.hldm h1 1 3 4 4) (fun c => c.any && (match c.s.opPlaces c.w { c.op with todo := laneBit 0, u := [0], record := none, addrs := [(0, c.sOff 4 4)] } 0 with | .error _ => true | _ => false))
    (fun t => faulted t == some fMisaligned) = true := by decide +kernel
theorem test_hldm_ring : runs sm (.hldmRing h1 1 3 4 0) (fun c => c.any && c.w.regs.hAt 1 == 0 &&
      (match c.s.opPlaces c.w { c.op with todo := laneBit 0, u := [0], record := none, addrs := [(0, c.sOff 4 0)] } 0 with | .ok _ => true | _ => false)) (fun t =>
    (t.op 0).any fun o => o.addr 0 == 0x1000) = true := by decide +kernel
theorem test_hstm : runs sm (.hstm h1 4 0 1) (fun c => c.any && !c.s.seeFull (c.w.regs.hAt 1) &&
      (match c.s.opPlaces c.w { c.op with todo := laneBit 0, u := [0], record := some 0, addrs := [(0, c.sOff 4 0)] } 0 with | .ok _ => true | _ => false)) (fun t =>
    (t.op 0).any fun o => o.record == some 0) = true := by decide +kernel
/-- An empty handle on its way to a slot at 0x1000 that holds 7s; an HLDM of a slot that holds `x`. -/
def sHstm : State := walk 0 (after (exec (.hstm h1 4 0 1) { sm with mem := memWrite sm.mem 0x201000 (List.replicate 16 7) }))
theorem test_hstm_perform : (turn sHstm 0 0 false false && (sHstm.op 0).any (fun o => o.todo == laneBit 0 && o.seg 0 == [⟨.phys 0x201000 0 0, 16⟩] && o.writes.isEmpty && o.record == some 0) &&
    next (exec (.memoryAccessPerform 0 0) sHstm) fun t => (List.range 16).all (fun k => memGet t.mem (0x201000 + k) == 0) && t.ops.isEmpty) = true := by decide +kernel
def sHldm : State := walk 0 (after (exec (.hldm h1 1 3 4 0) sm))
theorem test_hldm_perform : (turn sHldm 0 0 false false && (sHldm.op 0).any (fun o => o.todo == laneBit 0 && o.seg 0 == [⟨.phys 0x201000 0 0, 16⟩] && o.writes.isEmpty) &&
    !sHldm.slotHurt ((sHldm.op 0).any (·.walked) |> fun _ => ((sHldm.op 0).map (·.seg 0)).getD []) 0 && !sHldm.handleBad (wv sHldm) 0 && !sHldm.seeFull 0 && next (exec (.atomicPerform 0 0) sHldm) fun t => !(wv t).regs.pAt 3 4 && (wv t).regs.hAt 1 == 0) = true := by decide +kernel
/-- The handle operation of an open tile whose fill handle lies behind port 2. -/
def sDown : State := sm.modDie 0 fun d => { d with tiles := [(4, { st := 1, size := 64, sees := 2, fill := .away 2 })] }
theorem test_port_again : next (exec (.peerAckTimeout 2) { sDown with portsDown := [2] }) (fun t => t == { sDown with portsDown := [2] }) = true := by decide +kernel

/-! ### Handles of this module: the module's number is a constant of the configuration without a value, so their fields are
shown by the lemmas of Laws/Basin -/

/-- The handle of kind `k` of tile 4 of die `d`, of generation 7 and 128 bytes. -/
def mkH (k d : Nat) : HWord := mkHandle k 0 d 7 4 128
/-- The tile: OPEN, its fill handle in h1, one see handle. -/
def tl : Tile := { st := 1, gen := 7, size := 128, sees := 1, fill := .reg probeWave 1, bytes := [(4, 0x44), (8, 0x88)] }
/-- h1 holds the handle of kind `k` of tile 4 of die `d`, which is `x`; v10 is 4 and 8 in lanes 0 and 1. -/
def sT (k d : Nat) (x : Tile) : State :=
  (sm.modDie d fun y => { y with tiles := [(4, x)] }).modWave probeWave fun w =>
    { w with regs := { w.regs with h := [(1, mkH k d)], v := w.regs.v ++ [(320, 4), (321, 8)] } }
theorem mkH_fits {k d : Nat} (hk : k < 4) (hd : d < 8) : HandleFits k 0 d 7 4 128 := ⟨hk, by decide, hd, by decide, by decide, by decide⟩
theorem mkH_local {k d : Nat} (hk : k < 4) (hd : d < 8) : hLocal (mkH k d) = true := hLocal_mkHandle (mkH_fits hk hd)
theorem mkH_kind {k d : Nat} (hk : k < 4) (hd : d < 8) : hKind (mkH k d) = k := hKind_mkHandle (mkH_fits hk hd)
theorem mkH_die {k d : Nat} (hk : k < 4) (hd : d < 8) : hDie (mkH k d) = d := hDie_mkHandle (mkH_fits hk hd)
theorem mkH_index {k d : Nat} (hk : k < 4) (hd : d < 8) : hIndex (mkH k d) = 4 := hIndex_mkHandle (mkH_fits hk hd)
theorem mkH_size {k d : Nat} (hk : k < 4) (hd : d < 8) : hSize (mkH k d) = 128 := hSize_mkHandle (mkH_fits hk hd) rfl
theorem mkH_gen {k d : Nat} (hk : k < 4) (hd : d < 8) : hGen (mkH k d) = 7 := hGen_mkHandle (mkH_fits hk hd)
theorem mkH_ne {k d : Nat} (hk : k < 4) (hd : d < 8) (h : k ≠ 0) : mkH k d ≠ 0 := mkHandle_ne_zero (mkH_fits hk hd) h
/-- The tile of the handle. -/
theorem mkH_tile {k d : Nat} (hk : k < 4) (hd : d < 8) (s : State) : s.tile (hDie (mkH k d)) (hIndex (mkH k d)) = s.tile d 4 := by
  rw [mkH_die hk hd, mkH_index hk hd]
/-- It is not stale where the tile stands with its generation. -/
theorem mkH_fresh {k d : Nat} (hk : k < 4) (hd : d < 8) {s : State} (h0 : (s.tile d 4).st ≠ 0) (h : (s.tile d 4).gen = 7) :
    s.handleStale (mkH k d) = false := by
  simp [State.handleStale, mkH_local hk hd, State.stale, mkH_tile hk hd, h0, h, mkH_gen hk hd]
theorem mkH_stale {k d : Nat} (hk : k < 4) (hd : d < 8) {s : State} (h0 : (s.tile d 4).st = 0) : s.handleStale (mkH k d) = true := by
  simp [State.handleStale, mkH_local hk hd, State.stale, mkH_tile hk hd, h0]

/-- What the handle forms find in `sT k d x`. -/
structure Finds (k d : Nat) (x : Tile) (i : Instr) (c : Ctx) : Prop where
  issues : Issues (sT k d x) i c
  any : c.any = true
  handle : c.w.regs.hAt 1 = mkH k d
  kind : hKind (mkH k d) = k
  ne : mkH k d ≠ 0
  loc : hLocal (mkH k d) = true
  die : hDie (mkH k d) = d ∧ c.w.die = 0
  tile : c.s.tile (hDie (mkH k d)) (hIndex (mkH k d)) = x
  fresh : c.s.handleStale (mkH k d) = false
/-- They find it where they issue. -/
theorem finds {k d : Nat} {x : Tile} {i : Instr} (h : ((sT k d x).ctx i).isSome = true) (hg : (((sT k d x).ctx i).get h).gate = .go)
    (ha : (((sT k d x).ctx i).get h).any = true) (hh : (((sT k d x).ctx i).get h).w.regs.hAt 1 = mkH k d)
    (hd : (((sT k d x).ctx i).get h).w.die = 0) (ht : (((sT k d x).ctx i).get h).s.tile d 4 = x)
    (b : k < 4 ∧ d < 8 ∧ k ≠ 0 ∧ x.st ≠ 0 ∧ x.gen = 7) : ∃ c, Finds k d x i c := by
  obtain ⟨hk, hd8, h0, hs, hgen⟩ := b
  exact ⟨_, issues_get h hg, ha, hh, mkH_kind hk hd8, mkH_ne hk hd8 h0, mkH_local hk hd8, ⟨mkH_die hk hd8, hd⟩,
    (mkH_tile hk hd8 _).trans ht, mkH_fresh hk hd8 (by rw [ht]; exact hs) (by rw [ht]; exact hgen)⟩
theorem test_hcpy_finds : ∃ c, Finds 2 0 tl (.hcpy h1 2 1) c :=
  finds (by decide) (by decide) (by decide) rfl (by decide) (by decide) (by decide)
theorem test_hcpy_kind_finds : ∃ c, Finds 1 0 tl (.hcpy h1 2 1) c :=
  finds (by decide) (by decide) (by decide) rfl (by decide) (by decide) (by decide)
theorem test_hdrop_finds : ∃ c, Finds 1 0 tl (.hdrop h1 1) c :=
  finds (by decide) (by decide) (by decide) rfl (by decide) (by decide) (by decide)
theorem test_hdrop_see_finds : ∃ c, Finds 2 0 { tl with st := 2 } (.hdrop h1 1) c :=
  finds (by decide) (by decide) (by decide) rfl (by decide) (by decide) (by decide)
theorem test_hqry_finds : ∃ c, Finds 2 0 tl (.hqry h1 .st 6 1) c :=
  finds (by decide) (by decide) (by decide) rfl (by decide) (by decide) (by decide)
theorem test_hst_finds : ∃ c, Finds 1 0 tl (.hst hp .w32 8 1 (some 10) 4) c :=
  finds (by decide) (by decide) (by decide) rfl (by decide) (by decide) (by decide)
theorem test_hst_kind_finds : ∃ c, Finds 2 0 tl (.hst hp .w32 8 1 (some 10) 4) c :=
  finds (by decide) (by decide) (by decide) rfl (by decide) (by decide) (by decide)
theorem test_hst_away_finds : ∃ c, Finds 1 3 tl (.hst hp .w32 8 1 (some 10) 4) c :=
  finds (by decide) (by decide) (by decide) rfl (by decide) (by decide) (by decide)
theorem test_hld_fill_finds : ∃ c, Finds 1 0 tl (.hld hp false .w32 2 1 (some 10) 0) c :=
  finds (by decide) (by decide) (by decide) rfl (by decide) (by decide) (by decide)
theorem test_hld_open_finds : ∃ c, Finds 2 0 tl (.hld hp false .w32 2 1 (some 10) 0) c :=
  finds (by decide) (by decide) (by decide) rfl (by decide) (by decide) (by decide)
theorem test_hld_abandoned_finds : ∃ c, Finds 2 0 { tl with st := 3 } (.hld hp false .w32 2 1 (some 10) 0) c :=
  finds (by decide) (by decide) (by decide) rfl (by decide) (by decide) (by decide)
/-- Lane 0's offset is poisoned. -/
def sTp : State := (sT 1 0 tl).modWave probeWave fun w => { w with regs := { w.regs with vP := [(10, 1)] } }
/-- What TileAccess asks of the lanes that the checks of HLD and HST stop: poisoned, misaligned or outside the tile. -/
def laneBad (c : Ctx) (at_ : Nat → DWord) (wd : Nat) : Mask × Mask × Mask :=
  (maskOf fun l => c.x.getLsbD l && (c.poisonIn l).isSome, maskOf fun l => c.x.getLsbD l && decide ((at_ l).toNat % wd ≠ 0),
    maskOf fun l => c.x.getLsbD l && decide (128 < (at_ l).toNat + wd))
/-- The offset of lane `l` of a form with index v10. -/
def off10 (c : Ctx) (f : DWord) (l : Nat) : DWord := (c.rdV 10 l).val + f
theorem test_hst_lawful_finds : ∃ c, Finds 1 0 tl (.hst hp .w32 8 1 (some 10) 4) c ∧ laneBad c (off10 c 4) 4 = (0, 0, 0) ∧ c.s.poolShut = false :=
  ⟨_, ⟨issues_get (by decide) (by decide), by decide, rfl, mkH_kind (by decide) (by decide), mkH_ne (by decide) (by decide) (by decide), mkH_local (by decide) (by decide),
    ⟨mkH_die (by decide) (by decide), by decide⟩, mkH_tile (by decide) (by decide) _, mkH_fresh (by decide) (by decide) (by decide) (by decide)⟩, by decide, by decide⟩
theorem test_hst_misaligned : ∃ c, Issues (sT 1 0 tl) (.hst hp .w32 8 1 (some 10) 2) c ∧ c.w.regs.hAt 1 = mkH 1 0 ∧ (laneBad c (off10 c 2) 4).1 = 0 ∧
    (laneBad c (off10 c 2) 4).2.1 ≠ 0 :=
  ⟨_, issues_get (by decide) (by decide), rfl, by decide, by decide⟩
theorem test_hst_bounds : ∃ c, Issues (sT 1 0 tl) (.hst hp .w32 8 1 (some 10) 128) c ∧ c.w.regs.hAt 1 = mkH 1 0 ∧ (laneBad c (off10 c 128) 4).1 = 0 ∧
    (laneBad c (off10 c 128) 4).2.1 = 0 ∧ (laneBad c (off10 c 128) 4).2.2 ≠ 0 :=
  ⟨_, issues_get (by decide) (by decide), rfl, by decide, by decide, by decide⟩
theorem test_hst_poison : ∃ c, Issues sTp (.hst hp .w32 8 1 (some 10) 4) c ∧ c.w.regs.hAt 1 = mkH 1 0 ∧ (c.s.tile 0 4).gen = 7 ∧ (laneBad c (off10 c 4) 4).1 ≠ 0 :=
  ⟨_, issues_get (by decide) (by decide), rfl, by decide, by decide⟩

/-- A handle of kind `k` of a tile of the module behind port 2. -/
def farM : BitVec 48 := Config.moduleId + 1
def farH (k : Nat) : HWord := BitVec.ofNat 128 (k * 2 ^ 126 + farM.toNat * 2 ^ 64 + 7 * 2 ^ 32 + 4 * 2 ^ 16 + 2)
theorem farH_toNat {k : Nat} (h : k < 4) : (farH k).toNat = k * 2 ^ 126 + farM.toNat * 2 ^ 64 + 7 * 2 ^ 32 + 4 * 2 ^ 16 + 2 := by
  have := farM.isLt
  simp only [farH, BitVec.toNat_ofNat]
  omega
theorem farH_module {k : Nat} (h : k < 4) : hModule (farH k) = farM := by
  have := farM.isLt
  apply BitVec.eq_of_toNat_eq
  simp only [hModule, field, farH_toNat h, BitVec.toNat_ofNat]
  omega
theorem farH_kind {k : Nat} (h : k < 4) : hKind (farH k) = k := by
  have := farM.isLt
  simp only [hKind, field, farH_toNat h]
  omega
theorem farH_far {k : Nat} (h : k < 4) : hLocal (farH k) = false := by
  have : farM ≠ Config.moduleId := by unfold farM; bv_omega
  simp [hLocal, farH_module h, this]
/-- h1 holds it, h2 the handle `x`. -/
def sFar (k : Nat) (x : HWord) : State :=
  { (sm.modWave probeWave fun w => { w with regs := { w.regs with h := [(1, farH k), (2, x)], v := w.regs.v ++ [(320, 4), (321, 8)] } }) with
    boot := { sm.boot with peers := [[], [], [farM]] } }
theorem far_fresh {k : Nat} (h : k < 4) {s : State} (hb : s.boot.peers = [[], [], [farM]]) (hd : s.portsDown = []) : s.handleStale (farH k) = false := by
  simp [State.handleStale, farH_far h, State.portOf, farH_module h, hb, hd, List.findIdx?_cons]
theorem test_far_fill : ∃ c, Issues (sFar 1 0) (.hld hp false .w32 2 1 (some 10) 0) c ∧ c.any = true ∧ c.w.regs.hAt 1 = farH 1 ∧
    hLocal (farH 1) = false ∧ hKind (farH 1) = 1 ∧ c.s.handleStale (farH 1) = false ∧ laneBad c (off10 c 0) 4 = (0, 0, 0) :=
  ⟨_, issues_get (by decide) (by decide), by decide, rfl, farH_far (by decide), farH_kind (by decide), far_fresh (by decide) rfl rfl, by decide⟩
theorem test_far_see : ∃ c, Issues (sFar 2 0) (.hld hp false .w32 2 1 (some 10) 0) c ∧ c.any = true ∧ c.w.regs.hAt 1 = farH 2 ∧
    hLocal (farH 2) = false ∧ hKind (farH 2) = 2 ∧ c.s.handleStale (farH 2) = false ∧ laneBad c (off10 c 0) 4 = (0, 0, 0) :=
  ⟨_, issues_get (by decide) (by decide), by decide, rfl, farH_far (by decide), farH_kind (by decide), far_fresh (by decide) rfl rfl, by decide⟩
theorem farH_obj : tileObj (farH 1) = tileObj (farH 2) := by
  have := farM.isLt
  simp only [tileObj, farH_toNat (k := 1) (by decide), farH_toNat (k := 2) (by decide)]
  exact congrArg (BitVec.ofNat 128) (by omega)
theorem farH_parks {w : Wave} (h : w.regs.h = [(1, farH 2), (2, farH 1)]) : w.holdsFill (farH 2) = true := by
  rw [Wave.holdsFill, h]
  simp only [List.any_cons, farH_kind (k := 1) (by decide), farH_obj, beq_self_eq_true, Bool.and_self, Bool.true_or, Bool.or_true]
theorem test_far_selfpark : ∃ c, Issues (sFar 2 (farH 1)) (.hld hp false .w32 2 1 (some 10) 0) c ∧ c.w.holdsFill (farH 2) = true :=
  ⟨_, issues_get (by decide) (by decide), farH_parks rfl⟩
theorem test_hxfer_finds : ∃ c, Finds 1 0 tl (.hxfer h1 3 1 2 0) c :=
  finds (by decide) (by decide) (by decide) rfl (by decide) (by decide) (by decide)
/-- A transfer of the fill handle stands between its issue and its acknowledgement. -/
def sXfer (u : List DWord) : State :=
  { sT 1 0 { tl with fill := .flight 0 } with
    ops := [(0, { wave := probeWave, slot := 0, pc := pc0, instr := .hxfer h1 3 1 2 0, ctr := 1, mask := 0xFFFFFFFF, record := some (mkH 1 0), u := u })], opSeq := 1 }
theorem test_xfer_pending : ∃ o w, Pending (sXfer [0, 0]) 0 o w ∧ o.record = some (mkH 1 0) ∧ o.u = [0, 0] :=
  ⟨_, _, ⟨rfl, rfl, rfl, (fun _ h => by cases h), by decide⟩, rfl, rfl⟩
theorem test_ack_pending : ∃ o w, Pending (sXfer [0, 1]) 0 o w ∧ o.record = some (mkH 1 0) ∧ o.u = [0, 1] :=
  ⟨_, _, ⟨rfl, rfl, rfl, (fun _ h => by cases h), by decide⟩, rfl, rfl⟩
/-- An HST, or an HLD, of lane 1 is on its way to die 3. -/
def sCarried (i : Instr) (x : Tile) : State :=
  { sT 2 3 x with
    ops := [(0, { wave := probeWave, slot := 0, pc := pc0, instr := i, ctr := 1, mask := 2, todo := 2, record := some (mkH 2 3), addrs := [(1, 8)], data := [(1, [0x1234])] })], opSeq := 1 }
theorem test_carried_hst : ∃ o w, Pending (sCarried (.hst h1 .w32 8 1 none 8) tl) 0 o w ∧ o.mask = laneBit 1 ∧ 4 ≤ (bytesOf (tget o.data 1 [])).length :=
  ⟨_, _, ⟨rfl, rfl, rfl, (fun _ h => by cases h), by decide⟩, rfl, by decide⟩
theorem test_carried_free : (sCarried (.hst h1 .w32 8 1 none 8) tl).poolShut = false ∧ (sCarried (.hst h1 .w32 8 1 none 8) tl).ops.length = 1 := by decide
theorem test_carried_hld : ∃ o w, Pending (sCarried (.hld h1 false .w32 2 1 none 8) { tl with st := 2 }) 0 o w ∧ o.finished = false :=
  ⟨_, _, ⟨rfl, rfl, rfl, (fun _ h => by cases h), by decide⟩, rfl⟩
theorem test_port_down : ∃ d i x u, sDown.dies = [(d, x)] ∧ x.tiles = [(i, u)] ∧ u.st = 1 ∧ u.fill = .away 2 ∧ tget u.away 2 0 = 0 ∧ 1 ≤ u.sees ∧
    ∀ o ∈ sDown.ops, o.2.parkedOn d i = false :=
  ⟨_, _, _, _, rfl, rfl, rfl, rfl, rfl, by decide, by decide⟩

/-! ## Launch, system and trap forms (LaunchForms to TrapDelivery) -/

/-- A record of Table 27-1 at 0x1000: G = 1, V = 8, one stage of one thread whose entry is 0x2000_0000. -/
def launchMem : Memory := memWrite sm.mem 0x201000 (leBytes 128 (2 ^ 256 + 8 * 2 ^ 75) ++ leBytes 16 (2 ^ 64 + 0x20000000))
/-- LAUNCH of the record at `x` is pending. -/
def sLaunch (x : DWord) (m : Memory) : State := after (exec (.launch h1 6 4) { ((sm.modWave probeWave fun w => { w with regs := { w.regs with s := [(4, x)] } }).modDie 0 fun d => { d with qnext := 1 }) with mem := m })
theorem test_launch : runs sm (.launch h1 6 4) Ctx.any (fun t => (pth t 0).wait == .op 0 && (t.op 0).any fun o => o.u == [0, 0x1000] && !o.walked && !o.finished) = true := by decide +kernel
theorem test_launch_none : runs sm (.launch { hp with pix := 3 } 6 4) (fun c => !c.any) (fun t => t.ops.isEmpty) = true := by decide +kernel
/-- What LaunchForms asks of a pending LAUNCH or TREESET. -/
def waits (s : State) : Bool :=
  match s.op 0 with
  | none => false
  | some o => match s.wave o.wave with
    | none => false
    | some w => o.writes.isEmpty && w.span.ckpt.isNone && !o.walked && !o.finished && o.holding && w.parked.isEmpty && !s.behind 0 o && !(s.launchDenied w 0x1000)
        && (s.opsOf o.wave).all fun y => !(y.1 < 0 && y.2.writesMem)
def queued (q : QCheck) : Bool := match q with | .ok _ => true | _ => false
def refusedWith (q : QCheck) (st : Nat) : Bool := match q with | .refused n _ _ => n == st | _ => false
theorem test_launch_queued : (let s := sLaunch 0x1000 launchMem
    waits s && queued ((s.recReach 0 0 0x1000).checkLaunch 0 0 0 0x1000 false true) && next (exec (.translationWalk 0) s) fun t =>
      (t.launch (launchKey 0 1)).any (fun l => l.st == .queued && l.hdr.v == 8 && l.hdr.stages.length == 1) && (t.die 0).qnext == 2 &&
      (pth t 0).wait == .none && (t.op 0).any fun o => o.finished && (o.written rg).sAt 6 == 1) = true := by decide +kernel
-- Table 27-3: G = 0 is REFUSED_FORMAT, an address that is no multiple of 128 too
theorem test_launch_refused : (let s := sLaunch 0x1000 sm.mem
    waits s && refusedWith ((s.recReach 0 0 0x1000).checkLaunch 0 0 0 0x1000 false true) 1 && next (exec (.translationWalk 0) s) fun t =>
      (t.op 0).any fun o => o.finished && (o.written rg).sAt 6 == 0xFFFFFFFFFFFFFF01) = true := by decide +kernel
-- R222: a table of the record's translation lies in a line that another team has pinned
theorem test_launch_held : (let s := { (sLaunch 0x1000 launchMem).modDie 0 (fun d => { d with tlb := [] }) with pins := [(0, ⟨99, 0⟩)] }
    waits s && (match (s.recReach 0 0 0x1000).checkLaunch 0 0 0 0x1000 false true with | .wait => true | _ => false) &&
    next (exec (.translationWalk 0) s) fun t => t.waves == s.waves && t.ops == s.ops && t.launches.length == 1) = true := by decide +kernel
theorem test_launch_misaligned : (let s := sLaunch 0x1008 launchMem
    next (exec (.translationWalk 0) s) fun t => t.launches.length == 1 && (t.op 0).any fun o => (o.written rg).sAt 6 == 0xFFFFFFFFFFFFFF01) = true := by decide +kernel
theorem test_stepmk_waits : runs s1 (.stepmk h1 3) (fun c => c.w.barDone.isNone && !c.writesLeft && ((c.s.launch c.w.launch).map Launch.boundary).getD 0 ≤ c.w.stepN) (fun t =>
    (wv t).stepN == 1 && (pth t 0).wait == .op 0 && (t.op 0).any fun o => o.u == [0]) = true := by decide +kernel
theorem test_stepmk : runs (s1.modLaunch probeLaunch fun x => { x with boundary := 1, withdrawn := [0] }) (.stepmk h1 3)
    (fun c => c.any && !c.writesLeft && c.w.stepN < ((c.s.launch c.w.launch).map Launch.boundary).getD 0 && c.s.withdrawn c.w) (fun t =>
      (wv t).stepN == 1 && (pth t 0).pc == pc0 + 1 && (t.op 0).any fun o => o.finished && (o.written rg).pAt 3 9) = true := by decide +kernel
theorem test_stepmk_stores : runs (sHeld (.st h1 .default .w32 8 ms)) (.stepmk h7 3) (fun c => c.w.barDone.isNone && c.writesLeft) (fun t => (pth t 0).blk == some 6) = true := by decide +kernel
-- Table 29-5a: selector 4 is the clusters per share, 1
theorem test_dieq : runs s1 (.dieq h1 4 (.v 2)) (fun _ => true) (fun t => (wv t).regs.vAt 2 7 == 1) = true := by decide +kernel
theorem test_dieq_s : runs (s1.modLaunch probeLaunch fun x => { x with d := 3 }) (.dieq h1 1 (.s 2)) (fun _ => true) (fun t => (wv t).regs.sAt 2 == 3) = true := by decide +kernel
/-- TREESET at 0x1000 is pending in a stage of 2 threads. -/
def sTree (es : List Nat) : State :=
  after (exec (.treeset h1 4 0) { (sm.modLaunch probeLaunch fun x => { x with hdr := { x.hdr with stages := [⟨512, 128, 2, pc0⟩] } }) with mem := memWrite sm.mem 0x201000 (es.flatMap fun e => leBytes 4 e) })
theorem test_treeset : runs sm (.treeset h1 4 8) Ctx.any (fun t => (pth t 0).wait == .op 0 && (t.op 0).any fun o => o.u == [0, 0x1008] && !o.walked) = true := by decide +kernel
theorem test_treeset_none : runs sm (.treeset { hp with pix := 3 } 4 8) (fun c => !c.any) (fun t => t.ops.isEmpty) = true := by decide +kernel
-- R417: a root with two leaves
def treeWords : List Nat := [3, 0x7FF * 2 ^ 21, 2 ^ 20, 2 ^ 20 + 1]
theorem test_tree_set : (let s := sTree treeWords
    waits s && (match s.readTopo probeWave (wv s) 0 0x1000 with | .ok (hd, es) => (topoCheck 2 hd es).isNone | _ => false) &&
    next (exec (.translationWalk 0) s) fun t => (pth t 0).wait == .none && (t.team probeTeam).any fun x => x.topo == some [⟨0x7FF, false, 0⟩, ⟨0, true, 0⟩, ⟨0, true, 1⟩]) = true := by decide +kernel
-- R418: the second entry names its parent 0 as the root does not
theorem test_tree_bad : (let s := sTree [3, 0, 2 ^ 20, 2 ^ 20 + 1]
    waits s && (match s.readTopo probeWave (wv s) 0 0x1000 with | .ok (hd, es) => topoCheck 2 hd es == some (1, 0, 0) | _ => false) &&
    (wv s).region.isNone && (wv s).trap.pend.isNone && next (exec (.translationWalk 0) s) fun t => faulted t == some fTopo) = true := by decide +kernel
theorem test_treeset_canon : runs { s1 with teams := s1.teams.map fun x => (x.1, { x.2 with topo := some [] }) } (.treesetCanon h1) (fun c => c.any && (c.s.team c.w.team).isSome)
    (fun t => (t.team probeTeam).any fun x => x.topo.isNone) = true := by decide +kernel
theorem test_treeset_canon_none : runs s0 (.treesetCanon hp) (fun c => !c.any) (fun t => (pth t 0).pc == pc0 + 1) = true := by decide +kernel
-- R394: the sum of v2 = 1 .. 31, 0 in canonical order: 496 in 32 lanes
theorem test_cred : runs s1 (.cred h1 .add .u32 (.v 4) 2) (fun c => c.any && c.w.barDone.isNone && c.w.span.ckpt.isNone && c.s.waves.all (fun w => !w.2.off) &&
    (c.s.team c.w.team).any fun q => q.creds.isEmpty && q.waves == 1) (fun t => (wv t).regs.vAt 4 9 == 496 && t.ops.isEmpty) = true := by decide +kernel
theorem test_cred_tree : runs { s1 with teams := s1.teams.map fun x => (x.1, { x.2 with topo := some [⟨0x7FF, false, 0⟩, ⟨0, true, 1⟩, ⟨0, true, 2⟩] }) } (.cred h1 .xor .u32 (.s 4) 2) Ctx.any
    (fun t => (wv t).regs.sAt 4 == 3) = true := by decide +kernel
theorem test_cred_waits : runs { s1 with teams := s1.teams.map fun x => (x.1, { x.2 with waves := 2 }) } (.cred h1 .add .u32 (.v 4) 2) Ctx.any (fun t =>
    (wv t).credN == 1 && (pth t 0).wait == .op 0 && (t.team probeTeam).any fun x => x.creds.any fun k => k.2.arrived == [0] && k.2.leaves.length == 32) = true := by decide +kernel

theorem test_sysr : runs s1 (.sysr h1 (.s 6) 0x20) Ctx.any (fun t => (t.op 0).any fun o => o.finished && (o.written rg).sAt 6 == 0) = true := by decide +kernel
theorem test_sysr_priv : runs (s1.modWave probeWave fun w => { w with priv := false }) (.sysr h1 (.v 6) 0x40) (fun c => c.any && !c.w.priv) (fun t =>
    faulted t == some fPrivileged) = true := by decide +kernel
theorem test_sysr_astbase : runs (s1.modDie 0 fun d => { d with astbase := 0x50000 }) (.sysr h1 (.v 6) 0x40) (fun c => c.w.priv) (fun t =>
    (t.op 0).any fun o => (o.written rg).vAt 6 3 == 0x50000) = true := by decide +kernel
theorem test_sysw_priv : runs (s1.modWave probeWave fun w => { w with priv := false }) (.sysw h1 0x40 3) (fun c => c.any && !c.w.priv) (fun t => faulted t == some fPrivileged) = true := by decide +kernel
theorem test_sysw_none : runs s0 (.sysw hp 0x40 3) (fun c => !c.any) (fun t => (pth t 0).pc == pc0 + 1) = true := by decide +kernel
theorem test_sysw_tvec : runs s1 (.sysw h1 0x20 3) Ctx.any (fun t => (wv t).trap.tvec == 5 && (pth t 0).pc == pc0 + 1) = true := by decide +kernel
/-- s3 = `x`. -/
def sx (x : DWord) : State := s1.modWave probeWave fun w => { w with regs := { w.regs with s := [(3, x)] } }
theorem test_sysw_astbase : runs (sx 0xFFFFFFFFFFFFFFFF) (.sysw h1 0x40 3) (fun c => c.any && c.w.priv) (fun t => (t.die 0).astbase == 0x000FFFFFFFFF0000 && (pth t 0).pc == pc0 + 1) = true := by decide +kernel
theorem test_sysw_inval : runs (sx 0x3007) (.sysw h1 0x41 3) (fun c => c.any && c.w.priv) (fun t => t.gen 7 == 1 && (t.op 0).isSome && (pth t 0).pc == pc0 + 1) = true := by decide +kernel
theorem test_sysw_fqbase : runs (sx 0xFFFFFFFFFFFFFFFF) (.sysw h1 0x42 3) (fun c => c.any && c.w.priv) (fun t => (t.die 0).fqbase == 0x000FFFFFFFFF8001) = true := by decide +kernel
theorem test_sysw_fqtail : runs ((sx 3).modDie 0 fun d => { d with fqhead := 5 }) (.sysw h1 0x44 3) (fun c => c.any && c.w.priv) (fun t => (t.die 0).fqtail == 3) = true := by decide +kernel
theorem test_sysw_fqack : runs (sx 9) (.sysw h1 0x45 3) (fun c => c.any && c.w.priv) (fun t => (t.die 0).acks == [⟨9, some 0, 0⟩]) = true := by decide +kernel
-- R421: a second write waits for the first, which is not complete
theorem test_sysw_waits : runs { (after (exec (.sysw h1 0x45 3) (sx 9))) with cur := some (probeWave, 0) } (.sysw h1 0x40 3)
    (fun c => c.any && c.w.priv && (c.s.opsOf c.wk).any fun o => o.2.isSysw) (fun t => (t.die 0).astbase == 0 && (t.op 1).any fun o => o.u == [9] && !o.finished) = true := by decide +kernel
theorem test_sysw_dbgcmd : runs (sx 0) (.sysw h1 0x47 3) (fun c => c.any && c.w.priv) (fun t => (pth t 0).pc == pc0 + 1) = true := by decide +kernel
theorem test_sysw_trace : runs (sx 0xFFFFFFFFFFFFFFFF) (.sysw h1 0x48 3) (fun c => c.any && c.w.priv) (fun t => (t.die 0).trace.base == 0x000FFFFFFFFFFFC0) = true := by decide +kernel
theorem test_sysw_tracectl : runs (sx 0xFFFFFFFE) (.sysw h1 0x4B 3) (fun c => c.any && c.w.priv) (fun t => (t.die 0).trace.ctl == 0x13E) = true := by decide +kernel
theorem test_sysw_cmp : runs (sx 0x77) (.sysw h1 0x5F 3) (fun c => c.any && c.w.priv) (fun t => (tget (t.die 0).cmps 15 {}).addr == 0x77) = true := by decide +kernel
theorem test_sysw_cmpctl : runs (sx 0xF) (.sysw h1 0x60 3) (fun c => c.any && c.w.priv) (fun t => (tget (t.die 0).cmps 0 {}).ctl == 7) = true := by decide +kernel
theorem test_trap : runs s1 (.trap hp 0xBEEF) (fun c => c.any && c.w.trap.pend.isNone && c.w.region.isNone) (fun t =>
    (wv t).trap.pend.any (fun f => f.code == fSoftware && f.pc == pc0 && f.mask == 0x55555555 && f.extra == 0xBEEF) && (pth t 0).pc == pc0) = true := by decide +kernel
theorem test_trap_none : runs s0 (.trap hp 1) (fun c => !c.any) (fun t => (wv t).trap.pend.isNone && (pth t 0).pc == pc0 + 1) = true := by decide +kernel
/-- The launch's fault action is DUMP. -/
def sFact2 : State := s1.modLaunch probeLaunch fun x => { x with hdr := { x.hdr with fact := 2 } }
-- R369: halted from the next cycle on
theorem test_trap_dumps : runs sFact2 (.trap hp 0xBEEF) (fun c => c.any && c.w.trap.pend.isNone && c.w.region.isNone && (c.s.hdr c.w).fact == 2 && c.w.trap.tvec == 0) (fun t =>
    faulted t == some fSoftware && (t.launch probeLaunch).any fun l => l.halt.any (fun h => h.since == 1 && h.dump.isSome) && l.faultCode == fSoftware) = true := by decide +kernel
theorem test_brk_trap : runs s1 (.brk h7 .trap 3) (fun c => c.any && c.w.trap.pend.isNone && c.w.region.isNone) (fun t => faulted t == some fBreak) = true := by decide +kernel
theorem test_brk_halt : runs s1 (.brk h7 .halt 3) (fun c => c.any && (c.s.launch c.w.launch).any fun l => l.halt.isNone && l.st != .done) (fun t =>
    (t.launch probeLaunch).any (fun l => l.halt == some { since := 1 }) && (pth t 0).pc == pc0) = true := by decide +kernel
theorem test_brk_stop : runs s1 (.brk h7 .stop 3) (fun c => c.any && !c.w.trace) (fun t => (pth t 0).stopped && (pth t 0).pc == pc0) = true := by decide +kernel
theorem test_halt : runs s1 (.halt h7) (fun c => c.any && (c.s.launch c.w.launch).any fun l => l.halt.isNone && l.st != .done) (fun t =>
    (t.launch probeLaunch).any (fun l => l.halt == some { since := 1 }) && (pth t 0).pc == pc0 + 1 && t.events == [.halted probeLaunch]) = true := by decide +kernel
theorem test_halt_none : runs s0 (.halt hp) (fun c => !c.any) (fun t => t.events.isEmpty) = true := by decide +kernel
theorem test_trcon : runs s1 (.trcon h7) Ctx.any (fun t => (wv t).trace && (pth t 0).pc == pc0 + 1) = true := by decide +kernel
theorem test_trcoff : runs (s1.modWave probeWave fun w => { w with trace := true }) (.trcoff h7) Ctx.any (fun t => !(wv t).trace && (pth t 0).pc == pc0 + 1) = true := by decide +kernel
theorem test_trcon_none : runs s0 (.trcon hp) (fun c => !c.any) (fun t => !(wv t).trace) = true := by decide +kernel
-- R35, Table 6-7
theorem test_cntrd : runs (s1.modWave probeWave fun w => { w with stalls := [(3, 9)] }) (.cntrd h7 3 (.v 4)) (fun _ => true) (fun t => (wv t).regs.vAt 4 30 == 9) = true := by decide +kernel
theorem test_cntrd_slow : runs (s1.modCore 0 fun c => { c with slow := 2 ^ 40 }) (.cntrd h7 16 (.s 4)) (fun _ => true) (fun t => (wv t).regs.sAt 4 == 0xFFFFFFFF) = true := by decide +kernel

/-- TRAP 5 has been taken with the vector `v` and the fault action `act`. -/
def sFaulted (v : DWord) (act : Nat) : State :=
  after (exec (.trap h7 5) ((mapped s1).modWave probeWave fun w => { w with trap := { w.trap with tvec := v } } ) |> fun o => match o with
    | .next t => .next (t.modLaunch probeLaunch fun x => { x with hdr := { x.hdr with fact := act } })
    | o => o)
/-- What TrapDelivery asks: the record is written. -/
def writesRecord (s : State) : Bool :=
  let v := (wv s).settle s.now
  (wv s).trap.pend.any fun f => (List.range 6).all (fun k => v.ctr k == 0) && (wv s).parked.isEmpty && !(wv s).trace && (wv s).region.isNone && !s.halted v && (wv s).trap.faulted.isNone && s.launches.all (fun l => l.2.aborted.isNone) &&
    match (s.setWave probeWave v).hwWrite probeWave f.slot f.pc f.mask 0x2400 ((s.setWave probeWave v).trapRecord v f) with
    | .done u => (wv s).trap.tvec == 0 || u.targetBad v (wv s).trap.tvec (wv s).trap.tvec == none
    | _ => false
-- R397: Table 28-3's first word is the code, and the handler begins with all remaining lanes
theorem test_delivery : (writesRecord (sFaulted 0x20000002 0) && next (exec (.trapDelivery probeWave) (sFaulted 0x20000002 0)) fun t =>
    (wv t).trap.inHandler && (wv t).slot0 == some { pc := 0x20000002, mask := 0xFFFFFFFF } && (wv t).slot1.isNone && (wv t).trap.pend.isNone &&
    (t.l1Byte 0 0 0x202400).toNat == fSoftware) = true := by decide +kernel
theorem test_delivery_none : (writesRecord (sFaulted 0 0) && next (exec (.trapDelivery probeWave) (sFaulted 0 0)) fun t =>
    (wv t).trap.faulted == some true && t.events.contains (.faulted probeWave true) && (pth t 0).pc == pc0) = true := by decide +kernel
theorem test_delivery_abort : next (exec (.trapDelivery probeWave) (sFaulted 0 1)) (fun t =>
    (t.launch probeLaunch).any fun l => l.aborted == some 12 && l.faultCode == fSoftware) = true := by decide +kernel
theorem test_delivery_waits : (let s := (sFaulted 0x20000002 0).modWave probeWave fun w => { w with c := [(1, 1)] }
    ((wv s).settle s.now).ctr 1 == 1 && next (exec (.trapDelivery probeWave) s) fun t => (wv t).trap.pend.isSome && !(wv t).trap.inHandler) = true := by decide +kernel
theorem test_delivery_halted : (let s := (sFaulted 0x20000002 0).modLaunch probeLaunch fun x => { x with halt := some {} }
    s.halted ((wv s).settle s.now) && next (exec (.trapDelivery probeWave) s) fun t => (wv t).trap.pend.isSome && !(wv t).trap.inHandler) = true := by decide +kernel
/-- In the handler, about to issue ERET. -/
def sHandler : State := { (after (exec (.trapDelivery probeWave) (sFaulted 0x20000002 0))) with cur := some (probeWave, 0) }
-- R399: the path returns to the TRAP
theorem test_eret : runs sHandler (.eret h7) (fun c => c.w.trap.inHandler && (c.s.opsOf c.wk).isEmpty && !c.w.trace && (List.range 6).all (fun k => c.w.ctr k == 0) &&
    (match c.s.hwLoad c.w 0x2400 0x190 with
      | .ok bs => bs.length == 0x190 && leNat ((bs.drop 4).take 1) == 0 && leNat ((bs.drop 0x64).take 4) == 0 && c.w.trap.handled.isSome && (pathOf ((bs.drop 0x30).take 16)).any (fun p => pcForm p.pc && p.mask != 0 && (p.mask &&& ~~~ c.w.lanesLeft) == 0 && p.depth == 0 && !p.jw) && leNat ((bs.drop 0x50).take 4) == 0 && (pathOf ((bs.drop 0x40).take 16)).isNone
      | _ => false)) (fun t => (pth t 0).pc == pc0 && (pth t 0).mask == 0xFFFFFFFF && !(wv t).trap.inHandler && (wv t).trap.handled.isNone) = true := by decide +kernel
theorem test_eret_outside : runs s1 (.eret h7) (fun c => !c.w.trap.inHandler) (fun t => faulted t == some fPrivileged) = true := by decide +kernel
theorem test_eret_holds : runs ((sHeld (.st h1 .default .w32 8 ms)).modWave probeWave fun w => { w with trap := { w.trap with inHandler := true } }) (.eret h7)
    (fun c => c.w.trap.inHandler && !(c.s.opsOf c.wk).isEmpty) (fun t => (pth t 0).blk == some 1) = true := by decide +kernel

/-! ## Steps without an encoding (WaveSteps to HostSteps) -/

/-- The step changes nothing. -/
def stays (s : State) (i : Instr) : Bool := next (exec i s) (· == s)
/-- `s0` with its path changed. -/
def sp (f : Path → Path) : State := sw fun w => { w with slot0 := w.slot0.map f }
theorem test_hold_ends : next (exec (.stallCountExpiry probeWave 0) (sp fun p => { p with hold := some 0 })) (fun t => t == sp id) = true := by decide +kernel
theorem test_hold_stays : next (exec (.stallCountExpiry probeWave 0) (sp fun p => { p with hold := some 3 })) (fun t => (pth t 0).hold == some 3) = true := by decide +kernel
theorem test_sleep_ends : next (exec (.sleepExpiry probeWave 0) (sp fun p => { p with wait := .sleep 0 })) (fun t => t == sp id) = true := by decide +kernel
theorem test_sleep_stays : next (exec (.sleepExpiry probeWave 0) (sp fun p => { p with wait := .sleep 2 })) (fun t => (pth t 0).wait == .sleep 2) = true := by decide +kernel
theorem test_miss_fill : (let s := { sp (fun p => { p with miss := true }) with icache := [] }
    s.codePa (wv s) pc0 == some (probePa, 0) && next (exec (.icacheMissFill probeWave 0) s) fun t => !(pth t 0).miss &&
      (tget ((tfind t.icache 0).getD []) (probePa / 128) []).length == 128 && (tget ((tfind t.icache 0).getD []) (probePa / 128) []).take 12 == s.l2Read 0 probePa 12) = true := by decide +kernel
theorem test_miss_none : stays s0 (.icacheMissFill probeWave 0) = true := by decide +kernel
-- R60: the decrement of cycle 0 is due, that of cycle 5 is not
-- R222: a table of the line's translation lies in a line that a team has pinned
theorem test_miss_held : (let s := { (sp fun p => { p with miss := true }) with icache := [], pins := [(0, ⟨99, 0⟩)] }
    s.codeHeld (wv s) pc0 && stays s (.icacheMissFill probeWave 0)) = true := by decide +kernel
theorem test_decrement : next (exec (.counterDecrement probeWave) (sw fun w => { w with c := [(1, 2), (2, 1)], due := [(1, 0), (2, 5)] })) (fun t =>
    (wv t).ctr 1 == 1 && (wv t).ctr 2 == 1 && (wv t).due == [(2, 5)]) = true := by decide +kernel
theorem test_overdue : (next (exec (.overdueWave probeWave) (sw fun w => { w with passed := 256 })) (fun t => (wv t).overdue) &&
    next (exec (.overdueWave probeWave) (sw fun w => { w with passed := 255 })) fun t => !(wv t).overdue) = true := by decide +kernel
/-- A load whose lanes are to be translated. -/
def sWalk : State := after (exec (.ld h1 .default false .w32 2 mv) sm)
theorem test_walk : ((sWalk.op 0).any (fun o => o.isMem && !o.isRing && !o.isHldm && !o.inBody && !o.walked && !o.finished && o.holding &&
      ((lanes o.todo).filter fun l => !o.ready l).all fun l => (sWalk.laneFault (wv sWalk) o l).isNone) && (wv sWalk).parked.isEmpty &&
    next (exec (.translationWalk 0) sWalk) fun t => (pth t 0).wait == .none && (pth t 0).pc == pc0 + 1 && (t.op 0).any fun o => o.walked && o.seg 2 == [⟨.phys 0x201008 0 0, 4⟩]) = true := by decide +kernel
/-- In a replay without chunks, lane 2's request has stood at the gate since cycle 7; it is cycle `n`. -/
def sGated (n : Nat) : State :=
  { (sAtom .die).modLaunch probeLaunch (fun x => { x with hdr := { x.hdr with rrmode := 2 } }) with
    now := n, ops := (sAtom .die).ops.map fun x => (x.1, { x.2 with gated := [(2, 7)] }) }
theorem test_gate_ends : (((sGated 0).op 0).any (fun o => (sGated 0).gateShut o 2 && !(sGated 0).logHeld o.launch) && next (exec (.gateTimeout 0 2) (sGated (2 ^ 24 + 7))) (fun t => (t.launch probeLaunch).any fun l => l.rr.cause == some 3 && l.halt == some { diverge := true })) = true := by decide +kernel
theorem test_gate_stays : stays (sGated (2 ^ 24 + 6)) (.gateTimeout 0 2) = true := by decide +kernel
/-- A wave without paths in a team of `n`, whose record at 0x80_0000 is mapped. -/
def sDone (n : Nat) : State := { (sw fun w => { w with slot0 := none }).modDie 0 fun d => { d with tlb := [⟨0, 0, 4, 21, 0x400103⟩] } with teams := s0.teams.map fun x => (x.1, { x.2 with waves := n }) }
theorem test_retire : (!(sDone 2).stillHalted (wv (sDone 2)) && next (exec (.waveRetire probeWave) (sDone 2)) fun t =>
    (t.wave probeWave).isNone && (t.team probeTeam).any fun q => q.exited == [0]) = true := by decide +kernel
-- R399: a handler has rewritten the record against R24 to R30
theorem test_retire_broken : (let s := (sDone 2).modWave probeWave fun w => { w with trap := { w.trap with broken := true } }
    !s.halted (wv s) && (match exec (.waveRetire probeWave) s with | .fault .pathStateBroken => true | _ => false)) = true := by decide +kernel
theorem test_retire_halted : (let s := (sDone 2).modLaunch probeLaunch fun x => { x with halt := some {} }
    s.halted (wv s) && stays s (.waveRetire probeWave)) = true := by decide +kernel
theorem test_retire_not : stays s0 (.waveRetire probeWave) = true := by decide +kernel
theorem test_preempt_none : stays s0 (.preemption probeWave) = true := by decide +kernel
/-- A pre-emption has been ordered, in an open span or outside one. -/
def sPre (open_ : Bool) : State :=
  (after (exec (.span h7 ⟨1, 2⟩ ⟨0xFF, 0⟩ ⟨0xFF, 0⟩ ⟨0xFF, 0⟩) (mapped s1))).modWave probeWave fun w =>
    { w with preempt := some .repack, span := if open_ then w.span else {} }
theorem test_preempt : ((wv (sPre true)).span.ckpt.isSome && (wv (sPre true)).span.isOpen && (wv (sPre true)).preempt.isSome && next (exec (.preemption probeWave) (sPre true)) fun t =>
    (wv t).off && (wv t).preempt.isNone && (wv t).span == (wv (sPre true)).span && t.mem == (sPre true).mem) = true := by decide +kernel
theorem test_preempt_halted : (let s := (sPre true).modLaunch probeLaunch fun x => { x with halt := some { complete := true } }
    s.stillHalted (wv s) && stays s (.preemption probeWave)) = true := by decide +kernel
theorem test_preempt_deferred : ((wv (sPre false)).span.ckpt.isNone && !(sPre false).switchWait (wv (sPre false)) && next (exec (.preemption probeWave) (sPre false)) fun t =>
    (wv t).preempt.isSome && !(wv t).off) = true := by decide +kernel
/-- One entry waits for room in die 0's fault queue; the queue is enabled or not. -/
def fqe (q : Option (BitVec 16)) (op : Option Nat) : FqEntry :=
  { va := 0x1000, pc := pc0, mask := 1, seq := q, gen := 0, asid := 0, cause := 0, kind := 0, path := 0, wslot := 0, core := 0, team := 0, wave := probeWave, op := op }
def sFq (base : DWord) : State := sWalk.modDie 0 fun d => { d with fqbase := base, fqhead := 9, fq := [fqe none (some 0)] }
theorem test_fq_write : (((sFq 0x8001).die 0).fqRoom && next (exec (.faultEntryDeferredWrite 0) (sFq 0x8001)) fun t =>
    (t.die 0).fqhead == 10 && (t.die 0).fq == [fqe (some 9) (some 0)] && t.events == [.fault 0 9]) = true := by decide +kernel
theorem test_fq_full : (!((sFq 0x8000).die 0).fqRoom && stays (sFq 0x8000) (.faultEntryDeferredWrite 0)) = true := by decide +kernel
theorem test_fqack : next (exec (.fqackWrite 0 4) (sFq 1)) (fun t => (t.die 0).acks == [⟨4, none, 0⟩]) = true := by decide +kernel
theorem test_fqtail : (next (exec (.fqtailWrite 0 4) (sFq 1)) (fun t => (t.die 0).fqtail == 4) && next (exec (.fqtailWrite 0 10) (sFq 1)) fun t => (t.die 0).fqtail == 0) = true := by decide +kernel
/-- The entry is written and acknowledged; the wave is parked on its operation. -/
def sAck : State := { (sWalk.modDie 0 fun d => { d with fq := [fqe (some 4) (some 0)], acks := [⟨4, none, 0⟩, ⟨5, none, 0⟩] }).modWave probeWave (fun w => { w with parked := [0] }) with now := 1 }
theorem test_completion_apply : next (exec (.faultCompletionApply 0) sAck) (fun t => (t.die 0).acks == [⟨5, none, 0⟩] && (t.die 0).fq.isEmpty && (wv t).parked.isEmpty && (t.op 0).any fun o => !o.walked) = true := by decide +kernel
theorem test_completion_none : stays sWalk (.faultCompletionApply 0) = true := by decide +kernel
theorem test_completion_pgreq : (let s := (after (exec (.pgreq h1 mv) (sm.modDie 0 fun d => { d with tlb := [] }))).modDie 0 fun d => { d with fq := [fqe (some 4) (some 0)], acks := [⟨4, none, 0⟩] }
    let s : State := { s with now := 1 }
    (s.op 0).isSome && next (exec (.faultCompletionApply 0) s) fun t => (t.op 0).isNone && (wv t).due == [(1, 2)]) = true := by decide +kernel
theorem test_completion_early : stays { sAck with now := 0 } (.faultCompletionApply 0) = true := by decide
-- R421: the completion that a SYSW ordered ends it
theorem test_completion_sysw : (let s := { after (exec (.sysw h1 0x45 3) (sw fun w => { w with regs := { s := [(3, 9)] } })) with now := 1 }
    (s.die 0).acks == [⟨9, some 0, 0⟩] && (s.op 0).any (fun o => o.writes.isEmpty) && next (exec (.faultCompletionApply 0) s) fun t => (t.die 0).acks.isEmpty && t.ops.isEmpty && (wv t).ctr 1 == 0) = true := by decide
theorem test_asgen : next (exec (.asgenWrite 3) s0) (fun t => t.gen 3 == 1 && t.gen 2 == 0) = true := by decide +kernel
theorem test_asgen_waits : stays { sLd with asgen := [⟨3, [(0, 2)], none, false, [], []⟩] } (.asgenDrainComplete 3) = true := by decide +kernel
theorem test_asgen_drained : next (exec (.asgenDrainComplete 3) { s0 with asgen := [⟨3, [(0, 2)], none, false, [], []⟩] }) (fun t => t == s0) = true := by decide +kernel
theorem test_sysreg_write : (next (exec (.systemRegisterWrite 0 0x40 0xFFFFFFFFFFFFFFFF) s0) (fun t => (t.die 0).astbase == 0x000FFFFFFFFF0000) &&
    next (exec (.systemRegisterWrite 1 0x42 0xFFFFFFFFFFFFFFFF) s0) (fun t => (t.die 1).fqbase == 0x000FFFFFFFFF8001) &&
    next (exec (.systemRegisterWrite 0 0x4B 0xFFFFFFFF) s0) (fun t => (t.die 0).trace.ctl == 0x13F) &&
    next (exec (.systemRegisterWrite 0 0x6F 0xF) s0) fun t => (tget (t.die 0).cmps 15 {}).ctl == 7) = true := by decide +kernel
theorem test_repack : ((s0.teams.find? fun t => t.2.die == 0 && t.2.core == 0 && t.2.base == some (256 * 0) && !t.2.freed).isSome && next (exec (.repack 0 0 0) s0) fun t =>
    (t.die 0).repacking == [probeTeam] && (wv t).preempt == some .repack) = true := by decide +kernel
theorem test_sync : (stays (s0.modDie 0 fun d => { d with trace := { d.trace with sinceSync := 4095 } }) (.tracePeriodicSync 0) &&
    next (exec (.tracePeriodicSync 0) (s0.modDie 0 fun d => { d with trace := { d.trace with sinceSync := 4096 } })) fun t => (t.die 0).trace.sinceSync == 0) = true := by decide +kernel
/-- The launch stands as `h` says. -/
def sHalt (h : Option HaltSt) : State := s0.modLaunch probeLaunch fun x => { x with halt := h }
theorem test_debug_halt : next (exec (.debugHalt probeLaunch) s0) (fun t => t == sHalt (some {})) = true := by decide +kernel
theorem test_debug_resume : next (exec (.debugResume probeLaunch) (sHalt (some { complete := true }))) (fun t => t == s0) = true := by decide +kernel
theorem test_debug_kill : next (exec (.debugKill probeLaunch) s0) (fun t => (t.launch probeLaunch).any fun l => l.aborted == some 13) = true := by decide +kernel
theorem test_halt_complete : ((sHalt (some {})).ops.isEmpty && next (exec (.haltComplete probeLaunch) (sHalt (some {}))) fun t => t.launches == (sHalt (some { complete := true })).launches) = true := by decide +kernel
theorem test_halt_complete_done : stays (sHalt (some { complete := true })) (.haltComplete probeLaunch) = true := by decide +kernel
theorem test_debug_dump_not : stays (sHalt (some {})) (.debugDump probeLaunch) = true := by decide +kernel
/-- The launch's dump area is mapped, at 0; it has no team any more. -/
def sDump (h : HaltSt) : State :=
  { (mapped (sHalt (some h))).modLaunch probeLaunch fun x => { x with hdr := { x.hdr with dumpsz := 128 } } with teams := [] }
/-- What a dump comes to: 0 it waits, 1 it fails, 2 it is written. -/
def dumps (s : State) (f : Option (Nat × FaultRec)) : Option Nat :=
  (s.launch probeLaunch).map fun l => match s.dump probeLaunch l f with | .held => 0 | .failed => 1 | .wrote _ => 2
theorem test_debug_dump : (dumps (sDump { complete := true }) none == some 2 && dumps (sHalt (some { complete := true })) none == some 1 &&
    dumps { sDump { complete := true } with pins := [(0x4000, ⟨99, 0⟩)] } none == some 0) = true := by decide +kernel
/-- A dump that a fault has ordered. -/
def hd : HaltSt := { complete := true, dump := some (probeWave, { code := 7, pc := pc0 }) }
theorem test_dump_write : (dumps (sDump hd) hd.dump == some 2 && next (exec (.dumpWrite probeLaunch) (sDump hd)) fun t =>
    (t.launch probeLaunch).any fun l => l.aborted == some 10 && l.faultCode == 7) = true := by decide +kernel
theorem test_diverge_end : next (exec (.replayDivergeEnd probeLaunch) (sHalt (some { complete := true, diverge := true }))) (fun t => (t.launch probeLaunch).any fun l => l.aborted == some 9) = true := by decide +kernel
theorem test_debug_stop : ((s0.waveAt 0 0 0).map (·.1) == some probeWave && (wv s0).slotAt 0 == some 0 && next (exec (.debugStop 0 0 0 0) s0) fun t => (pth t 0).stopped && t.mem == s0.mem) = true := by decide +kernel
theorem test_debug_stop_again : stays (sp fun p => { p with stopped := true }) (.debugStop 0 0 0 0) = true := by decide +kernel
theorem test_debug_go : (next (exec (.debugGo 0 0 0 0) (sp fun p => { p with stopped := true })) (fun t => !(pth t 0).stopped) && stays s0 (.debugGo 0 0 0 0)
    && stays (sw fun w => { w with trap := { w.trap with faulted := some false } }) (.debugGo 0 0 0 0)) = true := by decide +kernel
theorem test_debug_step : (next (exec (.debugStep 0 0 0 0) (sp fun p => { p with stopped := true })) (fun t => (pth t 0).oneStep) && stays s0 (.debugStep 0 0 0 0)) = true := by decide +kernel

/-- A second launch `x`. -/
def sLn (x : Launch) : State := { s0 with launches := s0.launches ++ [(2 ^ 70, x)] }
def ln : Launch := { home := 0, qseq := 1, hdr := { g := 2, dmax := 1, v := 8, stages := [⟨0, 0, 1, pc0⟩] } }
def ln2 (t : State) : Option Launch := t.launch (2 ^ 70)
theorem test_eligible : ((sLn ln).eligible ln && next (exec (.launchEligible (2 ^ 70)) (sLn ln)) fun t => ln2 t == some { ln with st := .eligible }) = true := by decide +kernel
/-- The same, that depends on a launch of LID 5 that runs. -/
def lnDep : Launch := { ln with order := 3, hdr := { ln.hdr with dep0 := 5 } }
def sDep : State := (sLn lnDep).modLaunch probeLaunch fun x => { x with hdr := { x.hdr with lid := 5 } }
theorem test_eligible_not : (!sDep.eligible lnDep && stays sDep (.launchEligible (2 ^ 70))) = true := by decide +kernel
def bd : BindArgs := { launch := 2 ^ 70, wpc := 4, dieList := [1], stagger := 0, cores := 1 }
def lnEl : Launch := { ln with st := .eligible }
theorem test_bind_record : ((sLn lnEl).eligible lnEl && (sLn lnEl).bindsFirst (2 ^ 70) lnEl && (sLn lnEl).bindOk bd lnEl && ((sLn lnEl).die 1).freeSlot == some 0 && next (exec (.bindRecordWrite bd) (sLn lnEl)) fun t =>
    ln2 t == some { ln with st := .running, dieList := [1], d := 1 } && tfind (t.die 1).slots 0 == some { valid := true, dielo := 1, diehi := 1, wpc := 4, qidx := 1, clfirst := 0, cllast := 1, cores := 1, launch := 2 ^ 70 }) = true := by decide +kernel
def lnOpp : Launch := { ln with st := .running, oppOk := true, dieList := [1], d := 1, hdr := { ln.hdr with opp := 3 } }
theorem test_opp_change : (lnOpp.honoured && !(sLn lnOpp).otherTeams 1 (2 ^ 70) && next (exec (.oppChange (2 ^ 70)) (sLn lnOpp)) fun t => (t.die 1).oppPend == some 3 && t.launches == (sLn lnOpp).launches) = true := by decide +kernel
theorem test_opp_not : stays (sLn ln) (.oppChange (2 ^ 70)) = true := by decide +kernel
theorem test_opp_stable : (next (exec (.operatingPointStable 1) (s0.modDie 1 fun d => { d with oppPend := some 4 })) (fun t => (t.die 1).opp == 4 && (t.die 1).oppPend.isNone) && stays s0 (.operatingPointStable 1)) = true := by decide +kernel
def lnOver : Launch := { ln with st := .running, dieList := [1], d := 1, dispatched := [0, 1] }
theorem test_launch_complete : ((sLn lnOver).launchOver (2 ^ 70) lnOver && next (exec (.launchComplete (2 ^ 70)) (sLn lnOver)) fun t => (ln2 t).any fun l => l.st == .done && !l.owed) = true := by decide +kernel
/-- A killed wave's team record at 0x1000 is owed. -/
def sOwes : State := (mapped s0).modLaunch probeLaunch fun x => { x with st := .running, owes := [{ die := 0, addr := 0x1000, bytes := [7], entry := 5 }] }
theorem test_launch_owes : ((match sOwes.asidWrite 0 0 0x1000 [7] with | .ok u => u.launches == sOwes.launches | .error _ => false) &&
    next (exec (.launchComplete probeLaunch) sOwes) fun t => (t.launch probeLaunch).any (·.owes.isEmpty) && memGet t.mem 0x201000 == 7) = true := by decide +kernel
theorem test_launch_not_over : ((s0.launch probeLaunch).any (fun l => !s0.launchOver probeLaunch l) && stays s0 (.launchComplete probeLaunch)) = true := by decide +kernel
/-- A completion is owed to a ring at 0x1000 of elements of 16 bytes at 0x1800, of `cap` elements of which one is full. -/
def sRingOwed (lc : Nat) : State :=
  let l : Launch := { ln with st := .done, owed := true, hdr := { ln.hdr with cring := 0x1000 } }
  { mapped (sLn l) with mem := memWrite s0.mem 0x201000 (leBytes 8 0x1800 ++ leBytes 8 0 ++ leBytes 8 1 ++ [BitVec.ofNat 8 lc, 2]) }
theorem test_ring_retry : (((ln2 (sRingOwed 1)).bind fun l => (sRingOwed 1).ringPush 0 0 0x1000 l.completion).isSome && next (exec (.completionRingRetry (2 ^ 70)) (sRingOwed 1)) fun t =>
    (ln2 t).any (fun l => !l.owed && l.st == .done) && memGet t.mem 0x201010 == 2) = true := by decide +kernel
theorem test_ring_retry_full : (((ln2 (sRingOwed 0)).bind fun l => (sRingOwed 0).ringPush 0 0 0x1000 l.completion).isNone && next (exec (.completionRingRetry (2 ^ 70)) (sRingOwed 0)) fun t =>
    (ln2 t).any fun l => l.owed) = true := by decide +kernel
theorem test_ring_retry_none : stays s0 (.completionRingRetry probeLaunch) = true := by decide +kernel
/-- Every wave waits at the first boundary. -/
def sBound : State := (after (exec (.stepmk h1 3) s1)).modLaunch probeLaunch fun x => { x with dispatched := [0], hdr := { x.hdr with g := 1 } }
theorem test_boundary : (((sBound.launch probeLaunch).any fun l => l.allDispatched && sBound.atBoundary probeLaunch l && l.dieList.length == l.d && l.hdr.dmin ≤ 1 && 1 ≤ l.hdr.dmax && l.st == .running) &&
    next (exec (.stepBoundary probeLaunch 1) sBound) fun t => (t.launch probeLaunch).any (fun l => l.boundary == 1 && l.d == 1) && t.ops.isEmpty && (pth t 0).pc == pc0 + 1 && !(wv t).regs.pAt 3 0) = true := by decide +kernel
theorem test_boundary_not : stays s1 (.stepBoundary probeLaunch 1) = true := by decide +kernel
/-- The wave of the cluster has been taken off. -/
def sOff : State := s0.modWave probeWave fun w => { w with off := true }
theorem test_switch : ((sOff.clusterTeams probeLaunch 0).length == 1 && next (exec (.contextSwitch probeLaunch 0) sOff) fun t => (t.team probeTeam).any fun q => q.out && q.base.isNone && q.gran.isEmpty) = true := by decide +kernel
/-- It has been switched out; its bind record allows core 3. -/
def sOut : State := (after (exec (.contextSwitch probeLaunch 0) sOff)).modDie 0 fun d => { d with slots := [(0, { valid := true, wpc := 4, clfirst := 0, cllast := 0, cores := 8, launch := probeLaunch })] }
theorem test_restore : (((sOut.launch probeLaunch).bind fun l => (sOut.team probeTeam).bind fun q => sOut.restoreTeam l { valid := true, wpc := 4, cores := 8, launch := probeLaunch } probeTeam q 3).isSome &&
    next (exec (.contextRestore probeLaunch 0 [3]) sOut) fun t => (t.team probeTeam).any fun q => !q.out && q.core == 3 && q.base == some 0) = true := by decide +kernel
/-- A record of a running launch of two clusters on die 1. -/
def sSlot (f : BindRec → BindRec) : State :=
  (sLn { ln with st := .running, dieList := [1], d := 1 }).modDie 1 fun d => { d with slots := [(0, f { valid := true, wpc := 4, cllast := 1, cores := 1, launch := 2 ^ 70 })] }
theorem test_bind_clear : next (exec (.bindRecordWrite { bd with wpc := 0 }) (sSlot id)) (fun t => (t.die 1).slots.map (fun b => (b.2.valid, b.2.next)) == [(false, 0)]) = true := by decide +kernel
theorem test_bind_again : next (exec (.bindRecordWrite { bd with cores := 6 }) ((sSlot fun b => { b with valid := false, next := 1 }).modLaunch (2 ^ 70) fun l => { l with dispatched := [0] }))
    (fun t => (t.die 1).slots.map (fun b => (b.2.valid, b.2.clfirst, b.2.cores)) == [(true, 1, 6)]) = true := by decide +kernel
theorem test_dispatch : next (exec (.dispatchStep 1) (sSlot id)) (fun t =>
    (ln2 t).any (fun l => l.dispatched == [0]) && (tfind (t.die 1).slots 0).any (fun b => b.next == 1 && b.last == some 0) && (t.team (teamKey (2 ^ 70) 0 0)).any fun q => q.die == 1 && q.base == some 0 && q.waves == 1 && !q.begun) = true := by decide +kernel
theorem test_dispatch_not : stays (sSlot fun b => { b with next := 2 }) (.dispatchStep 1) = true := by decide +kernel
/-- Every second granule of die 1's core 0 is taken, for 4,096 cycles; a team needs two. -/
def sFrag (sent : Bool) : State :=
  let s := sSlot fun b => { b with fragSince := some 0, fragSent := sent }
  ({ s with now := 4096 }.modLaunch (2 ^ 70) fun l => { l with hdr := { l.hdr with v := 64 } }).modCore (coreKey 1 0) fun c => { c with grans := (List.range 256).map fun k => (2 * k, .reg 0) }
theorem test_fragmentation : (((sFrag false).launch (2 ^ 70)).any (fun l => (sFrag false).fragPolder 1 { cores := 1, wpc := 4, launch := 2 ^ 70 } l.hdr == some 0) && next (exec (.fragmentationEvent 1 0) (sFrag false)) fun t =>
    t.events == [.fragmentation 1 0 0 0] && (tfind (t.die 1).slots 0).any (·.fragSent)) = true := by decide +kernel
theorem test_fragmentation_sent : stays (sFrag true) (.fragmentationEvent 1 0) = true := by decide +kernel
theorem test_drain : next (exec (.granuleDrainComplete 0 7) (s0.modCore 0 fun c => { c with grans := [(7, .drain)], drains := [(7, .reg 3)] })) (fun t =>
    (t.core 0).drains.isEmpty && tfind (t.core 0).grans 7 == some (.reg 3)) = true := by decide +kernel
-- R82: a granule that its team has given up is in CACHE
theorem test_drain_loose : next (exec (.granuleDrainComplete 0 7) (s0.modCore 0 fun c => { c with grans := [(7, .drain)], drains := [(7, .cache)] })) (fun t =>
    (t.core 0).drains.isEmpty && (t.core 0).grans.isEmpty) = true := by decide +kernel
/-- The team waits for its first issue. -/
def sFirst : State :=
  (s0.modTeam probeTeam fun x => { x with begun := false }).modDie 0 fun d => { d with slots := [(2, { valid := true, launch := probeLaunch, waiting := [probeTeam], stagger := 9 })] }
theorem test_first_issue : next (exec (.teamFirstIssue probeTeam) sFirst) (fun t => (t.team probeTeam).any fun q => q.begun) = true := by decide +kernel
theorem test_first_owner : (let s := s0.modLaunch probeLaunch fun x => { x with hdr := { x.hdr with det := true } }
    (s.core 0).owner.isNone && s.pickOwner 0 == some probeWave && next (exec (.deterministicFirstOwner 0) s) fun t => (t.core 0).owner == some probeWave) = true := by decide +kernel
theorem test_first_owner_not : stays (s0.modCore 0 fun c => { c with owner := some 3 }) (.deterministicFirstOwner 0) = true := by decide +kernel

def hostPa : Nat := 0x8000000000000
/-- What the configuration image says: die d's rings lie in host memory, and module 7 behind port 0. -/
def ci : CfgImage :=
  { policy := 1, poolBase := 0, poolPages := 8, poolSlot := 3, rings := (List.range 8).map fun d => (hostPa + 96 * d, hostPa + 96 * d + 32, hostPa + 96 * d + 64)
    privRing := [true, false, false, false, false, false, false, false], peers := [[7]] }
def sa : StartArgs := { trainOk := true, repairOk := true, selfTestOk := true, inRings := [] }
/-- The images and a retained block stand in host memory; `fw` is signed firmware. -/
def sStart (fw : List (List Byte)) : State :=
  { s1 with
    world := { firmware := fw, configs := [([4, 5], ci)], retained := [[6]] }
    boot := { s1.boot with fwimg := 0x8000000001000, cfgimg := 0x8000000002000, retain := 0x8000000003000 }
    mem := memWrite (memWrite (memWrite s1.mem (hostPa + 0x1000) [1, 2, 3]) (hostPa + 0x2000) [4, 5]) (hostPa + 0x3000) [6] }
theorem test_start_warm : ((sStart [[1, 2, 3]]).cleared.startFails sa true == none && next (exec (.startWarm sa) (sStart [[1, 2, 3]])) fun t =>
    t.waves.isEmpty && t.boot.st == 2 && t.boot.stage == 0x90 && t.boot.mode == 2 && (t.die 0).priv && (t.die 7).rings.1 == hostPa + 96 * 7 && (t.keyOf 3).loaded) = true := by decide +kernel
theorem test_start_cold : ((sStart [[1, 2, 3]]).cleared.startFails sa false == none && (sStart [[1, 2, 3]]).cleared.startFails { sa with trainOk := false } false == some 0x30) = true := by decide +kernel
-- Table 31-2: the image at hx.fwimg carries no good signature
theorem test_start_fails : ((sStart [[1, 2]]).cleared.startFails sa true == none && (sStart [[2]]).cleared.startFails sa true == some 0x10 && next (exec (.startWarm sa) (sStart [[2]])) fun t =>
    t.boot.st == 3 && t.boot.stage == 0x10 && t.boot.wfail == 1 && t.waves.isEmpty && t.mem == (sStart [[2]]).mem) = true := by decide +kernel
theorem test_start_running : stays { s0 with boot := { s0.boot with st := 1 } } (.startCold sa) = true := by decide +kernel
theorem test_start_wfail : stays { s0 with boot := { s0.boot with wfail := 3 } } (.startWarm sa) = true := by decide +kernel
/-- The module runs, and die 0's request ring has HEAD 0, TAIL `n` and one request of operation `op` with tag 5. -/
def sReq (n op : Nat) : State :=
  { s0 with boot := { s0.boot with st := 2 }, mem := memWrite (memWrite [] hostPa (leBytes 8 (hostPa + 0x100) ++ leBytes 8 0 ++ leBytes 8 n ++ [2, 2])) (hostPa + 0x100) (leBytes 16 (5 * 2 ^ 48 + op)) }.modDie 0 fun d =>
    { d with rings := (hostPa, hostPa + 32, 0) }
theorem test_poll : ((sReq 1 4).running && !(sReq 1 4).keyOwed 0 && (sReq 1 4).again.isEmpty && !(sReq 1 4).hostHeld hostPa 32 && !(sReq 1 4).hostHeld (hostPa + 0x100) 16 && ((sReq 1 4).hostRing hostPa).any (fun b => b.tail == 1 && b.head == 0) && next (exec (.requestRingPoll 0 0) (sReq 1 4)) fun t =>
    t.agenda == [.ev (.measure { die := 0, ring := 0, addr := 0, tag := 5, asid := 0, target := 0, op := 4 })] && memGet t.mem (hostPa + 8) == 1) = true := by decide +kernel
theorem test_poll_empty : stays (sReq 0 4) (.requestRingPoll 0 0) = true := by decide +kernel
theorem test_poll_off : stays s0 (.requestRingPoll 0 0) = true := by decide +kernel
def rq : Request := { die := 0, ring := 0, addr := 0x1000, tag := 5, asid := 0, target := 0, op := 9 }
def sRun (m : Memory) : State := { mapped (s0.modDie 0 fun d => { d with qnext := 1 }) with boot := { s0.boot with st := 2 }, mem := m }
theorem test_badop : (((sRun s0.mem).die 0).replies.isEmpty && ((sRun s0.mem).hostRing 0).isNone && next (exec (.badop rq) (sRun s0.mem)) fun t =>
    (t.die 0).replies == [5 * 2 ^ 48 + 0x109]) = true := by decide +kernel
theorem test_start : (queued ((sRun launchMem).checkLaunch 0 0 0 0x1000 false false) && next (exec (.start rq) (sRun launchMem)) fun t => (t.launch (launchKey 0 1)).any fun l => l.st == .queued) = true := by decide +kernel
theorem test_start_refused : (refusedWith ((sRun s0.mem).checkLaunch 0 0 0 0x1000 false false) 1 && next (exec (.start rq) (sRun s0.mem)) fun t => t.launches == s0.launches) = true := by decide +kernel
theorem test_start_parks : ((match (sRun launchMem).checkLaunch 0 0 0 0x300000 false false with | .park .. => true | _ => false) &&
    next (exec (.start { rq with addr := 0x300000 }) (sRun launchMem)) fun t => t.launches == s0.launches) = true := by decide +kernel
/-- A table of its translation lies in a line that a team has pinned. -/
def sRunPinned : State := { (sRun launchMem).modDie 0 (fun d => { d with tlb := [] }) with pins := [(0, ⟨99, 0⟩)] }
theorem test_start_waits : ((match sRunPinned.checkLaunch 0 0 0 0x1000 false false with | .wait => true | _ => false) &&
    next (exec (.start rq) sRunPinned) fun t => t == sRunPinned.later rq) = true := by decide +kernel
theorem test_keyload_denied : next (exec (.keyload { rq with ring := 1 }) (sRun s0.mem)) (fun t => t.keys == s0.keys) = true := by decide +kernel
theorem test_poolreg_denied : next (exec (.poolreg { rq with ring := 1 }) (sRun s0.mem)) (fun t => (t.die 0).pool.isNone) = true := by decide +kernel
/-- A pool of 2 slots at 0x1000, marks 2 and 1, one sequence of `st` at 0x1400, a free-slot ring at 0x1100 with `free` elements. -/
def poolMem (st free : Nat) : Memory :=
  memWrite (memWrite (memWrite [] 0x201000 (leBytes 64 (0x1800 * 2 ^ 448 + 0x1400 * 2 ^ 384 + 1 * 2 ^ 352 + 128 * 2 ^ 320 + 2 * 2 ^ 288 + 1 * 2 ^ 256 + 0x1100)))
    0x201100 (leBytes 8 0x1200 ++ leBytes 8 0 ++ leBytes 8 free ++ [2, 0])) 0x201400 (leBytes 64 (2 ^ 256 + 0x1500 * 2 ^ 320 + st))
def sPool (st free : Nat) : State := (sRun (poolMem st free)).modDie 0 fun d => { d with pool := some { asid := 0, block := 0x1000 } }
theorem test_poolreg : (match (sRun (poolMem 0 2)).freeRing 0 0 0x1100 with | some f => f.size == 4 && 2 ≤ f.cap | none => false) && next (exec (.poolreg rq) (sRun (poolMem 0 2))) (fun t => (t.die 0).pool == some { asid := 0, block := 0x1000 }) = true := by decide +kernel
theorem test_pool_none : (stays s0 (.poolLevelEval 0) && stays s0 (.swapOut 0) && stays s0 (.swapIn 0)) = true := by decide +kernel
theorem test_pool_held : (let s := { sPool 0 1 with pins := [(0x4020, ⟨99, 0⟩)] }
    s.poolHeld 0 && stays s (.poolLevelEval 0) && stays s (.swapOut 0) && stays s (.swapIn 0)) = true := by decide +kernel
theorem test_pool_normal : (!(sPool 0 2).poolHeld 0 && ((sPool 0 2).poolAt 0).any (fun x => (sPool 0 2).poolLevel x.2 == 0) && next (exec (.poolLevelEval 0) (sPool 0 2)) fun t => (t.die 0).pool == some { asid := 0, block := 0x1000 }) = true := by decide +kernel
theorem test_pool_evict : (((sPool 0 1).poolAt 0).any (fun x => (sPool 0 1).poolLevel x.2 == 1 && ((sPool 0 1).seqOrder x.2).any fun q => q.st == 0) && next (exec (.poolLevelEval 0) (sPool 0 1)) fun t =>
    (t.die 0).pool == some { asid := 0, block := 0x1000, cursor := 1, busy := some (0, 2) }) = true := by decide +kernel
theorem test_swap_out : (((sPool 0 0).poolAt 0).any (fun x => (sPool 0 0).poolLevel x.2 == 2) && next (exec (.swapOut 0) (sPool 0 0)) fun t =>
    (t.die 0).pool == some { asid := 0, block := 0x1000, busy := some (0, 3) }) = true := by decide +kernel
theorem test_swap_out_not : stays (sPool 0 1) (.swapOut 0) = true := by decide +kernel
theorem test_swap_in : (((sPool 4 3).poolAt 0).any (fun x => ((sPool 4 3).seqOrder x.2).any fun q => q.st == 4 && ((sPool 4 3).mapped x.2 q 0 q.len).any fun xs => x.2.blk.high + xs.length ≤ (sPool 4 3).poolFree x.2) &&
    next (exec (.swapIn 0) (sPool 4 3)) fun t => (t.die 0).pool == some { asid := 0, block := 0x1000, busy := some (0, 5) }) = true := by decide +kernel
theorem test_swap_in_not : stays (sPool 0 2) (.swapIn 0) = true := by decide +kernel
theorem test_key_switch : (let s := { s0 with keys := [(4, { gen := 2, pend := some {} })] }
    next (exec (.keySlotSwitch 4) s) fun t => t.keyOf 4 == { loaded := true, gen := 3 }) = true := by decide +kernel
theorem test_key_waits : (let s := { sLd with keys := [(0, { gen := 2, pend := some { ops := [(0, 2)] } })] }
    (s.op 0).any (fun o => o.todo.getLsbD 1) && stays s (.keySlotSwitch 0)) = true := by decide +kernel
/-- The policy is `p`. -/
def sPol (p : Nat) : State := { s0 with boot := { s0.boot with policy := p } }
theorem test_breach_report : next (exec (.breachAlarm 4) (sPol 0)) (fun t => t.events == [.breach 4]) = true := by decide +kernel
theorem test_breach_erase : next (exec (.breachAlarm 4) (sPol 1)) (fun t => t.keys.all (fun k => !k.2.loaded && k.2.pend.isNone) && t.boot.derivOff) = true := by decide +kernel
theorem test_breach_stop : next (exec (.breachAlarm 4) (sPol 2)) (fun t => t.keys.all (fun k => !k.2.loaded) && t.boot.st == 3 && t.boot.stage == 0xF0 && t.boot.stopped && t.waves.isEmpty) = true := by decide +kernel
theorem test_lane_fail : (next (exec (.hostLaneFail 16) s0) (fun t => t.boot.hostLanes == 16) && stays s0 (.hostLaneFail 32)) = true := by decide +kernel
theorem test_coherence : (next (exec (.hostCoherence hostPa 9) s0) (fun t => memGet t.mem hostPa == 9) && stays s0 (.hostCoherence 0x1000 9)) = true := by decide +kernel
theorem test_coherence_pinned : next (exec (.hostCoherence hostPa 9) { s0 with pins := [(hostPa / 128, ⟨99, 0⟩)] }) (fun t => memGet t.mem hostPa == 0 && t.again == [.poke hostPa 9]) = true := by decide +kernel
/-- One tile of address space 3. -/
def sTile : State := { s0 with dies := [(0, { tiles := [(4, { st := 1, gen := 65535, asid := 3, size := 128, sees := 1, fill := .slot 0 })], poolUsed := 3 })] }
theorem test_release : (next (exec (.addressSpaceRelease 3) sTile) (fun t => t.tile 0 4 == {} && (t.die 0).poolUsed == 2) && stays sTile (.addressSpaceRelease 2)) = true := by decide +kernel
-- R238: its identifiers are undefined
theorem test_release_tensors : next (exec (.addressSpaceRelease 3) { s0 with tensors := [(tensorKey 3 1, tensor0 0 4 0x1000), (tensorKey 4 1, tensor0 0 4 0x1400)] })
    (fun t => t.tensors == [(tensorKey 4 1, tensor0 0 4 0x1400)]) = true := by decide +kernel
theorem test_power : next (exec .powerRemoval { s0 with mem := [(5, 1), (hostPa, 2)] }) (fun t => t.mem == [(hostPa, 2)] && t.waves.isEmpty && t.boot == {}) = true := by decide +kernel

/-! ## The machine as a whole -/

-- R14: p7 reads true; the compare writes p2 alone
theorem test_isetp_p7_first : ((compareForm (.isetp h1 .lt .u32 7 2 (.v 2) (.imm 5))).isSome && runs s1 (.isetp h1 .lt .u32 7 2 (.v 2) (.imm 5)) Ctx.any (fun t =>
    !(wv t).regs.pAt 2 3 && (wv t).regs.pAt 2 5 && (wv t).regs.pAt 2 31 && tget (wv t).regs.p 7 0 == 0)) = true := by decide +kernel
theorem test_isetp_p7_second : runs s1 (.isetp h1 .lt .u32 2 7 (.v 2) (.imm 5)) Ctx.any (fun t => tget (wv t).regs.p 2 0 == 0x1F) = true := by decide +kernel

/-- The gate of form `i` in `s`. -/
def holds (s : State) (i : Instr) (r : Nat) : Bool :=
  match s.ctx i with
  | some c => c.gate != .go && next (exec i s) fun t => (pth t 0).blk == some r && (pth t 0).pc == pc0
  | none => false
-- R16, R34: a wait on c2, which stands at 1, is counter wait
theorem test_gate_wait : holds (sw fun w => { w with c := [(2, 1)] }) (.nop { h7 with wait := 4 }) (s0.waitReason probeWave 4) = true := by decide +kernel
theorem test_gate_handle : holds (sw fun w => { w with hBusy := [(1, 0)] }) (.hdrop h7 1) 13 = true := by decide +kernel
theorem test_gate_full : holds (sw fun w => { w with c := [(1, 63)] }) (.nop h1) 1 = true := by decide +kernel
theorem test_gate_not_full : runs (sw fun w => { w with c := [(1, 62)] }) (.nop h1) (fun _ => true) (fun t => (wv t).ctr 1 == 63) = true := by decide +kernel
/-- The scoreboard is on, and v2 is ready at cycle 4. -/
def sScb (on : Bool) (n : Nat) : State :=
  { (s1.modLaunch probeLaunch fun x => { x with hdr := { x.hdr with scb := on } }).modWave probeWave fun w =>
      { w with haz := [{ reg := .v 2, lanes := 0xFFFFFFFF, readyAt := some 4, pc := 0x1FFFFFC0 }] } with now := n }
-- R65, Table 4-5: cause 0, at cycle 3; none at cycle 4
theorem test_gate_short : (((sScb true 3).ctx (.iabs h7 (.v 3) (.v 2))).any (fun c => c.hdr.scb && c.shortStall == some (0, 0x1FFFFFC0)) &&
    next (exec (.iabs h7 (.v 3) (.v 2)) (sScb true 3)) fun t => faulted t == some fStallShort) = true := by decide +kernel
theorem test_gate_long : issues (sScb true 4) (.iabs h7 (.v 3) (.v 2)) (fun c => c.shortStall.isNone) = true := by decide +kernel
-- R311, Table 21-5: an atomic in a body
theorem test_gate_body : ((sBody.ctx (.red h7 .add .default .die .w32 8 ms)).any (fun c => c.w.region.isSome) && rlxCause (.red h7 .add .default .die .w32 8 ms) == some 1 &&
    next (exec (.red h7 .add .default .die .w32 8 ms) sBody) fun t => faulted t == some fRlxForbidden) = true := by decide +kernel
-- R193: a form forbidden in a transaction dooms its lanes
theorem test_gate_tx : ((Instr.launch h7 6 4).txForbidden && next (exec (.launch h7 6 4) (s1.modWave probeWave fun w => { w with tx := [(3, { active := true })] })) fun t =>
    (tget (wv t).tx 3 {}).doomed && t.ops.isEmpty) = true := by decide +kernel
-- R69: v1's lane 2 is poisoned, and ST consumes it
theorem test_gate_poison : (let s := sm.modWave probeWave fun w => { w with regs := { w.regs with vP := [(8, 4)] } }
    (Instr.st h1 .default .w32 8 mv).consumes && next (exec (.st h1 .default .w32 8 mv) s) fun t =>
      (wv t).trap.pend.any fun f => f.code == fPoisonConsumed && f.mask == 4 && f.origin == 0x1008) = true := by decide +kernel
-- R66: the word poisons v17 in the even lanes, with its own address
-- R69, Table 4-7: a load is a consumer in the lanes of a transaction
theorem test_gate_poison_tx : (let s := sm.modWave probeWave fun w => { w with tx := [(2, { active := true })], regs := { w.regs with vP := [(8, 5)] } }
    next (exec (.ld h1 .default false .w32 2 mv) s) fun t => (wv t).trap.pend.any fun f => f.code == fPoisonConsumed && f.mask == 4) = true := by decide +kernel
-- R78: no poisoning word faults at issue, the scoreboard on and its guard pending
theorem test_poison_scb : (let s := (s1.modLaunch probeLaunch fun x => { x with hdr := { x.hdr with scb := true } }).modWave probeWave fun w =>
      { w with haz := [{ reg := .p 0, lanes := 0xFFFFFFFF, readyAt := some 4, pc := 0x1FFFFFC0 }] }
    (s.ctx (.nop hp)).any (fun c => c.holdReason.isNone) && next (issuePoison hp [.v 17] s) fun t => (wv t).trap.pend.isNone && (pth t 0).pc == pc0 + 1) = true := by decide +kernel
theorem test_poison_word : (match decode 256 2 0xC000_0004_0200_C004_40E0_8058 with
    | .poison h ds => h == { hp with ctr := 7 } && ds == [.v 17] && (s1.ctx (.nop h)).any (fun c => c.holdReason.isNone) && next (issuePoison h ds s1) fun t =>
        (wv t).regs.vBad 17 2 && (wv t).regs.vAt 17 2 == 0x20000000 && !(wv t).regs.vBad 17 3 && (pth t 0).pc == pc0 + 1
    | _ => false) = true := by decide +kernel

/-- `StepRunsDecoded`'s conditions for slot 0 of the wave of `s`, whose word `word` it is to issue. -/
def ready (s : State) (word : BitVec 96) : Bool :=
  let w := wv s
  match s.codePa w pc0 with
  | none => false
  | some (pa, key) => match (s.cachedLine w pa).or (if (pth s 0).loop.isSome then some (s.l2Read key pa 64) else none) with
    | none => false
    | some bs =>
        let l := decodeLine (s.codeBytes w pa bs)
        !s.codeHeld w pc0 && !s.codeMixed pa key && s.pairDue.isNone &&
        s.pathRuns w 0 true && !w.issuedNow && !(s.core 0).quarters.contains w.quarter && s.myTurn probeWave w 0 && l.parityOk && l.formatOk &&
          (s.die 0).cmps.isEmpty && l.words.getD (pc0.toNat % 8) 0 == word
/-- The machine after reset, with IADD v4, v1, v2 as the instruction that it fetches next. -/
def sFetch : State := State.reset.withFetchWord 96 iaddWord.toNat
theorem test_ready : (sFetch.pairDue.isNone && sFetch.agenda == [.issue probeWave 0] && ready sFetch iaddWord &&
    decode ((sFetch.hdr (wv sFetch)).v) 2 iaddWord == .instr (.iadd ⟨false, 7, 0, false, 7, 0⟩ .s32 false (.v 4) (.v 1) (.v 2))) = true := by decide +kernel
-- R116: a line of a loop's body is not looked up
theorem test_ready_loop : ready { (sFetch.modWave probeWave fun w => { w with slot0 := w.slot0.map fun p => { p with loop := some ⟨2, pc0, pc0 + 1⟩ } }) with icache := [] } iaddWord = true := by decide +kernel
/-- A handler has given the wave paths that break R24 to R30. -/
def sBroken : State := sFetch.modWave probeWave fun w => { w with trap := { w.trap with broken := true } }
theorem test_step_broken : (ready sBroken iaddWord && match step sBroken with | .fault .pathStateBroken => true | _ => false) = true := by decide +kernel
-- R371: nothing of a launch changes once its halt is complete
def sFrozen : State := { (sWalk.modLaunch probeLaunch fun x => { x with halt := some { complete := true } }) with agenda := [.ev (.translationWalk 0), .tick] }
theorem test_step_frozen : (({ sFrozen with agenda := [.tick] } : State).evFrozen (.translationWalk 0) && next (step sFrozen) fun t =>
    (t.op 0).any (fun o => !o.walked) && t.agenda == [.tick]) = true := by decide +kernel
theorem test_step_runs : next (step { sFetch with waves := s1.waves }) (fun t => (wv t).regs.vAt 4 3 == 0xFFFFFFF6 && (pth t 0).pc == pc0 + 1) = true := by decide +kernel
theorem test_step_event : next (step { sHalt none with agenda := [.ev (.debugHalt probeLaunch), .tick] }) (fun t =>
    (t.launch probeLaunch).any (fun l => l.halt.isSome) && t.agenda == [.tick]) = true := by decide +kernel
theorem test_step_round : (s0.pairDue.isNone && s0.agenda.isEmpty && next (step s0) fun t => t.agenda == s0.round && !t.agenda.isEmpty) = true := by decide +kernel
theorem test_memory_wf : (s0.mem.wf && launchMem.wf && State.reset.mem.wf) = true := by decide +kernel
theorem test_memory_not_wf : (!Memory.wf [(3, 0)] && !Memory.wf [(4, 1), (3, 1)] && !Memory.wf [(3, 1), (3, 1)]) = true := by decide +kernel

/-! ## Words of the spec -/

/-- A word from its fields (Table 4-2), with WAIT 0, CTR 7, STALL 2 and GUARD p7. -/
def word (fmt imm srcc srcb srca dst opc : Nat) : BitVec 96 :=
  BitVec.ofNat 96 (fmt * 2 ^ 94 + imm * 2 ^ 62 + srcc * 2 ^ 54 + srcb * 2 ^ 46 + srca * 2 ^ 38 + dst * 2 ^ 30 + 7 * 2 ^ 21 + 2 * 2 ^ 14 + 7 * 2 ^ 10 + opc)
/-- `w` decodes to `i`, which is well formed and encodes to `w`. -/
def is (w : BitVec 96) (i : Instr) : Bool := decode 256 2 w == .instr i && i.wf 256 2 && encode i == some w
-- Table 4-8
theorem test_nop_words : (is 0x00E0DC00 (.nop ⟨false, 7, 3, false, 7, 0⟩) && is 0x00001C00 (.nop ⟨false, 7, 0, false, 0, 0⟩) && is 0x01E01C00 (.nop ⟨false, 7, 0, false, 7, 1⟩) &&
    is 0x00E03C00 (.nop ⟨true, 7, 0, false, 7, 0⟩) && is 0x00F01C00 (.nop ⟨false, 7, 0, true, 7, 0⟩)) = true := by decide +kernel
/-- The line of Table 4-8. -/
def line48 : List Byte := encodeLine [0x00E0DC00, 0x00001C00, 0x01E01C00, 0x00E03C00, 0x00F01C00] 9 10
theorem test_line : (line48.length == 64 && line48.drop 60 == [0x6A, 0x9A, 0x04, 0x00] && line48.take 4 == [0x00, 0xDC, 0xE0, 0x00] &&
    decodeLine line48 == ⟨[0x00E0DC00, 0x00001C00, 0x01E01C00, 0x00E03C00, 0x00F01C00], 2, 9, 10, true, true⟩) = true := by decide +kernel
theorem test_line_parity : (!(decodeLine (line48.set 7 1)).parityOk && !(decodeLine (line48.set 62 0)).formatOk && !(decodeLine (line48.set 63 1)).formatOk) = true := by decide +kernel
-- Tables 7-5 and 9-6
theorem test_span_word : is 0xC03F_C03F_C5C5_03C2_00E0_1C08 (.span ⟨false, 7, 0, false, 7, 0⟩ ⟨8, 15⟩ ⟨20, 23⟩ ⟨0xFF, 0⟩ ⟨0xFF, 0⟩) = true := by decide +kernel
theorem test_float_words : (is 0x0303_C342_80E1_1CC3 (.ffma ⟨false, 7, 4, false, 7, 0⟩ (.v 10) (.v 13) (.v 15) (.v 12)) &&
    is 0x0000_1400_C000_8044_42E1_1CDE (.hsetp2 ⟨false, 7, 4, false, 7, 2⟩ .lo .lt 1 2 (.v 1) (.v 2)) &&
    is (word 0 (0x101 * 256) 0 0 1 4 0x0C9) (.fcvt h7 .rz .f16 .f32 (.v 4) (.v 1))) = true := by decide +kernel
-- Table 18-6
theorem test_engine_words : (is 0xC000_0000_0000_0C00_0660_1A80 (.mma ⟨false, 6, 0, false, 3, 6⟩ none 0 3 0) &&
    is 0x8000_1000_0000_0280_0120_1E86 (.wbld ⟨false, 7, 0, false, 1, 1⟩ none .e4m3 0 10 0x4000) && is (word 2 8 1 0 4 0x23 0x240) (.tdef h7 0x123 4 8)) = true := by decide +kernel
-- Table 22-4
theorem test_rlx_words : (is 0xC000_0000_0040_00C0_00E0_1EC0 (.rlxcfg ⟨false, 7, 0, false, 7, 0⟩ false .hold false 2 4) &&
    is 0x8000_0000_0001_0203_00E0_1EC2 (.rlxin ⟨false, 7, 0, false, 7, 0⟩ 12 8 0 4) && is 0xC000_0000_0000_09C0_40E0_9EC6 (.rlxq h7 9 (.p 1))) = true := by decide +kernel
-- Table 25-6
theorem test_basin_words : (is 0xC000_0400_0000_01C4_00E0_1EF0 (.bnew ⟨false, 7, 0, false, 7, 0⟩ 0 1 7 (.imm 4096)) &&
    is 0x8000_0000_0001_8040_00E0_1EF6 (.hstm ⟨false, 7, 0, false, 7, 0⟩ 6 0 1) && is 0x0000_0000_C000_0081_C040_1EE2 (.gadd ⟨false, 7, 0, false, 2, 0⟩ 7 (.v 2))) = true := by decide +kernel
-- Table 29-4, and the encodings of Table 29-3
theorem test_system_words : (is 0xC000_0000_0000_0040_8000_1F14 (.cred ⟨false, 7, 0, false, 0, 0⟩ .add .f32 (.v 2) 1) &&
    is 0x8000_0000_0000_0100_0020_1F13 (.treeset ⟨false, 7, 0, false, 1, 0⟩ 4 0) && is (word 0 (0x4B * 256) 0 0 0 5 0x320) (.sysr h7 (.v 5) 0x4B) &&
    is (word 3 0xBEEF 0 0 0 0 0x322) (.trap h7 0xBEEF) && is (word 0 (16 * 256 + 1) 0 0 0 3 0x328) (.cntrd h7 16 (.s 3)) && is (word 3 0 0 0 4 6 0x310) (.launch h7 6 4)) = true := by decide +kernel
-- R71, R72, Tables 5-1, 5-4, 7-1, 7-3
theorem test_control_words : (is (word 1 0x20000003 0 0 0 0 0x001) (.bra h7 0x20000003) && is (word 1 1 2 0 1 2 0x00D) (.shfl h7 .down 2 (.v 1) (.imm 1)) &&
    is (word 0 0 0 2 1 4 0x040) (.iadd h7 .s32 false (.v 4) (.v 1) (.v 2)) && is (word 0 (0x21 * 256) 0 2 1 4 0x041) (.isub h7 .u32 true (.v 4) (.v 1) (.v 2)) &&
    is (word 0 (0x96 * 256 + 0xFF) 3 0xA 1 4 0x160) (.plop h7 0x96 4 ⟨1, false⟩ ⟨2, true⟩ ⟨3, false⟩)) = true := by decide +kernel
-- Tables 5-5 and 12-12
theorem test_memory_words : (is (word 2 0x618AFFFC 8 0 4 2 0x184) (.atom h7 .exch .default .die .w32 2 8 ⟨2, 4, 0, 0xFFFC⟩) && is (word 3 300 0 0 0 2 0x193) (.barw h7 300 2)) = true := by decide +kernel
-- Table 5-6: an unassigned code, a reserved one, CTR 6, a class that EXIT does not accept, three sources in the immediate class, bit 50, SAT on AND
theorem test_poison_words : ([word 0 0 0 0 0 4 0x05F, word 0 0 0 0 0 4 0x340, word 0 0 0 2 1 4 0x040 - 1 * 2 ^ 21, word 1 0 0 0 0 4 0x006, word 1 0 0 0 1 4 0x044, word 1 0 0 0x10 1 4 0x040,
    word 0 (0x20 * 256) 0 2 1 4 0x049].all fun w => match decode 256 2 w with | .poison _ _ => true | _ => false) = true := by decide +kernel
-- R50: FDOT4 is of generation 2
theorem test_generation : (match decode 256 1 (word 0 0 3 2 1 4 0x0E0), decode 256 2 (word 0 0 3 2 1 4 0x0E0) with | .poison _ _, .instr _ => true | _, _ => false) = true := by decide +kernel
theorem test_table_word : (decodeTableWord 96 0x0303_C342_80E1_1CC3 == some (.ffma ⟨false, 7, 4, false, 7, 0⟩ (.v 10) (.v 13) (.v 15) (.v 12)) && (decodeTableWord 96 0x340).isNone) = true := by decide +kernel

/-! ## Well-formedness: one ill-formed term for each check, and its well-formed neighbour -/

theorem test_ill_control : ([.nop { h7 with ctr := 6 }, .nop { h7 with ctr := 8 }, .nop { h7 with stall := 64 }, .nop { h7 with pix := 8 }, .nop { h7 with wait := 64 }, .brx h7 (.imm 1), .rep h7 (.v 1), .sleep h7 (.v 1),
    .txabort h7 (.v 1), .span h7 ⟨256, 0⟩ ⟨0xFF, 0⟩ ⟨0xFF, 0⟩ ⟨0xFF, 0⟩, .loop h7 (.imm 65536) 0, .elect h7 (.v 1), .vote h7 .ballot (.p 1) ⟨0, false⟩, .vote h7 .all (.v 1) ⟨0, false⟩,
    .shfl h7 .idx 1 (.imm 1) (.imm 1), .waitc h7 64, .ipref h7 0 0, .ipref h7 0 17, .feat h7 (.s 1) (.v 1), .stallCountExpiry 0 0].all fun (i : Instr) => !i.wf 256 2) = true := by decide +kernel
theorem test_well_control : ([.nop h7, .brx h7 (.s 1), .rep h7 (.s 1), .sleep h7 (.imm 1), .span h7 ⟨255, 0⟩ ⟨0xFF, 0⟩ ⟨0xFF, 0⟩ ⟨0xFF, 0⟩, .loop h7 (.imm 65535) 0, .elect h7 (.p 1), .vote h7 .ballot (.v 1) ⟨0, false⟩,
    .vote h7 .all (.p 1) ⟨0, false⟩, .waitc h7 63, .ipref h7 0 16, .feat h7 (.v 1) (.v 1)].all fun (i : Instr) => i.wf 256 2) = true := by decide +kernel
theorem test_ill_integer : ([.iadd h7 .s32 false (.v 256) (.v 1) (.v 2), .iadd h7 .s32 false (.s 64) (.s 1) (.s 2), .iadd h7 .s32 false (.s 1) (.v 1) (.s 2), .iadd h7 .s32 false (.v 1) (.imm 1) (.v 2), .iadd h7 .s32 false (.v 1) (.sys 0xF) (.v 2),
    .iadd64 h7 (.v 255) (.v 1) (.v 2), .lea h7 .s32 8 (.v 2) (.v 4) (.v 6), .lea h7 .s32 1 (.v 2) (.v 4) (.imm 6), .imad h7 .s32 false (.v 1) (.v 1) (.v 1) (.imm 1), .iabs h7 (.v 1) (.imm 1), .isetp h7 .lt .s32 8 1 (.v 1) (.v 2),
    .sel h7 (.v 1) (.v 1) (.imm 1) ⟨0, false⟩, .movi h7 true (.v 1) (.imm 1), .pset h7 1 (.v 1), .v2p h7 (.v 1) (.v 2)].all fun (i : Instr) => !i.wf 256 2) = true := by decide +kernel
theorem test_well_integer : ([.iadd h7 .s32 false (.v 255) (.v 1) (.imm 2), .iadd h7 .s32 false (.s 63) (.s 1) (.s 2), .iadd64 h7 (.v 254) (.v 1) (.v 2), .lea h7 .s32 7 (.v 2) (.v 4) (.v 6), .isetp h7 .lt .s32 7 1 (.v 1) (.v 2),
    .movi h7 true (.s 1) (.imm 1), .pset h7 1 (.s 1), .v2p h7 (.v 1) (.imm 2)].all fun (i : Instr) => i.wf 256 2) = true := by decide +kernel
theorem test_limits : ((Instr.iabs h7 (.v 31) (.v 1)).wf 32 2 && !(Instr.iabs h7 (.v 32) (.v 1)).wf 32 2 && !(Instr.rlxin h7 32 4 0 0).wf 32 2 && (Instr.ld h7 .default false .w128 28 ms).wf 32 2 && !(Instr.ld h7 .default false .w128 29 ms).wf 32 2 &&
    !(Instr.fdot4 h7 (.v 1) (.v 1) (.v 1) (.v 1)).wf 32 1 && !(Instr.nop h7).wf 32 3 && (Instr.nop h7).wf 32 1) = true := by decide +kernel
theorem test_ill_memory : ([.ld h7 .default true .w32 2 mv, .ld h7 .default false .w32 2 ⟨4, 1, 0, 0⟩, .ld h7 .default false .w32 2 ⟨0, 1, 1, 0⟩, .ld h7 .default false .w32 2 ⟨2, 255, 0, 0⟩, .atom h7 .fadd .default .die .w64 2 4 ms,
    .atom h7 .add .default .die .w128 4 4 ms, .red h7 .cas .default .die .w32 2 ms, .bind h7 .bar 512 4 0 (.imm 0), .bind h7 .tile 16 4 0 (.imm 0), .bind h7 .flag 64 4 0 (.imm 0), .bind h7 .flag 1 4 0 (.imm 128), .barinit h7 512 (.imm 1),
    .barinit h7 1 (.imm 256), .bara h7 512].all fun (i : Instr) => !i.wf 256 2) = true := by decide +kernel
theorem test_ill_engine : ([.tdef h7 4096 4 0, .tqry h7 (.s 1) 1 13, .cpy h7 (some 64) 1 2, .cpy h7 none 4096 2, .tkdec h7 1 4096, .tkpull h7 true 1 1 16, .tkpull h7 true 63 1 1, .mma h7 none 4 1 1, .mma h7 none 0 1 16, .wbld h7 none .i8 16 4 0, .accfree h7 4,
    .weirget h7 none 64 1 1, .evpop h7 253 1].all fun (i : Instr) => !i.wf 256 2) = true := by decide +kernel
theorem test_ill_relax : ([.rlxcfg h7 true .hold false 0 4, .rlxcfg h7 true .hold false 4 65537, .rlxst h7 ⟨1, 256⟩ ⟨0xFF, 0⟩ ⟨0xFF, 0⟩ ⟨0xFF, 0⟩, .rlxgs h7 true 1 0, .rlxq h7 10 (.s 1), .rlxq h7 8 (.p 1), .rlxseed h7 2 4, .gperm h7 1 (.imm 1), .gq h7 13 (.s 1),
    .hld h7 true .w64 2 1 none 0, .hld h7 false .w64 2 16 none 0, .hxfer h7 1 1 6 0, .hxfer h7 1 1 0 16, .dieq h7 8 (.s 1), .cred h7 .and .f32 (.v 1) 1, .sysr h7 (.v 1) 0x21, .sysw h7 0x4C 1, .cntrd h7 17 (.v 1)].all fun (i : Instr) => !i.wf 256 2) = true := by decide +kernel
theorem test_well_rest : ([.ld h7 .default true .w16 2 mv, .atom h7 .fadd .default .die .w32 2 4 ms, .red h7 .add .default .die .w64 2 ms, .bind h7 .bar 511 4 0 (.imm 127), .barinit h7 511 (.imm 32), .tqry h7 (.s 1) 1 12, .cpy h7 (some 63) 1 4095, .tkpull h7 true 62 1 15,
    .mma h7 none 3 1 15, .evpop h7 252 1, .rlxcfg h7 true .hold false 65536 65536, .rlxgs h7 true 0 0, .rlxq h7 9 (.p 1), .gq h7 12 (.s 1), .hxfer h7 1 15 5 15, .dieq h7 7 (.s 1), .cred h7 .and .u32 (.v 1) 1, .sysr h7 (.v 1) 0x6F, .cntrd h7 16 (.v 1)].all fun (i : Instr) =>
      i.wf 256 2) = true := by decide +kernel

end Sys2Proof.Machine.Test
end

section
/-! PROOFS. Predicate p7 (R14): its reads and writes, the result of a predicate-valued form, what a compare does, and the settlement
of O53. -/

namespace Sys2Proof.Machine

open Sys2Proof

/-! ## Reads and results of p7 -/

/-- p7 reads as a constant, whatever the wave holds (R14). -/
@[simp] theorem Ctx.rdP_seven (c : Ctx) (l : Nat) : c.rdP 7 l = { val := 1 } := by
  simp [Ctx.rdP]

/-- A result written to p7 changes no register (R14). -/
@[simp] theorem apply_toP_seven (c : Ctx) (f : Nat → Rd) (g : Regs) : (c.toP 7 f).apply g = g := by
  simp [RegWrite.apply, Ctx.toP]

/-! ## A truth value as a result of a predicate -/

/-- The read of lane `l` that a predicate-valued form writes: 1 or 0, or the poison of its inputs (R67, R68). -/
def Ctx.truth (c : Ctx) (ins : List Rd) (x : Bool) (l : Nat) : Rd := c.lane ins (if x then 1 else 0) l

/-- The lane rule of R68 for a predicate: bit 0 of the truth value, or the poison bit. -/
theorem truth_receivesP (c : Ctx) (ins : List Rd) (x : Bool) (l : Nat) :
    ReceivesP (!(c.truth ins x l).pois && (c.truth ins x l).val.getLsbD 0) (c.truth ins x l).pois (ins ++ [c.guard l]) x := by
  unfold Ctx.truth Ctx.lane ReceivesP
  cases (ins ++ [c.guard l]).find? Rd.pois with
  | none => cases x <;> simp
  | some r => simp

/-- THE RESULT OF A PREDICATE-VALUED FORM in pK, with p7 among the values of K. -/
theorem predOf_toP (c : Ctx) (g : Regs) (k : Nat) (ins : Nat → List Rd) (val : Nat → Bool) :
    PredOf c g ((c.toP k fun l => c.truth (ins l) (val l) l).apply g) k ins val := by
  refine ⟨fun l hl h7 hx => ?_, kept_toP c g k _⟩
  obtain ⟨hval, hbad⟩ := apply_toP c g k h7 (fun l => c.truth (ins l) (val l) l) l hl hx
  rw [hval, hbad]
  exact truth_receivesP c (ins l) (val l) l

/-! ## Compares -/

/-- The results of a compare are the truth values of its two conditions, pE's written last. -/
theorem compare_eq (c : Ctx) (pd pe : Nat) (a b : Src) (yes no : Word → Word → Bool) :
    c.compare pd pe a b yes no =
      [c.toP pd fun l => c.truth [c.rd a l, c.rd b l] (yes (c.rd a l).word (c.rd b l).word) l,
       c.toP pe fun l => c.truth [c.rd a l, c.rd b l] (no (c.rd a l).word (c.rd b l).word) l] := rfl

/-- Every compare that issues is a fixed-class form with the results of `Ctx.compare` (R103, R146, R152). -/
theorem exec_compareForm {i : Instr} {pd pe : Nat} {a b : Src} {yes no : Word → Word → Bool}
    (hi : compareForm i = some (pd, pe, a, b, yes, no)) {s : State} {c : Ctx} (h : Issues s i c) :
    exec i s = .next (c.fixed (c.compare pd pe a b yes no)) := by
  unfold compareForm at hi
  split at hi
  case h_1 => cases hi; exact issue_go h _
  case h_2 => cases hi; exact issue_go h _
  case h_3 => cases hi; exact issue_go h _
  case h_4 => cases hi

/-- A compare completes with whatever its two results, applied in order, do to every register file. -/
theorem compare_completesWith {i : Instr} {pd pe : Nat} {a b : Src} {yes no : Word → Word → Bool}
    (hi : compareForm i = some (pd, pe, a, b, yes, no)) {P : Ctx → Regs → Regs → Prop}
    (hP : ∀ c g, P c g ((c.compare pd pe a b yes no).foldl (fun g r => r.apply g) g)) : CompletesWith i P := by
  intro s c h
  obtain ⟨w', hdone, hregs⟩ := done_fixed h.ctx (c.compare pd pe a b yes no)
  exact ⟨_, w', exec_compareForm hi h, hdone, hregs ▸ hP c c.w.regs⟩

/-- A compare whose first destination is p7 writes pE alone (R14). -/
theorem compare_first_seven (c : Ctx) (g : Regs) (pe : Nat) (a b : Src) (yes no : Word → Word → Bool) :
    PredOf c g ((c.compare 7 pe a b yes no).foldl (fun g r => r.apply g) g) pe (fun l => [c.rd a l, c.rd b l])
      (fun l => no (c.rd a l).word (c.rd b l).word) := by
  simp only [compare_eq, List.foldl_cons, List.foldl_nil, apply_toP_seven]
  exact predOf_toP c g pe _ _

/-- A compare whose second destination is p7 writes pD alone (R14). -/
theorem compare_second_seven (c : Ctx) (g : Regs) (pd : Nat) (a b : Src) (yes no : Word → Word → Bool) :
    PredOf c g ((c.compare pd 7 a b yes no).foldl (fun g r => r.apply g) g) pd (fun l => [c.rd a l, c.rd b l])
      (fun l => yes (c.rd a l).word (c.rd b l).word) := by
  simp only [compare_eq, List.foldl_cons, List.foldl_nil, apply_toP_seven]
  exact predOf_toP c g pd _ _

/-- Settles O53: p7 is a constant to `Ctx.rdP` and to `RegWrite.apply`, so of a compare's two results, applied in order, only the
one to the other destination shows. -/
theorem predicateSeven : Obligations.PredicateSeven := by
  unfold Obligations.PredicateSeven
  refine ⟨fun c l => ?_, fun c f g => apply_toP_seven c f g, fun i pd pe a b yes no hi => ⟨?_, ?_⟩⟩
  · rw [Ctx.rdP_seven]
    exact ⟨rfl, rfl⟩
  · rintro rfl
    exact compare_completesWith hi fun c g => compare_first_seven c g pe a b yes no
  · rintro rfl
    exact compare_completesWith hi fun c g => compare_second_seven c g pd a b yes no

end Sys2Proof.Machine
end

section
/-! PROOFS. What the decoder makes of the control fields (R52, R53): a word whose CTR field holds 6 poisons, no other control field
decides whether a word is an instruction, and the settlement of O54. -/

namespace Sys2Proof

/-! ## The control fields of a word -/

/-- The control fields of a word fit their widths, so CTR 6 alone is reserved among them (R53). -/
theorem Fields.ofWord_ctl_ok (w : BitVec 96) : (Fields.ofWord w).ctl.ok = true ↔ (Fields.ofWord w).ctl.ctr ≠ 6 := by
  have hpix : w.toNat / 2 ^ 10 % 8 < 8 := Nat.mod_lt _ (by decide)
  have hstall : w.toNat / 2 ^ 14 % 64 < 64 := Nat.mod_lt _ (by decide)
  have hctr : w.toNat / 2 ^ 21 % 8 < 8 := Nat.mod_lt _ (by decide)
  have hwait : w.toNat / 2 ^ 24 % 64 < 64 := Nat.mod_lt _ (by decide)
  simp only [Fields.ofWord, Ctl.ok, hpix, hstall, hctr, hwait, decide_true, Bool.true_and, Bool.and_true, bne_iff_ne]

/-- Words that agree on the `len` bits from bit `lo` upwards hold the same number there. -/
theorem slice_eq_of_getLsbD_eq {w w' : BitVec 96} {lo len : Nat}
    (hbits : ∀ k, lo ≤ k → k < lo + len → w.getLsbD k = w'.getLsbD k) :
    w.toNat / 2 ^ lo % 2 ^ len = w'.toNat / 2 ^ lo % 2 ^ len := by
  refine Nat.eq_of_testBit_eq fun k => ?_
  simp only [Nat.testBit_mod_two_pow, Nat.testBit_div_two_pow, BitVec.testBit_toNat]
  by_cases hk : k < len
  · rw [hbits (k + lo) (by omega) (by omega)]
  · simp [hk]

/-- Words that agree outside GUARD, STALL, YLD and WAIT hold the same fields but for those, and the same CTR (Table 4-2). -/
theorem Fields.ofWord_eq_of_agree {w w' : BitVec 96}
    (hbits : ∀ k, k < 96 → ¬ (10 ≤ k ∧ k < 21) → ¬ (24 ≤ k ∧ k < 30) → w.getLsbD k = w'.getLsbD k) :
    Fields.ofWord w' = { Fields.ofWord w with ctl := (Fields.ofWord w').ctl } ∧
      (Fields.ofWord w').ctl.ctr = (Fields.ofWord w).ctl.ctr := by
  have hslice (lo len : Nat) (hend : lo + len ≤ 96) (hlow : lo + len ≤ 10 ∨ 21 ≤ lo) (hhigh : lo + len ≤ 24 ∨ 30 ≤ lo) :
      w'.toNat / 2 ^ lo % 2 ^ len = w.toNat / 2 ^ lo % 2 ^ len :=
    (slice_eq_of_getLsbD_eq fun k hlo hhi => hbits k (by omega) (by omega) (by omega)).symm
  have hopc : w'.toNat % 1024 = w.toNat % 1024 := by simpa using hslice 0 10 (by decide) (by decide) (by decide)
  have hctr := hslice 21 3 (by decide) (by decide) (by decide)
  have hbody := hslice 30 64 (by decide) (by decide) (by decide)
  have hcls := hslice 94 2 (by decide) (by decide) (by decide)
  exact ⟨Fields.mk.injEq .. ▸ ⟨hcls, hbody, rfl, hopc⟩, hctr⟩

/-! ## Parsing under other control fields -/

/-- `i` and `j` are one form under the control fields `h` and `h'`: all else that the decoder asks of them is the same. -/
structure SameForm (h h' : Ctl) (i j : Instr) : Prop where
  ctl : i.ctl = some h := by rfl
  ctl' : j.ctl = some h' := by rfl
  shapeOk : i.shapeOk = j.shapeOk := by rfl
  writes : i.writes = j.writes := by rfl
  reads : i.reads = j.reads := by rfl
  namesOk : ∀ V, i.namesOk V = j.namesOk V := by intro; rfl
  isG2 : i.isG2 = j.isG2 := by rfl
  body : ∀ cls, i.body cls = j.body cls := by intro; rfl

/-- A form stays well formed under every admissible control fields. -/
theorem SameForm.wf {h h' : Ctl} {i j : Instr} (hij : SameForm h h' i j) (hok : h'.ok = true) {V ver : Nat}
    (hi : i.wf V ver = true) : j.wf V ver = true := by
  simp only [Instr.wf, hij.ctl, hij.ctl', hij.shapeOk, hij.writes, hij.reads, hij.namesOk, hij.isG2, Option.any_some, hok,
    Bool.and_eq_true, true_and, and_assoc] at hi ⊢
  exact hi.2

/-! The forms with an operand that the model's functions look into before they answer: one case for each shape of it. -/

theorem SameForm.loop (h h' : Ctl) (n : LoopCnt) (last : Word) : SameForm h h' (.loop h n last) (.loop h' n last) := by
  cases n <;> exact {}

theorem SameForm.v2p (h h' : Ctl) (a m : Src) : SameForm h h' (.v2p h a m) (.v2p h' a m) := by
  cases m <;> exact {}

theorem SameForm.barinit (h h' : Ctl) (b : Nat) (m : BarSet) : SameForm h h' (.barinit h b m) (.barinit h' b m) := by
  cases m <;> exact {}

theorem SameForm.rlxgs (h h' : Ctl) (unused : Bool) (a : Nat) (off : BitVec 16) :
    SameForm h h' (.rlxgs h unused a off) (.rlxgs h' unused a off) := by
  cases unused <;> exact {}

theorem SameForm.bnew (h h' : Ctl) (hf hs ps : Nat) (size : BSize) :
    SameForm h h' (.bnew h hf hs ps size) (.bnew h' hf hs ps size) := by
  cases size <;> exact {}

/-- Two parses that both fail, or that find one form under the control fields `h` and `h'`. -/
abbrev SameParse (h h' : Ctl) : Option Instr → Option Instr → Prop := Option.Rel (SameForm h h')

namespace SameParse

variable {h h' : Ctl}

/-- A field that is read the same way under both control fields leaves two parses the same when their continuations are. -/
theorem bind {α : Type} (o : Option α) {p q : α → Option Instr} (hpq : ∀ a, SameParse h h' (p a) (q a)) :
    SameParse h h' (o >>= p) (o >>= q) := by
  cases o with
  | none => exact .none
  | some a => exact hpq a

theorem ite {c : Prop} [Decidable c] {p q p' q' : Option Instr} (hp : SameParse h h' p p') (hq : SameParse h h' q q') :
    SameParse h h' (if c then p else q) (if c then p' else q') := by
  split
  · exact hp
  · exact hq

end SameParse

section Parsers

variable (f : Fields) (h : Ctl)

theorem parseControl_sameParse : SameParse f.ctl h (parseControl f) (parseControl { f with ctl := h }) := by
  unfold parseControl
  dsimp only
  split
  all_goals repeat refine .bind _ fun _ => ?_
  case h_4 | h_5 => exact .ite (.some {}) .none  -- CALL, RET
  case h_11 => exact .some (.loop ..)
  case h_14 => exact .ite (.bind _ fun _ => .bind _ fun _ => .bind _ fun _ => .some {}) .none  -- SHFL
  case h_19 => exact .none
  all_goals exact .some {}

theorem parseInteger_sameParse : SameParse f.ctl h (parseInteger f) (parseInteger { f with ctl := h }) := by
  unfold parseInteger
  dsimp only
  split
  all_goals repeat refine .bind _ fun _ => ?_
  case h_26 => exact .ite .none (.bind _ fun _ => .bind _ fun _ => .bind _ fun _ => .bind _ fun _ => .some {})  -- SEL
  case h_28 => exact .ite .none (.bind _ fun _ => .bind _ fun _ => .some {})  -- MOVI
  case h_32 => exact .none
  all_goals exact .some {}

theorem parseFloat_sameParse : SameParse f.ctl h (parseFloat f) (parseFloat { f with ctl := h }) := by
  unfold parseFloat
  dsimp only
  split
  all_goals repeat refine .bind _ fun _ => ?_
  case h_11 | h_12 =>  -- F2I, I2F
    exact .ite .none (.bind _ fun _ => .bind _ fun _ => .bind _ fun _ => .bind _ fun _ => .bind _ fun _ => .some {})
  case h_34 => exact .none
  all_goals exact .some {}

theorem parsePredicate_sameParse : SameParse f.ctl h (parsePredicate f) (parsePredicate { f with ctl := h }) := by
  unfold parsePredicate
  dsimp only
  split
  case h_1 => exact .ite .none (.bind _ fun _ => .bind _ fun _ => .bind _ fun _ => .some {})  -- PLOP
  case h_2 => exact .ite .none (.bind _ fun _ => .some {})  -- PSET
  case h_3 => exact .ite (.some {}) .none  -- P2V
  case h_4 => exact .bind _ fun _ => .bind _ fun _ => .some (.v2p ..)
  case h_5 => exact .none

theorem parseMemory_sameParse : SameParse f.ctl h (parseMemory f) (parseMemory { f with ctl := h }) := by
  unfold parseMemory
  dsimp only
  split
  all_goals repeat refine .bind _ fun _ => ?_
  case h_1 => exact .ite (.some {}) (.some {})  -- LD
  case h_10 => exact .ite (.some {}) .none  -- TXSTAT
  case h_18 => exact .some (.barinit ..)
  case h_23 => exact .none
  all_goals exact .some {}

theorem parseMatrix_sameParse : SameParse f.ctl h (parseMatrix f) (parseMatrix { f with ctl := h }) := by
  unfold parseMatrix
  dsimp only
  split
  all_goals repeat refine .bind _ fun _ => ?_
  case h_23 => exact .none
  all_goals exact .some {}

theorem parseRelax_sameParse : SameParse f.ctl h (parseRelax f) (parseRelax { f with ctl := h }) := by
  unfold parseRelax
  dsimp only
  split
  all_goals repeat refine .bind _ fun _ => ?_
  case h_1 => exact .ite (.some {}) (.ite .none (.ite (.bind _ fun _ => .some {}) (.bind _ fun _ => .some {})))  -- RLXCFG
  case h_4 => exact .some (.rlxgs ..)
  case h_9 => exact .none
  all_goals exact .some {}

theorem parseGaugeBasin_sameParse : SameParse f.ctl h (parseGaugeBasin f) (parseGaugeBasin { f with ctl := h }) := by
  unfold parseGaugeBasin
  dsimp only
  split
  all_goals repeat refine .bind _ fun _ => ?_
  case h_6 => exact .some (.bnew ..)
  case h_13 => exact .ite (.some {}) (.some {})  -- HLDM
  case h_16 => exact .none
  all_goals exact .some {}

theorem parseSystem_sameParse : SameParse f.ctl h (parseSystem f) (parseSystem { f with ctl := h }) := by
  unfold parseSystem
  dsimp only
  split
  all_goals repeat refine .bind _ fun _ => ?_
  case h_4 => exact .ite (.some {}) (.some {})  -- TREESET
  case h_15 => exact .none
  all_goals exact .some {}

/-- THE PARSER READS THE CONTROL FIELDS ONLY TO HAND THEM ON: under others it finds the same form, or none again. -/
theorem parse_sameParse : SameParse f.ctl h (parse f) (parse { f with ctl := h }) :=
  .ite (parseControl_sameParse f h) <| .ite (parseInteger_sameParse f h) <| .ite (parseFloat_sameParse f h) <|
    .ite (parsePredicate_sameParse f h) <| .ite (parseMemory_sameParse f h) <| .ite (parseMatrix_sameParse f h) <|
      .ite (parseRelax_sameParse f h) <| .ite (parseGaugeBasin_sameParse f h) (parseSystem_sameParse f h)

end Parsers

/-! ## Decoding -/

/-- The fields `f` hold the instruction `i`: what `decode` tests of a word. -/
structure Fields.Holds (V ver : Nat) (f : Fields) (i : Instr) : Prop where
  assigned : ¬ (f.cls ∉ classes f.opc ∨ (ver = 1 ∧ g2Opcode f.opc))
  parsed : parse f = some i
  asWritten : (f.body ^^^ i.body f.cls) &&& careMask f = 0
  wf : i.wf V ver = true

/-- A word that its fields make no instruction poisons (R66). -/
theorem decode_cases (V ver : Nat) (w : BitVec 96) :
    (∃ i, decode V ver w = .instr i ∧ (Fields.ofWord w).Holds V ver i) ∨
      (∃ h ds, decode V ver w = .poison h ds) ∧ ∀ i, ¬ (Fields.ofWord w).Holds V ver i := by
  unfold decode
  dsimp only
  split
  case isTrue hclass => exact .inr ⟨⟨_, _, rfl⟩, fun i hi => hi.assigned hclass⟩
  case isFalse hclass =>
    split
    case h_1 hparse => exact .inr ⟨⟨_, _, rfl⟩, fun i hi => by cases hparse ▸ hi.parsed⟩
    case h_2 i hparse =>
      split
      case isTrue hi => exact .inl ⟨i, rfl, hclass, hparse, hi.1, hi.2⟩
      case isFalse hi =>
        refine .inr ⟨⟨_, _, rfl⟩, fun j hj => hi ?_⟩
        cases hparse ▸ hj.parsed
        exact ⟨hj.asWritten, hj.wf⟩

/-- A word is an instruction when its fields hold one. -/
theorem decode_instr_iff {V ver : Nat} {w : BitVec 96} :
    (∃ i, decode V ver w = .instr i) ↔ ∃ i, (Fields.ofWord w).Holds V ver i := by
  obtain ⟨i, hdec, hi⟩ | ⟨⟨h, ds, hdec⟩, hnone⟩ := decode_cases V ver w
  · exact ⟨fun _ => ⟨i, hi⟩, fun _ => ⟨i, hdec⟩⟩
  · simp [hdec, hnone]

namespace Fields.Holds

variable {V ver : Nat} {f : Fields} {i : Instr}

/-- The control fields of a word that holds an instruction are admissible (R52, R53). -/
theorem ctl_ok (hi : f.Holds V ver i) : f.ctl.ok = true := by
  have hsame : SameParse f.ctl f.ctl (parse f) (parse f) := parse_sameParse f f.ctl
  rw [hi.parsed] at hsame
  obtain ⟨⟨hctl⟩⟩ := hsame
  have hwf := hi.wf
  simp only [Instr.wf, hctl, Option.any_some, Bool.and_eq_true, and_assoc] at hwf
  exact hwf.1

/-- Under other admissible control fields the fields hold an instruction again. -/
theorem setCtl (hi : f.Holds V ver i) {h : Ctl} (hok : h.ok = true) : ∃ j, { f with ctl := h }.Holds V ver j := by
  have hsame := parse_sameParse f h
  rw [hi.parsed] at hsame
  generalize hparse : parse { f with ctl := h } = o at hsame
  obtain @⟨_, j, hij⟩ := hsame
  exact ⟨j, hi.assigned, hparse, hij.body f.cls ▸ hi.asWritten, hij.wf hok hi.wf⟩

end Fields.Holds

end Sys2Proof

namespace Sys2Proof.Machine

open Sys2Proof

/-- Settles O54: an instruction's control fields are admissible, which excludes CTR 6 and nothing else; and the decoder reads the
other control fields only to hand them on to the instruction. -/
theorem counterSix : Obligations.CounterSix := by
  unfold Obligations.CounterSix
  refine ⟨fun V ver w hsix => ?_, fun V ver w w' hbits hinstr => ?_⟩
  · obtain ⟨i, -, hi⟩ | ⟨hpoison, -⟩ := decode_cases V ver w
    · exact absurd hsix ((Fields.ofWord_ctl_ok w).mp hi.ctl_ok)
    · exact hpoison
  · obtain ⟨i, hi⟩ := decode_instr_iff.mp hinstr
    obtain ⟨hfields, hctr⟩ := Fields.ofWord_eq_of_agree hbits
    have hok : (Fields.ofWord w').ctl.ok = true := by
      rw [Fields.ofWord_ctl_ok, hctr, ← Fields.ofWord_ctl_ok]
      exact hi.ctl_ok
    rw [decode_instr_iff, hfields]
    exact hi.setCtl hok

end Sys2Proof.Machine
end
